-- ==== Sys2Proof/Word.lean ====
section
/-! DEFINITION. The word types of the machine. -/

namespace Sys2Proof

/-- A scalar register, a PC or a system register value (R101): 64 bits. -/
abbrev Word := BitVec 64

/-- One byte of storage (R4). -/
abbrev Byte := BitVec 8

/-- A vector register (R122): 1,024 bits. -/
abbrev VWord := BitVec 1024

/-- A lane mask k1-k7 (R123): 128 bits. -/
abbrev KWord := BitVec 128

/-- A format table entry (R150): 128 bits. -/
abbrev EntryBits := BitVec 128

/-- A tensor handle register (R310): 64 bytes. -/
abbrev HWord := BitVec 512

end Sys2Proof
end

