-- ==== Sys2Proof/Syntax.lean ====
section
/-! DEFINITION. The rows of spec/opcode_table.json as one inductive: 206 instructions and 65 events.

An instruction's constructor holds the operand fields of its slot body (R54); the 17-bit header (R52) is held
beside it in `Slot`.  An event's constructor holds the data that comes from outside the module, if any; the unit
that an event is about stands in the machine's cursor (`State.cur`). -/

namespace Sys2Proof

/-- Scalar register number x0-x63 (R55). -/
abbrev XReg := Fin 64
/-- Vector register number v0-v31 (R55). -/
abbrev VReg := Fin 32
/-- Predicate number p0-p7 (R55), also a lane mask number. -/
abbrev PReg := Fin 8
/-- Format table entry number ft0-ft31 (R55). -/
abbrev FReg := Fin 32

/-- TY (R57). -/
inductive Ty where
  | i8 | i16 | i32 | i64 | n8 | n16 | n32 | n64
deriving DecidableEq, Repr

/-- SC (R57). -/
inductive Scope where
  | co | ti | mo | sy
deriving DecidableEq, Repr

/-- ORD (R57). -/
inductive MemOrd where
  | plain | acq | rel | ar
deriving DecidableEq, Repr

/-- CND of BC and BCZ (R59). -/
inductive Cond where
  | eq | ne | lt | ge | ltu | geu
deriving DecidableEq, Repr

/-- MOD[2:0] of CMP and VCMP (R107). -/
inductive CmpOp where
  | eq | ne | lt | ge | le | gt | tst
deriving DecidableEq, Repr

/-- MOD[2:0] of VFCMP (R130). -/
inductive FCmpOp where
  | eq | ne | lt | ge | le | gt | un
deriving DecidableEq, Repr

/-- MOD[4:3] of the compares (R107). -/
inductive Comb where
  | none | and | or
deriving DecidableEq, Repr

/-- RM (R58) without the reserved code 6. -/
inductive Rm where
  | rne | rtz | rdn | rup | rna | rsr | dyn
deriving DecidableEq, Repr

/-- MOD[1:0] of BCNT (R107). -/
inductive CntOp where
  | pop | clz | ctz | cls
deriving DecidableEq, Repr

/-- HINT (R52) without the reserved code 3. -/
inductive Hint where
  | none | likely | unlikely
deriving DecidableEq, Repr

/-- The memory operand of format MEM (R56). -/
structure MemOp where
  base : XReg
  idx  : XReg
  sh   : Fin 4
  disp : BitVec 49
deriving DecidableEq, Repr

/-- The memory operand of the atomics and futures, without an index (R220). -/
structure CellOp where
  base : XReg
  disp : BitVec 49
deriving DecidableEq, Repr

/-- SC, ORD and CH of an access (R57). -/
structure AccOpts where
  sc  : Scope
  ord : MemOrd
  ch  : Fin 3
deriving DecidableEq, Repr

/-- PC-relative target of format BR (R56). -/
structure BrTarget where
  slot  : Fin 8
  ldisp : BitVec 54
deriving DecidableEq, Repr

/-- The second operand of a vector operation (R126): VB, or X[XA] under `.x`. -/
inductive VSrc where
  | vec (vb : VReg)
  | sca (xa : XReg)
deriving DecidableEq, Repr

/-- Operation codes of AMO and RED (R220). -/
inductive AmoOp where
  | swap | add | and | or | xor | min | max | minu | maxu
deriving DecidableEq, Repr

/-- What RED adds (R224): an integer of 2^sz bytes, or a contribution read through an entry. -/
inductive RedSrc where
  | int (op : AmoOp) (sz : Fin 4)
  | cell (ent : FReg)
deriving DecidableEq, Repr

/-- How a contribution to a cell is read (R227): through an entry, or as i64. -/
inductive CellSrc where
  | ent (f : FReg)
  | xi
deriving DecidableEq, Repr

/-- The contribution of BARV (R251). -/
inductive BarvSrc where
  | int (op : AmoOp)
  | cell (xi : Bool) (ent : FReg)
deriving DecidableEq, Repr

/-- Bank mode (R175). -/
inductive BankMode where
  | cache | scratch | ring
deriving DecidableEq, Repr

/-- MOVP modes (R121). -/
inductive MovpOp where
  | all (d : XReg)
  | spread (a : XReg)
  | nz (pd : PReg) (a : XReg)
  | bit (d : XReg) (pa : PReg)
deriving DecidableEq, Repr

/-- VBCAST modes (R144). -/
inductive BcastOp where
  | x (vd : VReg) (xa : XReg) (mk : PReg) (ty : Ty) (z : Bool)
  | e (vd va : VReg) (xa : XReg) (mk : PReg) (ty : Ty) (z : Bool)
  | klo (k : PReg) (xa : XReg)
  | khi (k : PReg) (xa : XReg)
deriving DecidableEq, Repr

/-- VEXTR modes (R144). -/
inductive ExtrOp where
  | e (xa : XReg) (va : VReg) (ty : Ty)
  | klo (xa : XReg) (mk : PReg)
  | khi (xa : XReg) (mk : PReg)
  | cnt (xa : XReg) (mk : PReg) (ty : Ty)
deriving DecidableEq, Repr

/-- VFRED operations (R141). -/
inductive FredOp where
  | add | min | max
deriving DecidableEq, Repr

/-- VREDI operations (R141). -/
inductive RediOp where
  | add | min | max | xor
deriving DecidableEq, Repr

/-- VRNG sources (R146): key and base from registers, or SRKEY and SRCTR. -/
inductive RngSrc where
  | regs (va : VReg) (xa : XReg)
  | ctx
deriving DecidableEq, Repr

/-- CVT modes (R171). -/
inductive CvtOp where
  | fmt (dst src : FReg)
  | xi (ty : Ty) (dst : FReg)
  | xo (ty : Ty) (src : FReg)
deriving DecidableEq, Repr

/-- Job kinds (R63). -/
inductive JobKind where
  | bload | mma | mmab | attn | epi | spmm | opmul | opmrg | grpmm
deriving DecidableEq, Repr

/-- The entry operation of BINAPP (R327). -/
inductive BinOp where
  | add (b : XReg)
  | sub (b : XReg)
  | nan
deriving DecidableEq, Repr

/-- What an uncorrectable error strikes (R431). -/
inductive ErrorSite where
  | ctxData (id : Nat) (index : Nat) (info : Word)
  | jobData (tid slot : Nat)
  | copyData (tid ch : Nat)
  | streamData (q entry : Nat)
  | code (core : Nat) (line : Nat)
  | fatal (tid : Nat) (info : Word)
  /-- A section of the dump that is being read (R464), by its KIND, TID and SUB. -/
  | dumped (kind tid sub : Nat)
deriving DecidableEq, Repr

/-- Results of the units of the bring-up steps that did not pass (R459): step, unit, RESULT, detail. -/
structure BootResult where
  step   : Nat
  unit   : Nat
  result : Nat
  detail : Word
deriving DecidableEq, Repr

/-- What a bring-up meets: the results that did not pass, and the launch-window writes, chiplet and window, that arrived before
it was complete (R459, R460). -/
structure BringUp where
  results : List BootResult
  early   : List (Nat × Nat) := []
deriving DecidableEq, Repr

/-- Access kinds of a walk (R413, R414). -/
inductive AccKind where
  | load | store | rdwr | fetch | line
deriving DecidableEq, Repr

/-- A step of the machine: one constructor per row of spec/opcode_table.json, in the table's order, with the events that
carry no data last. -/
inductive Instr where
  -- control (04)
  | nop
  | halt (a : XReg) (retain : Bool)
  | spawn (d a : XReg) (tgt : BitVec 58)
  | hwait (d a : XReg)
  | trap (imm : BitVec 58)
  | getid (d : XReg) (sel : BitVec 58)
  | li (d : XReg) (imm : BitVec 58)
  | lih (d : XReg) (imm : BitVec 32)
  | br (t : BrTarget)
  | bc (a b : XReg) (c : Cond) (t : BrTarget)
  | bcz (a : XReg) (c : Cond) (t : BrTarget)
  | bp (p : PReg) (neg : Bool) (t : BrTarget)
  | call (link : XReg) (t : BrTarget)
  | jr (a : XReg)
  | callr (a link : XReg)
  | ret (a : XReg)
  | loop (a : XReg) (set : Fin 2) (t : BrTarget)
  | loopi (set : Fin 2) (count : BitVec 18) (ldisp : BitVec 37) (slot : Fin 8)
  | lbrk (set : Fin 2) (t : BrTarget)
  -- scalar (05)
  | add (d a b : XReg) (ty : Ty) (sat : Bool)
  | sub (d a b : XReg) (ty : Ty) (sat : Bool)
  | mul (d a b : XReg) (ty : Ty) (sat : Bool)
  | mulh (d a b : XReg) (ty : Ty)
  | div (d a b : XReg) (ty : Ty)
  | rem (d a b : XReg) (ty : Ty)
  | and (d a b : XReg) (ty : Ty) (nb : Bool)
  | or (d a b : XReg) (ty : Ty) (nb : Bool)
  | xor (d a b : XReg) (ty : Ty) (nb : Bool)
  | shl (d a b : XReg) (ty : Ty) (sat : Bool)
  | shr (d a b : XReg) (ty : Ty)
  | sha (d a b : XReg) (ty : Ty)
  | rot (d a b : XReg) (ty : Ty) (r : Bool)
  | min (d a b : XReg) (ty : Ty)
  | max (d a b : XReg) (ty : Ty)
  | madd (d a b c : XReg) (ty : Ty) (sat : Bool)
  | addi (d a : XReg) (ty : Ty) (sat : Bool) (imm : BitVec 58)
  | andi (d a : XReg) (ty : Ty) (imm : BitVec 58)
  | ori (d a : XReg) (ty : Ty) (imm : BitVec 58)
  | xori (d a : XReg) (ty : Ty) (imm : BitVec 58)
  | shli (d a : XReg) (ty : Ty) (sat : Bool) (s : Fin 64)
  | shri (d a : XReg) (ty : Ty) (s : Fin 64)
  | shai (d a : XReg) (ty : Ty) (s : Fin 64)
  | bcnt (d a : XReg) (ty : Ty) (op : CntOp)
  | ext (d a : XReg) (signed : Bool) (pos len1 : Fin 64)
  | ins (d a : XReg) (pos len1 : Fin 64)
  | lea (d : XReg) (m : MemOp)
  | sel (d a b : XReg) (c : PReg) (neg : Bool)
  | cmp (pd : PReg) (a b : XReg) (ty : Ty) (op : CmpOp) (cb : Comb)
  | cmpi (pd : PReg) (a : XReg) (ty : Ty) (op : CmpOp) (cb : Comb) (imm : BitVec 58)
  | plog (pd pa pb : PReg) (lut : BitVec 4)
  | movp (op : MovpOp)
  -- memory (08, 09)
  | ld (d : XReg) (m : MemOp) (sz : Fin 4) (o : AccOpts)
  | st (d : XReg) (m : MemOp) (sz : Fin 4) (o : AccOpts)
  | ldp (d : XReg) (m : MemOp) (o : AccOpts)
  | stp (d : XReg) (m : MemOp) (o : AccOpts)
  | pref (m : MemOp) (ch : Fin 2)
  | cwb (m : MemOp) (sc : Scope)
  | cinv (m : MemOp) (sc : Scope)
  | fence (predR predW succR succW lb : Bool) (sc : Scope)
  | bankcfg (d : XReg) (bank : Fin 32) (mode : BankMode) (pool : Bool)
  | rpushClaim (d : XReg) (m : MemOp) (sc : Scope) (try_ : Bool)
  | rpushPublish (m : MemOp) (sc : Scope)
  | rpopTake (d : XReg) (m : MemOp) (sc : Scope) (try_ : Bool)
  | rpopRelease (m : MemOp) (sc : Scope)
  | rstat (d a : XReg)
  | rinit (a : XReg)
  -- atomics (10)
  | amo (d s : XReg) (m : CellOp) (op : AmoOp) (sz : Fin 4) (sc : Scope) (ord : MemOrd)
  | cas (d s : XReg) (m : CellOp) (sz : Fin 5) (sc : Scope) (ord : MemOrd)
  | addb (d s : XReg) (m : CellOp) (wide : Bool) (sc : Scope) (ord : MemOrd)
  | red (s : XReg) (m : CellOp) (src : RedSrc) (sc : Scope) (rel : Bool)
  | facc (s : XReg) (m : CellOp) (src : CellSrc) (sc : Scope) (rel : Bool)
  | faccrd (d : XReg) (m : CellOp) (ent : FReg) (clr : Bool) (sc : Scope) (acq : Bool)
  | faccz (d : XReg) (m : CellOp) (sc : Scope) (ord : MemOrd)
  | mwait (d : XReg) (m : CellOp) (wide : Bool) (sc : Scope) (acq : Bool)
  -- futures and barriers (11)
  | fsetRes (d v : XReg) (m : CellOp)
  | fsetArm (d : XReg) (m : CellOp)
  | fsetFlt (d v : XReg) (m : CellOp)
  | fsetRst (d : XReg) (m : CellOp)
  | fwait (d r : XReg) (m : CellOp)
  | fpoll (d : XReg) (m : CellOp) (acq : Bool)
  | binit (d a : XReg) (v : Bool) (chn : BitVec 8) (idx : BitVec 14)
  | barr (d : XReg) (idx : BitVec 14)
  | barv (d a : XReg) (src : BarvSrc) (idx : BitVec 14)
  | btest (d : XReg) (idx : BitVec 14)
  | bfree (d : XReg) (idx : BitVec 14)
  -- tasks, gangs, regions (12, 02)
  | tsend (d a : XReg)
  | tsendn (d a : XReg)
  | msend (d a b : XReg) (try_ : Bool) (len : BitVec 12)
  | glaunch (d a : XReg) (o : Option XReg)
  | rgopen (d a : XReg)
  | rgclose (d : XReg) (rid : BitVec 8)
  | tself (d : XReg) (tgt : BitVec 58)
  -- vector integer, float (06)
  | vadd (d a : VReg) (b : VSrc) (mk : PReg) (ty : Ty) (sat z : Bool)
  | vsub (d a : VReg) (b : VSrc) (mk : PReg) (ty : Ty) (sat z : Bool)
  | vmul (d a : VReg) (b : VSrc) (mk : PReg) (ty : Ty) (sat z : Bool)
  | vmulh (d a : VReg) (b : VSrc) (mk : PReg) (ty : Ty) (z : Bool)
  | vand (d a : VReg) (b : VSrc) (mk : PReg) (ty : Ty) (z : Bool)
  | vor (d a : VReg) (b : VSrc) (mk : PReg) (ty : Ty) (z : Bool)
  | vxor (d a : VReg) (b : VSrc) (mk : PReg) (ty : Ty) (z : Bool)
  | vshl (d a : VReg) (b : VSrc) (mk : PReg) (ty : Ty) (sat z : Bool)
  | vshr (d a : VReg) (b : VSrc) (mk : PReg) (ty : Ty) (z : Bool)
  | vsha (d a : VReg) (b : VSrc) (mk : PReg) (ty : Ty) (z : Bool)
  | vmin (d a : VReg) (b : VSrc) (mk : PReg) (ty : Ty) (z : Bool)
  | vmax (d a : VReg) (b : VSrc) (mk : PReg) (ty : Ty) (z : Bool)
  | vcmp (kd : PReg) (a : VReg) (b : VSrc) (mk : PReg) (ty : Ty) (op : CmpOp) (cb : Comb)
  | vsel (d a b : VReg) (mk : PReg) (ty : Ty)
  | vdot (d a b c : VReg) (mk : PReg) (signed wide : Bool) (sat z : Bool)
  | vabs (d a : VReg) (mk : PReg) (ty : Ty) (sat z : Bool)
  | vfadd (d a : VReg) (b : VSrc) (mk : PReg) (ft : FReg) (rm : Rm) (z : Bool)
  | vfsub (d a : VReg) (b : VSrc) (mk : PReg) (ft : FReg) (rm : Rm) (z : Bool)
  | vfmul (d a : VReg) (b : VSrc) (mk : PReg) (ft : FReg) (rm : Rm) (z : Bool)
  | vfma (d a b c : VReg) (mk : PReg) (ft : FReg) (rm : Rm) (z : Bool)
  | vfdiv (d a : VReg) (b : VSrc) (mk : PReg) (ft : FReg) (rm : Rm) (z : Bool)
  | vfsqrt (d a : VReg) (mk : PReg) (ft : FReg) (rm : Rm) (z : Bool)
  | vfmin (d a : VReg) (b : VSrc) (mk : PReg) (ft : FReg) (z : Bool)
  | vfmax (d a : VReg) (b : VSrc) (mk : PReg) (ft : FReg) (z : Bool)
  | vfcmp (kd : PReg) (a : VReg) (b : VSrc) (mk : PReg) (ft : FReg) (op : FCmpOp) (cb : Comb)
  | vfexp2 (d a : VReg) (mk : PReg) (ft : FReg) (rm : Rm) (z : Bool)
  | vfrcp (d a : VReg) (mk : PReg) (ft : FReg) (rm : Rm) (z : Bool)
  | vfrsq (d a : VReg) (mk : PReg) (ft : FReg) (rm : Rm) (z : Bool)
  | vfred (d a : VReg) (mk : PReg) (ft : FReg) (rm : Rm) (op : FredOp)
  | vfscl (d a : VReg) (b : VSrc) (mk : PReg) (ft : FReg) (rm : Rm) (z : Bool)
  | vfcls (d a : VReg) (mk : PReg) (ft : FReg) (z : Bool)
  | vld (d : VReg) (xa : XReg) (mk : PReg) (ty : Ty) (o : AccOpts) (z : Bool)
  | vst (d : VReg) (xa : XReg) (mk : PReg) (ty : Ty) (o : AccOpts)
  | vlds (d : VReg) (xa : XReg) (mk : PReg) (ty : Ty) (o : AccOpts) (z : Bool)
  | vsts (d : VReg) (xa : XReg) (mk : PReg) (ty : Ty) (o : AccOpts)
  | vgath (d b : VReg) (xa : XReg) (mk : PReg) (ty : Ty) (o : AccOpts) (z : Bool)
  | vscat (d b : VReg) (xa : XReg) (mk : PReg) (ty : Ty) (o : AccOpts)
  | vperm (d a b c : VReg) (mk : PReg) (ty : Ty) (two z : Bool)
  | vbcast (op : BcastOp)
  | vextr (op : ExtrOp)
  | viota (d : VReg) (xa : XReg) (mk : PReg) (ty : Ty) (z : Bool)
  | vrng (d : VReg) (src : RngSrc) (mk : PReg) (w : Fin 4) (z : Bool)
  | vcomp (d a : VReg) (xa : XReg) (mk : PReg) (ty : Ty)
  | vexpd (d a : VReg) (mk : PReg) (ty : Ty) (z : Bool)
  | vredi (d a : VReg) (mk : PReg) (ty : Ty) (sat : Bool) (op : RediOp)
  -- formats (07)
  | ftset (f : FReg) (a : XReg)
  | ftget (d : XReg) (f : FReg)
  | ftgen (f : FReg) (p : Fin 8) (u noinf ctx sat : Bool)
  | nfmset (n : Bool)
  | cvt (d a : XReg) (op : CvtOp) (rm : Rm)
  | vcvt (d a c : VReg) (mk : PReg) (ft : FReg) (rm : Rm) (src : FReg) (part : Fin 8)
  | vpack (d a : VReg) (ft : FReg) (part : Fin 8)
  | vunpk (d a : VReg) (ft : FReg) (part : Fin 8)
  -- jobs (13)
  | mjob (d a : XReg) (c : PReg) (kind : JobKind)
  | mjobr (d a b : XReg) (c : PReg) (kind : JobKind)
  | jpoll (d a : XReg)
  | jwait (d a : XReg)
  | jcanc (d a : XReg)
  | jstat (d a : XReg)
  | mcap (d a : XReg) (rights : Fin 8)
  | topkrd (d a : XReg)
  -- sparse (14)
  | hset (h : PReg) (a : XReg)
  | hget (d : XReg) (h : PReg) (w : Fin 8)
  | hld (d a b : XReg) (c : PReg) (h : PReg)
  | hst (d a b : XReg) (c : PReg) (h : PReg)
  | hnext (d a : XReg) (c : PReg) (h : PReg)
  | binapp (d a : XReg) (op : BinOp) (slot : Fin 8)
  | binrun (d a b : XReg) (clr : Bool) (slot : Fin 8)
  | bincfg (d a : XReg) (slot : Fin 8)
  | bincfgOff (d : XReg) (slot : Fin 8)
  -- copies (15)
  | cpy (d a : XReg) (c : PReg) (ch : Fin 8)
  | winset (d a : XReg) (win : Fin 32)
  | winclr (d : XReg) (win : Fin 32)
  | wmarkRd (d : XReg) (ch : Fin 8)
  | wmarkWt (d a : XReg) (ch : Fin 8)
  | wmarkCw (d a : XReg)
  | subscr (d a : XReg)
  | unsub (d a : XReg)
  | colset (d : XReg) (c : Fin 16)
  | fwinset (d a : XReg) (q : Fin 64) (w : Fin 16)
  -- expert chain (16)
  | chgo (d a : XReg)
  | chstat (d a : XReg)
  | chstop (d a : XReg)
  | rcsnap (d a b : XReg) (n : BitVec 8)
  | slotclm (d a b : XReg)
  -- reuse (17)
  | arcset (d a : XReg) (ent : Fin 32)
  | arccnt (d : XReg)
  | arcinv (d : XReg) (ent : Option (Fin 32))
  -- power (18)
  | tkreq (d a : XReg)
  | tklend (d a b : XReg)
  | tkretG (d a : XReg)
  | tkretL (d a : XReg)
  | tkqry (d : XReg)
  | eqrd (d : XReg)
  | zoneBudgetWrite (zone : Nat) (value : Word)
  | vfreqWrite (ci : Nat) (value : Word)
  | thermalEvaluation (ci : Nat) (temp : Nat)
  | hbmFreqWrite (q : Nat) (value : Word)
  | retainCancel (tid : Nat) (value : Word)
  -- system (20, 19)
  | sget (d : XReg) (sel : BitVec 16)
  | sset (a : XReg) (sel : BitVec 16)
  | sysregWrite (id : Nat) (sel : BitVec 16) (value : Word)
  | ctxrd (d a : XReg) (n : BitVec 12)
  | ctxwr (d a : XReg) (n : BitVec 12)
  | tretNext (a : XReg)
  | tretAt (d a : XReg)
  | tretEnd (a : XReg)
  | tlbinvVa (a : XReg) (asid : BitVec 10)
  | tlbinvAsid (asid : BitVec 10)
  | tlbinvAll
  | pageWalk (core : Nat) (asid : BitVec 10) (va : Word) (k : AccKind)
  | pgdone (d a : XReg)
  | preempt (d a : XReg)
  | resume (d a : XReg)
  | asidsetBind (d a : XReg) (n : BitVec 10)
  | asidsetFree (d : XReg) (n : BitVec 10)
  | asidsetQuery (d : XReg) (n : BitVec 10)
  | dumpreq (a : XReg)
  | dbgBrk (d a : XReg)
  | dbgClr (a : XReg)
  | dbgStep (a : XReg)
  -- errors, bring-up, host (20, 21, 22)
  | correctedError (tid : Nat) (info : Word)
  | uncorrectableError (site : ErrorSite)
  | coldReset (results : BringUp)
  | hostMemoryAccess (dpa : Nat) (len : Nat) (data : Option (List Byte))
  | launchWrite (ci w slot : Nat) (data : List Byte)
  | unassignedMajor (w : BitVec 96)
  | peerPortLinkChange (p : Nat) (up : Bool)
  -- events whose unit the machine's cursor names (State.cur)
  | ringClaimServed
  | ringTakeServed
  | mwaitWake
  | continuationDelivery
  | barrierChildArrival
  | barrierTreeRelease
  | taskMessageArrival
  | tsendResend
  | deferredResend
  | taskDequeue
  | faultMessageResend
  | registerResultWrite
  | gangAdmissionAttempt
  | gleanerWave
  | remoteJobArrival
  | jobIssue
  | engineBeat
  | gateRefill
  | jobCompletion
  | binrunReplay
  | copyStart
  | watermarkAdvance
  | copyCompletion
  | subscriptionTileStep
  | claimRound
  | chainStartAttempt
  | chainGate
  | chainClaimRound
  | chainDispatch
  | chainCombine
  | chainRunComplete
  | loanTermExpiry
  | idleRevocation
  | revocationNoticeEnd
  | quotaPeriodBoundary
  | quotaCapture
  | vfRampStep
  | hbmChannelRetrain
  | scratchPowerLoss
  | contextCapture
  | debugBreakpoint
  | instructionLineArrival
  | homeStatusArrival
  | launchResend
  | fatalDump
  | readlog
  | clearlog
  | dumpinfo
  | readdump
  | releasedump
  | mailboxUnknownCmd
deriving DecidableEq, Repr

/-- The 17-bit header of a slot, without OP (R52). -/
structure Header where
  sw   : Bool
  gap  : Fin 4
  hint : Hint
  pg   : PReg
  pn   : Bool
deriving DecidableEq, Repr

/-- A decoded slot: its header and its instruction. -/
structure Slot where
  hdr : Header
  op  : Instr
deriving DecidableEq, Repr

end Sys2Proof
end

