-- ==== Sys2Proof/WellFormed.lean ====
section
/-! DEFINITION. Which instructions an encoding can hold: the operand limits that the types of Syntax do not state.
A slot that breaks one of them is refused with ILLEGAL_ENCODING (R64 check 5). -/

namespace Sys2Proof

/-- A register in an even role (R130, R167 and the entries). -/
def evenX (r : XReg) : Bool := r.val % 2 == 0

/-- The ORD codes a load accepts (R190). -/
def loadOrd (o : MemOrd) : Bool := o != .rel

/-- The ORD codes a store accepts (R190). -/
def storeOrd (o : MemOrd) : Bool := o != .acq

/-- The element types of VGATH and VSCAT (R130). -/
def gatherTy (t : Ty) : Bool := t == .i32 || t == .i64 || t == .n32 || t == .n64

/-- The scopes a ring operation accepts (R190). -/
def ringScope (s : Scope) : Bool := s == .ti || s == .mo

/-- Does the major that a slot's OP names exist (R60)? -/
def assignedOp (op : Nat) : Bool :=
  op ≤ 0x07 || (0x10 ≤ op && op ≤ 0x1A) || (0x20 ≤ op && op ≤ 0x4C) || (0x50 ≤ op && op ≤ 0x66) ||
  (0x70 ≤ op && op ≤ 0x8E) || (0x90 ≤ op && op ≤ 0x9D) || (0xA0 ≤ op && op ≤ 0xA7) || (0xB0 ≤ op && op ≤ 0xB7) ||
  (0xC0 ≤ op && op ≤ 0xC7) || (0xD0 ≤ op && op ≤ 0xD7) || (0xE0 ≤ op && op ≤ 0xEC) || (0xF0 ≤ op && op ≤ 0xFB)

/-- Rows of the table that are events of the module: they have no encoding. -/
def Instr.isEvent : Instr → Bool
  | .ringClaimServed | .ringTakeServed | .mwaitWake | .continuationDelivery | .barrierChildArrival
  | .barrierTreeRelease | .taskMessageArrival | .tsendResend | .deferredResend | .taskDequeue
  | .faultMessageResend | .registerResultWrite | .gangAdmissionAttempt | .gleanerWave | .remoteJobArrival
  | .jobIssue | .engineBeat | .gateRefill | .jobCompletion | .binrunReplay | .copyStart
  | .watermarkAdvance | .copyCompletion | .subscriptionTileStep | .claimRound | .chainStartAttempt
  | .chainGate | .chainClaimRound | .chainDispatch | .chainCombine | .chainRunComplete
  | .loanTermExpiry | .idleRevocation | .revocationNoticeEnd | .quotaPeriodBoundary | .quotaCapture
  | .zoneBudgetWrite .. | .vfreqWrite .. | .vfRampStep | .thermalEvaluation .. | .hbmFreqWrite ..
  | .hbmChannelRetrain | .retainCancel .. | .scratchPowerLoss | .sysregWrite .. | .pageWalk ..
  | .contextCapture | .debugBreakpoint | .correctedError .. | .uncorrectableError .. | .fatalDump | .coldReset ..
  | .readlog | .clearlog | .dumpinfo | .readdump | .releasedump | .mailboxUnknownCmd | .hostMemoryAccess ..
  | .launchWrite .. | .launchResend | .instructionLineArrival | .homeStatusArrival
  | .peerPortLinkChange .. => true
  | _ => false

/-- The operand limits of each entry (R88, R107, R130, R167, R190, R214, R220, R242, R251, R274, R302, R315, R345,
R367, R383, R403, R420, R448). -/
def Instr.wf : Instr → Bool
  | .getid _ n => n.toNat < 11
  | .call link _ => link != 0
  | .callr _ link => link != 0
  | .ld _ _ _ o => loadOrd o.ord
  | .st _ _ _ o => storeOrd o.ord
  | .ldp d _ o => evenX d && loadOrd o.ord
  | .stp d _ o => evenX d && storeOrd o.ord
  | .fence pr pw sr sw _ _ => (pr || pw) && (sr || sw)
  | .bankcfg _ _ mode pool => !pool || mode == .cache
  | .rpushClaim _ _ sc _ => ringScope sc
  | .rpushPublish _ sc => ringScope sc
  | .rpopTake _ _ sc _ => ringScope sc
  | .rpopRelease _ sc => ringScope sc
  | .cas d s _ sz _ _ => sz.val != 4 || (evenX d && evenX s)
  | .addb d s _ _ _ _ => evenX d && evenX s
  | .red _ _ (.int op _) _ _ => op != .swap
  | .barv _ _ (.int op) _ => op != .swap
  | .fpoll d _ _ => evenX d
  | .binit _ a _ _ _ => a.val % 4 == 0
  | .btest d _ => evenX d
  | .vlds _ xa _ _ _ _ => evenX xa
  | .vsts _ xa _ _ _ => evenX xa
  | .vgath _ _ _ _ ty _ _ => gatherTy ty
  | .vscat _ _ _ _ ty _ => gatherTy ty
  | .ftset f a => 8 ≤ f.val && evenX a
  | .ftget d _ => evenX d
  | .ftgen f p _ noinf ctx _ => 8 ≤ f.val && p != 0 && !(noinf && ctx)
  | .mjobr _ a _ _ _ => evenX a
  | .mcap _ a _ => evenX a
  | .topkrd d _ => evenX d
  | .hnext d _ _ _ => evenX d
  | .arccnt d => evenX d
  | .tkqry d => evenX d
  | .eqrd d => evenX d
  | .pgdone _ a => evenX a
  | .preempt _ a => a.val % 4 == 0
  | .resume _ a => evenX a
  | .unassignedMajor w => !assignedOp (w.toNat / 2 ^ 88)
  | _ => true

/-- The issue class of a major (R49). -/
inductive IssueClass where
  | s | m | v | y
deriving DecidableEq, Repr

/-- Is HINT a field of the major (R52)? -/
def hintOp (op : Nat) : Bool := 0x10 ≤ op && op ≤ 0x1A

/-- The header limits of R64 check 4: HINT only on majors 0x10-0x1A, and not PG = 0 with PN = 1. -/
def Header.wf (h : Header) (op : Nat) : Bool :=
  (hintOp op || h.hint == .none) && !(h.pg == 0 && h.pn)

end Sys2Proof
end

