-- ==== Sys2Proof/Decode.lean ====
section
/-! DEFINITION. The decoder of slots and line words (R44-R65), total on every 96-bit slot, and the encoder.

A slot and its fields are read as natural numbers: field [lo+n-1:lo] of w is w / 2^lo % 2^n (R3).
The body checks of R64 check 5 are lists of (lowest bit, accepted) in the order in which R54 lays the fields out from
bit 78 downward, so that the first failing one is the first offending field of R65. -/

namespace Sys2Proof

/-- Field of width n whose lowest bit is lo (R3). -/
def fld (w lo n : Nat) : Nat := w / 2 ^ lo % 2 ^ n

/-- Bit i of w. -/
def bitAt (w i : Nat) : Bool := w / 2 ^ i % 2 == 1

/-- XOR of the low n bits of w: its parity (R47). -/
def parityOf : Nat → Nat → Bool
  | 0, _ => false
  | n + 1, w => xor (w % 2 == 1) (parityOf n (w / 2))

/-! ### Codes of the field enumerations (R57-R59, R107, R130, R220) -/

def Ty.code : Ty → Nat
  | .i8 => 0 | .i16 => 1 | .i32 => 2 | .i64 => 3 | .n8 => 4 | .n16 => 5 | .n32 => 6 | .n64 => 7

def Ty.ofCode : Nat → Ty
  | 0 => .i8 | 1 => .i16 | 2 => .i32 | 3 => .i64 | 4 => .n8 | 5 => .n16 | 6 => .n32 | _ => .n64

def Scope.code : Scope → Nat
  | .co => 0 | .ti => 1 | .mo => 2 | .sy => 3

def Scope.ofCode : Nat → Scope
  | 0 => .co | 1 => .ti | 2 => .mo | _ => .sy

def MemOrd.code : MemOrd → Nat
  | .plain => 0 | .acq => 1 | .rel => 2 | .ar => 3

def MemOrd.ofCode : Nat → MemOrd
  | 0 => .plain | 1 => .acq | 2 => .rel | _ => .ar

def Cond.code : Cond → Nat
  | .eq => 0 | .ne => 1 | .lt => 2 | .ge => 3 | .ltu => 4 | .geu => 5

def Cond.ofCode : Nat → Cond
  | 0 => .eq | 1 => .ne | 2 => .lt | 3 => .ge | 4 => .ltu | _ => .geu

def CmpOp.code : CmpOp → Nat
  | .eq => 0 | .ne => 1 | .lt => 2 | .ge => 3 | .le => 4 | .gt => 5 | .tst => 6

def CmpOp.ofCode : Nat → CmpOp
  | 0 => .eq | 1 => .ne | 2 => .lt | 3 => .ge | 4 => .le | 5 => .gt | _ => .tst

def FCmpOp.code : FCmpOp → Nat
  | .eq => 0 | .ne => 1 | .lt => 2 | .ge => 3 | .le => 4 | .gt => 5 | .un => 6

def FCmpOp.ofCode : Nat → FCmpOp
  | 0 => .eq | 1 => .ne | 2 => .lt | 3 => .ge | 4 => .le | 5 => .gt | _ => .un

def Comb.code : Comb → Nat
  | .none => 0 | .and => 1 | .or => 2

def Comb.ofCode : Nat → Comb
  | 0 => .none | 1 => .and | _ => .or

def Rm.code : Rm → Nat
  | .rne => 0 | .rtz => 1 | .rdn => 2 | .rup => 3 | .rna => 4 | .rsr => 5 | .dyn => 7

def Rm.ofCode : Nat → Rm
  | 0 => .rne | 1 => .rtz | 2 => .rdn | 3 => .rup | 4 => .rna | 5 => .rsr | _ => .dyn

def CntOp.code : CntOp → Nat
  | .pop => 0 | .clz => 1 | .ctz => 2 | .cls => 3

def CntOp.ofCode : Nat → CntOp
  | 0 => .pop | 1 => .clz | 2 => .ctz | _ => .cls

def Hint.code : Hint → Nat
  | .none => 0 | .likely => 1 | .unlikely => 2

def Hint.ofCode : Nat → Hint
  | 0 => .none | 1 => .likely | _ => .unlikely

def AmoOp.code : AmoOp → Nat
  | .swap => 0 | .add => 1 | .and => 2 | .or => 3 | .xor => 4 | .min => 5 | .max => 6 | .minu => 7 | .maxu => 8

def AmoOp.ofCode : Nat → AmoOp
  | 0 => .swap | 1 => .add | 2 => .and | 3 => .or | 4 => .xor | 5 => .min | 6 => .max | 7 => .minu | _ => .maxu

def BankMode.code : BankMode → Nat
  | .cache => 0 | .scratch => 1 | .ring => 2

def BankMode.ofCode : Nat → BankMode
  | 0 => .cache | 1 => .scratch | _ => .ring

def FredOp.code : FredOp → Nat
  | .add => 0 | .min => 1 | .max => 2

def FredOp.ofCode : Nat → FredOp
  | 0 => .add | 1 => .min | _ => .max

def RediOp.code : RediOp → Nat
  | .add => 0 | .min => 1 | .max => 2 | .xor => 3

def RediOp.ofCode : Nat → RediOp
  | 0 => .add | 1 => .min | 2 => .max | _ => .xor

def JobKind.code : JobKind → Nat
  | .bload => 0 | .mma => 1 | .mmab => 2 | .attn => 3 | .epi => 4 | .spmm => 5 | .opmul => 6 | .opmrg => 7 | .grpmm => 8

def JobKind.ofCode : Nat → JobKind
  | 0 => .bload | 1 => .mma | 2 => .mmab | 3 => .attn | 4 => .epi | 5 => .spmm | 6 => .opmul | 7 => .opmrg | _ => .grpmm

def Bool.code (b : Bool) : Nat := if b then 1 else 0

/-! ### Line words (R44, R47, R48) -/

/-- Slot i of a 512-bit line (R44). -/
def lineSlot (line i : Nat) : Nat := fld line (96 * i) 96

/-- The line word of a line (R44). -/
def lineWord (line : Nat) : Nat := fld line 480 32

/-- Is slot i a legal branch target of the line (R44 TGT)? -/
def lineTgt (line i : Nat) : Bool := bitAt (lineWord line) i

/-- The parity of the line word holds (R47). -/
def lineWordParityOk (line : Nat) : Bool := !parityOf 32 (lineWord line)

/-- The parity of slot i holds (R47). -/
def slotParityOk (line i : Nat) : Bool := xor (parityOf 96 (lineSlot line i)) (bitAt (lineWord line) (9 + i)) == false

/-- PAIR (R44). -/
def linePair (line : Nat) : Nat := fld (lineWord line) 5 4

/-- R64 check 2: POS of an illegal line word, if it is illegal. -/
def lineWordBad (line : Nat) : Option Nat :=
  if fld (lineWord line) 15 17 ≠ 0 then some 15
  else if 8 ≤ linePair line then some 5 else none

/-- The first slots of the issue pairs of a PAIR code (R48). -/
def pairFirsts : Nat → List Nat
  | 1 => [0] | 2 => [1] | 3 => [2] | 4 => [3] | 5 => [0, 2] | 6 => [0, 3] | 7 => [1, 3] | _ => []

/-! ### Body checks (R54, R64 check 5) -/

/-- Limits on one field: (offset in the field, width, accepted values), highest offset first. -/
abbrev FieldLimit := List (Nat × Nat × (Nat → Bool))

/-- Every value of the field is accepted. -/
def anyF : FieldLimit := []
/-- A field of n bits that must be zero. -/
def zF (n : Nat) : FieldLimit := [(0, n, fun v => v == 0)]
/-- A field of n bits of which only the low k are named: a breach is reported at the lowest unnamed bit (R65; log 15). -/
def lowF (k n : Nat) : FieldLimit := [(k, n - k, fun v => v == 0)]
/-- A field of n bits whose value meets p. -/
def valF (n : Nat) (p : Nat → Bool) : FieldLimit := [(0, n, p)]
/-- A register in an even role. -/
def evenF : FieldLimit := valF 6 (fun v => v % 2 == 0)
/-- TY 0-7 (R57). -/
def tyF : FieldLimit := valF 4 (fun v => v < 8)
/-- SC 0-3 of format MEM (R57). -/
def scF : FieldLimit := valF 3 (fun v => v < 4)
/-- RM without the reserved code 6 (R58). -/
def rmF : FieldLimit := valF 3 (fun v => v != 6)
/-- A predicate number in a 6-bit field. -/
def predF : FieldLimit := lowF 3 6

/-- The limits of a field at bit lo of w, checked. -/
def atF (w lo : Nat) (f : FieldLimit) : List (Nat × Bool) :=
  f.map fun x => (lo + x.1, x.2.2 (fld w (lo + x.1) x.2.1))

def rrF (w : Nat) (d a b c ty md : FieldLimit) : List (Nat × Bool) :=
  atF w 73 d ++ atF w 67 a ++ atF w 61 b ++ atF w 55 c ++ atF w 51 ty ++ atF w 43 md ++ atF w 0 (zF 43)

def riF (w : Nat) (d a ty md imm : FieldLimit) : List (Nat × Bool) :=
  atF w 73 d ++ atF w 67 a ++ atF w 63 ty ++ atF w 58 md ++ atF w 0 imm

def memF (w : Nat) (d base idx sz sc od ch sh disp : FieldLimit) : List (Nat × Bool) :=
  atF w 73 d ++ atF w 67 base ++ atF w 61 idx ++ atF w 58 sz ++ atF w 55 sc ++ atF w 53 od ++ atF w 51 ch ++
    atF w 49 sh ++ atF w 0 disp

/-- Format MEM of majors 0x50-0x5A, whose CH and SH hold OPC (R220). -/
def celF (w : Nat) (d idx sz sc od opc : FieldLimit) : List (Nat × Bool) :=
  atF w 73 d ++ atF w 61 idx ++ atF w 58 sz ++ atF w 55 sc ++ atF w 53 od ++ atF w 49 opc

def brF (w : Nat) (a b cnd link slot disp : FieldLimit) : List (Nat × Bool) :=
  atF w 73 a ++ atF w 67 b ++ atF w 63 cnd ++ atF w 57 link ++ atF w 54 slot ++ atF w 0 disp

def vrF (w : Nat) (vd va vb vc mk ft rm ty md xa : FieldLimit) : List (Nat × Bool) :=
  atF w 74 vd ++ atF w 69 va ++ atF w 64 vb ++ atF w 59 vc ++ atF w 56 mk ++ atF w 51 ft ++ atF w 48 rm ++
    atF w 44 ty ++ atF w 36 md ++ atF w 30 xa ++ atF w 0 (zF 30)

def enF (w : Nat) (d a b c kind md imm : FieldLimit) : List (Nat × Bool) :=
  atF w 73 d ++ atF w 67 a ++ atF w 61 b ++ atF w 55 c ++ atF w 49 kind ++ atF w 41 md ++ atF w 0 imm

def syF (w : Nat) (d a sel md imm : FieldLimit) : List (Nat × Bool) :=
  atF w 73 d ++ atF w 67 a ++ atF w 51 sel ++ atF w 43 md ++ atF w 0 imm

/-- A field that is named only when c holds. -/
def ifF (c : Bool) (n : Nat) : FieldLimit := if c then anyF else zF n

/-- Limits of majors 0x00-0x1A (R88). -/
def limitsControl (op w : Nat) : List (Nat × Bool) :=
  match op with
  | 0x00 => rrF w (zF 6) (zF 6) (zF 6) (zF 6) (zF 4) (zF 8)
  | 0x01 => syF w (zF 6) anyF (zF 16) (lowF 1 8) (zF 43)
  | 0x02 => riF w anyF anyF (zF 4) (zF 5) anyF
  | 0x03 => rrF w anyF anyF (zF 6) (zF 6) (zF 4) (zF 8)
  | 0x04 => riF w (zF 6) (zF 6) (zF 4) (zF 5) anyF
  | 0x05 => riF w anyF (zF 6) (zF 4) (zF 5) (valF 58 (fun v => v < 11))
  | 0x06 => riF w anyF (zF 6) (zF 4) (zF 5) anyF
  | 0x07 => riF w anyF (zF 6) (zF 4) (zF 5) (lowF 32 58)
  | 0x10 => brF w (zF 6) (zF 6) (zF 4) (zF 6) anyF anyF
  | 0x11 => brF w anyF anyF (valF 4 (fun v => v < 6)) (zF 6) anyF anyF
  | 0x12 => brF w anyF (zF 6) (valF 4 (fun v => v < 6)) (zF 6) anyF anyF
  | 0x13 => brF w predF (zF 6) (valF 4 (fun v => v < 2)) (zF 6) anyF anyF
  | 0x14 => brF w (zF 6) (zF 6) (zF 4) (valF 6 (fun v => v != 0)) anyF anyF
  | 0x15 => brF w anyF (zF 6) (zF 4) (zF 6) (zF 3) (zF 54)
  | 0x16 => brF w anyF (zF 6) (zF 4) (valF 6 (fun v => v != 0)) (zF 3) (zF 54)
  | 0x17 => brF w anyF (zF 6) (zF 4) (zF 6) (zF 3) (zF 54)
  | 0x18 => brF w anyF (zF 6) (lowF 1 4) (zF 6) anyF anyF
  | 0x19 => riF w (zF 6) (zF 6) (zF 4) (lowF 1 5) anyF
  | _ => brF w (zF 6) (zF 6) (lowF 1 4) (zF 6) anyF anyF

/-- MOD[4:0] of the compares, in a MOD field of n bits (R107). -/
def cmpModF (n : Nat) : FieldLimit :=
  (if n = 8 then [(5, 3, fun v => v == 0)] else []) ++ [(3, 2, fun v => v != 3), (0, 3, fun v => v != 7)]

/-- Limits of majors 0x20-0x3F (R107). -/
def limitsScalar (op w : Nat) : List (Nat × Bool) :=
  match op with
  | 0x20 | 0x21 | 0x22 | 0x26 | 0x27 | 0x28 | 0x29 | 0x2C => rrF w anyF anyF anyF (zF 6) tyF (lowF 1 8)
  | 0x23 | 0x24 | 0x25 | 0x2A | 0x2B | 0x2D | 0x2E => rrF w anyF anyF anyF (zF 6) tyF (zF 8)
  | 0x2F => rrF w anyF anyF anyF anyF tyF (lowF 1 8)
  | 0x30 => riF w anyF anyF tyF (lowF 1 5) anyF
  | 0x31 | 0x32 | 0x33 => riF w anyF anyF tyF (zF 5) anyF
  | 0x34 => riF w anyF anyF tyF (lowF 1 5) (lowF 6 58)
  | 0x35 | 0x36 => riF w anyF anyF tyF (zF 5) (lowF 6 58)
  | 0x37 => rrF w anyF anyF (zF 6) (zF 6) tyF (lowF 2 8)
  | 0x38 => riF w anyF anyF (valF 4 (fun v => v == 3 || v == 7)) (zF 5) (lowF 12 58)
  | 0x39 => riF w anyF anyF (zF 4) (zF 5) (lowF 12 58)
  | 0x3A => memF w anyF anyF anyF (zF 3) (zF 3) (zF 2) (zF 2) anyF anyF
  | 0x3B => rrF w anyF anyF anyF predF (zF 4) (lowF 1 8)
  | 0x3C => rrF w predF anyF anyF (zF 6) tyF (cmpModF 8)
  | 0x3D => riF w predF anyF tyF (cmpModF 5) anyF
  | 0x3E => rrF w predF predF predF (zF 6) (zF 4) (lowF 4 8)
  | _ =>
    let m := fld w 43 2
    rrF w (if m = 1 then zF 6 else if m = 2 then predF else anyF)
      (if m = 0 then zF 6 else if m = 3 then predF else anyF) (zF 6) (zF 6) (zF 4) (lowF 2 8)

/-- Limits of majors 0x40-0x4C (R190, R214). -/
def limitsMemory (op w : Nat) : List (Nat × Bool) :=
  let chF : FieldLimit := valF 2 (fun v => v != 3)
  let ldOrd : FieldLimit := valF 2 (fun v => v != 2)
  let stOrd : FieldLimit := valF 2 (fun v => v != 1)
  match op with
  | 0x40 => memF w anyF anyF anyF (valF 3 (fun v => v < 4)) scF ldOrd chF anyF anyF
  | 0x41 => memF w anyF anyF anyF (valF 3 (fun v => v < 4)) scF stOrd chF anyF anyF
  | 0x42 => memF w evenF anyF anyF (valF 3 (fun v => v == 4)) scF ldOrd chF anyF anyF
  | 0x43 => memF w evenF anyF anyF (valF 3 (fun v => v == 4)) scF stOrd chF anyF anyF
  | 0x44 => memF w (zF 6) anyF anyF (zF 3) (zF 3) (zF 2) (valF 2 (fun v => v < 2)) anyF anyF
  | 0x45 | 0x46 => memF w (zF 6) anyF anyF (zF 3) scF (zF 2) (zF 2) anyF anyF
  | 0x47 => memF w [(5, 1, fun v => v == 0), (2, 2, fun v => v != 0), (0, 2, fun v => v != 0)] (zF 6) (zF 6) (zF 3) scF
      (zF 2) (zF 2) (zF 2) (zF 49)
  | 0x48 => syF w anyF (zF 6) (zF 16) (zF 8)
      [(8, 35, fun v => v == 0), (7, 1, fun v => v == 0 || fld w 5 2 == 0), (5, 2, fun v => v < 3)]
  | 0x49 | 0x4A =>
    let acq := fld w 53 2 == 1
    memF w (ifF acq 6) anyF anyF (valF 3 (fun v => v == 0 || (acq && v == 1))) (valF 3 (fun v => v == 1 || v == 2))
      (valF 2 (fun v => v == 1 || v == 2)) (zF 2) anyF anyF
  | 0x4B => syF w anyF anyF (zF 16) (zF 8) (zF 43)
  | _ => syF w (zF 6) anyF (zF 16) (zF 8) (zF 43)

/-- Limits of majors 0x50-0x5F (R220, R242, R251). -/
def limitsCells (op w : Nat) : List (Nat × Bool) :=
  let mo : FieldLimit := valF 3 (fun v => v == 2)
  let acqO : FieldLimit := valF 2 (fun v => v < 2)
  let relO : FieldLimit := valF 2 (fun v => v == 0 || v == 2)
  let wF : FieldLimit := valF 3 (fun v => v == 2 || v == 3)
  let cellSz : FieldLimit := valF 3 (fun v => v == 6)
  match op with
  | 0x50 => celF w anyF anyF (valF 3 (fun v => v < 4)) scF anyF (valF 4 (fun v => v < 9))
  | 0x51 =>
    let pair := fld w 58 3 == 4
    celF w (if pair then evenF else anyF) (if pair then evenF else anyF) (valF 3 (fun v => v < 5)) scF anyF (zF 4)
  | 0x52 => celF w evenF evenF wF scF anyF (zF 4)
  | 0x53 =>
    let cell := fld w 49 4 == 9
    celF w anyF (if cell then lowF 5 6 else zF 6) (valF 3 (fun v => if cell then v == 6 else v < 4)) scF relO
      (valF 4 (fun v => 1 ≤ v && v < 10))
  | 0x54 => celF w anyF (if bitAt w 66 then [(0, 5, fun v => v == 0)] else anyF) cellSz scF relO (zF 4)
  | 0x55 => celF w anyF (lowF 5 6) cellSz scF acqO (lowF 1 4)
  | 0x56 => celF w anyF (zF 6) cellSz scF anyF (zF 4)
  | 0x57 => celF w anyF (zF 6) wF scF acqO (zF 4)
  | 0x58 => celF w anyF (ifF (fld w 49 4 % 2 == 0) 6) (zF 3) mo (zF 2) (valF 4 (fun v => v < 4))
  | 0x59 => celF w anyF anyF (zF 3) mo (zF 2) (zF 4)
  | 0x5A => celF w evenF (zF 6) (zF 3) mo acqO (zF 4)
  | 0x5B => riF w anyF (valF 6 (fun v => v % 4 == 0)) (zF 4) (lowF 1 5) (lowF 22 58)
  | 0x5C => riF w anyF (zF 6) (zF 4) (zF 5) (lowF 14 58)
  | 0x5D =>
    let cell := fld w 58 4 == 9
    riF w anyF anyF (zF 4) [(4, 1, fun v => v == 0 || cell), (0, 4, fun v => 1 ≤ v && v < 10)]
      [(19, 39, fun v => v == 0), (14, 5, fun v => v == 0 || cell)]
  | 0x5E => riF w evenF (zF 6) (zF 4) (zF 5) (lowF 14 58)
  | _ => riF w anyF (zF 6) (zF 4) (zF 5) (lowF 14 58)

/-- Limits of majors 0x60-0x66 (R274). -/
def limitsTasks (op w : Nat) : List (Nat × Bool) :=
  match op with
  | 0x60 | 0x61 => enF w anyF anyF (zF 6) (zF 6) (zF 6) (zF 8) (zF 41)
  | 0x62 => enF w anyF anyF anyF (zF 6) (zF 6) (lowF 1 8) (lowF 12 41)
  | 0x63 => enF w anyF anyF (ifF (bitAt w 41) 6) (zF 6) (zF 6) (lowF 1 8) (zF 41)
  | 0x64 => riF w anyF anyF (zF 4) (zF 5) (zF 58)
  | 0x65 => riF w anyF (zF 6) (zF 4) (zF 5) (lowF 8 58)
  | _ => riF w anyF (zF 6) (zF 4) (zF 5) anyF

/-- Limits of majors 0x70-0x9D (R130, R142, R144, R146). -/
def limitsVector (op w : Nat) : List (Nat × Bool) :=
  let x := bitAt w 42
  let vb : FieldLimit := ifF (!x) 5
  let xa : FieldLimit := ifF x 6
  let memMod (z : Bool) : FieldLimit := (if z then [] else [(7, 1, fun v => v == 0)]) ++
    [(6, 1, fun v => v == 0), (4, 2, fun v => v != 3)]
  let gTy : FieldLimit := valF 4 (fun v => v == 2 || v == 3 || v == 6 || v == 7)
  let modZ : FieldLimit := [(0, 7, fun v => v == 0)]
  let modZ0 : FieldLimit := [(1, 6, fun v => v == 0)]
  let cmpMod : FieldLimit := [(7, 1, fun v => v == 0), (5, 1, fun v => v == 0), (3, 2, fun v => v != 3), (0, 3, fun v => v != 7)]
  match op with
  | 0x70 | 0x71 | 0x72 | 0x77 => vrF w anyF anyF vb (zF 5) anyF (zF 5) (zF 3) tyF [(1, 5, fun v => v == 0)] xa
  | 0x73 | 0x74 | 0x75 | 0x76 | 0x78 | 0x79 | 0x7A | 0x7B =>
    vrF w anyF anyF vb (zF 5) anyF (zF 5) (zF 3) tyF [(0, 6, fun v => v == 0)] xa
  | 0x7C => vrF w (lowF 3 5) anyF vb (zF 5) anyF (zF 5) (zF 3) tyF cmpMod xa
  | 0x7D => vrF w anyF anyF anyF (zF 5) anyF (zF 5) (zF 3) tyF (zF 8) (zF 6)
  | 0x7E => vrF w anyF anyF anyF anyF anyF (zF 5) (zF 3) (valF 4 (fun v => v == 0 || v == 1 || v == 4 || v == 5)) modZ0 (zF 6)
  | 0x7F => vrF w anyF anyF (zF 5) (zF 5) anyF (zF 5) (zF 3) tyF modZ0 (zF 6)
  | 0x80 | 0x81 | 0x82 | 0x84 | 0x8D => vrF w anyF anyF vb (zF 5) anyF anyF rmF (zF 4) [(0, 6, fun v => v == 0)] xa
  | 0x83 => vrF w anyF anyF anyF anyF anyF anyF rmF (zF 4) modZ (zF 6)
  | 0x85 | 0x89 | 0x8A | 0x8B => vrF w anyF anyF (zF 5) (zF 5) anyF anyF rmF (zF 4) modZ (zF 6)
  | 0x86 | 0x87 => vrF w anyF anyF vb (zF 5) anyF anyF (zF 3) (zF 4) [(0, 6, fun v => v == 0)] xa
  | 0x88 => vrF w (lowF 3 5) anyF vb (zF 5) anyF anyF (zF 3) (zF 4) cmpMod xa
  | 0x8C => vrF w anyF anyF (zF 5) (zF 5) anyF anyF rmF (zF 4) [(2, 6, fun v => v == 0), (0, 2, fun v => v != 3)] (zF 6)
  | 0x8E => vrF w anyF anyF (zF 5) (zF 5) anyF anyF (zF 3) (zF 4) modZ (zF 6)
  | 0x90 => vrF w anyF (zF 5) (zF 5) (zF 5) anyF (zF 5) (zF 3) tyF (memMod true) anyF
  | 0x91 => vrF w anyF (zF 5) (zF 5) (zF 5) anyF (zF 5) (zF 3) tyF (memMod false) anyF
  | 0x92 => vrF w anyF (zF 5) (zF 5) (zF 5) anyF (zF 5) (zF 3) tyF (memMod true) evenF
  | 0x93 => vrF w anyF (zF 5) (zF 5) (zF 5) anyF (zF 5) (zF 3) tyF (memMod false) evenF
  | 0x94 => vrF w anyF (zF 5) anyF (zF 5) anyF (zF 5) (zF 3) gTy (memMod true) anyF
  | 0x95 => vrF w anyF (zF 5) anyF (zF 5) anyF (zF 5) (zF 3) gTy (memMod false) anyF
  | 0x96 => vrF w anyF anyF anyF anyF anyF (zF 5) (zF 3) tyF modZ0 (zF 6)
  | 0x97 =>
    let k := bitAt w 37
    vrF w (if k then lowF 3 5 else anyF) (ifF (fld w 36 2 == 1) 5) (zF 5) (zF 5) (ifF (!k) 3) (zF 5) (zF 3)
      (if k then zF 4 else tyF) ((if k then [(7, 1, fun v => v == 0)] else []) ++ [(2, 5, fun v => v == 0)]) anyF
  | 0x98 =>
    let m := fld w 36 2
    vrF w (zF 5) (ifF (m == 0) 5) (zF 5) (zF 5) (ifF (m != 0) 3) (zF 5) (zF 3) (if m == 1 || m == 2 then zF 4 else tyF)
      (lowF 2 8) anyF
  | 0x99 => vrF w anyF (zF 5) (zF 5) (zF 5) anyF (zF 5) (zF 3) tyF modZ anyF
  | 0x9A =>
    let ctr := !bitAt w 38
    vrF w anyF (ifF ctr 5) (zF 5) (zF 5) anyF (zF 5) (zF 3) (zF 4) [(3, 4, fun v => v == 0)] (ifF ctr 6)
  | 0x9B => vrF w anyF anyF (zF 5) (zF 5) anyF (zF 5) (zF 3) tyF (zF 8) anyF
  | 0x9C => vrF w anyF anyF (zF 5) (zF 5) anyF (zF 5) (zF 3) tyF modZ (zF 6)
  | _ => vrF w anyF anyF (zF 5) (zF 5) anyF (zF 5) (zF 3) tyF (lowF 3 8) (zF 6)

/-- Limits of majors 0xA0-0xA7 (R167). -/
def limitsFormat (op w : Nat) : List (Nat × Bool) :=
  match op with
  | 0xA0 => riF w (zF 6) evenF (zF 4) (zF 5) [(5, 53, fun v => v == 0), (0, 5, fun v => 8 ≤ v)]
  | 0xA1 => riF w evenF (zF 6) (zF 4) (zF 5) (lowF 5 58)
  | 0xA2 => riF w (zF 6) (zF 6) (zF 4) [(4, 1, fun v => v == 0), (1, 2, fun v => v != 3)]
      [(8, 50, fun v => v == 0), (5, 3, fun v => v != 0), (0, 5, fun v => 8 ≤ v)]
  | 0xA3 => riF w (zF 6) (zF 6) (zF 4) (zF 5) (lowF 1 58)
  | 0xA4 =>
    let m := fld w 58 2
    riF w anyF anyF (if m = 0 then zF 4 else tyF) [(2, 3, fun v => v == 0), (0, 2, fun v => v != 3)]
      [(13, 45, fun v => v == 0), (10, 3, fun v => v != 6), (5, 5, fun v => v == 0 || m != 1),
        (0, 5, fun v => v == 0 || m != 2)]
  | 0xA5 => vrF w anyF anyF (zF 5) anyF anyF anyF rmF (zF 4) anyF (zF 6)
  | _ => vrF w anyF anyF (zF 5) (zF 5) (zF 3) anyF (zF 3) (zF 4) (lowF 3 8) (zF 6)

/-- Limits of majors 0xB0-0xC7 (R302, R315). -/
def limitsJobs (op w : Nat) : List (Nat × Bool) :=
  let kindF : FieldLimit := valF 6 (fun v => v < 9)
  match op with
  | 0xB0 => enF w anyF anyF (zF 6) predF kindF (zF 8) (zF 41)
  | 0xB1 => enF w anyF evenF anyF predF kindF (zF 8) (zF 41)
  | 0xB2 | 0xB3 | 0xB4 | 0xB5 => enF w anyF anyF (zF 6) (zF 6) (zF 6) (zF 8) (zF 41)
  | 0xB6 => enF w anyF evenF (zF 6) (zF 6) (zF 6) (zF 8) (lowF 3 41)
  | 0xB7 => enF w evenF anyF (zF 6) (zF 6) (zF 6) (zF 8) (zF 41)
  | 0xC0 => enF w (zF 6) anyF (zF 6) (zF 6) (zF 6) (zF 8) (lowF 3 41)
  | 0xC1 => enF w anyF (zF 6) (zF 6) (zF 6) (zF 6) (zF 8) (lowF 6 41)
  | 0xC2 | 0xC3 => enF w anyF anyF anyF predF (zF 6) (zF 8) (lowF 3 41)
  | 0xC4 => enF w evenF anyF (zF 6) predF (zF 6) (zF 8) (lowF 3 41)
  | 0xC5 => enF w anyF anyF (ifF (fld w 41 2 != 2) 6) (zF 6) (zF 6) [(2, 6, fun v => v == 0), (0, 2, fun v => v != 3)] (lowF 3 41)
  | 0xC6 => enF w anyF anyF anyF (zF 6) (zF 6) (lowF 1 8) (lowF 3 41)
  | _ => enF w anyF (ifF (!bitAt w 41) 6) (zF 6) (zF 6) (zF 6) (lowF 1 8) (lowF 3 41)

/-- Limits of majors 0xD0-0xEC (R345, R367, R383, R403). -/
def limitsEngines (op w : Nat) : List (Nat × Bool) :=
  match op with
  | 0xD0 => enF w anyF anyF (zF 6) predF (zF 6) (zF 8) (lowF 3 41)
  | 0xD1 => enF w anyF anyF (zF 6) (zF 6) (zF 6) (zF 8) (lowF 5 41)
  | 0xD2 => enF w anyF (zF 6) (zF 6) (zF 6) (zF 6) (zF 8) (lowF 5 41)
  | 0xD3 =>
    let m := fld w 41 2
    enF w anyF (ifF (m != 0) 6) (zF 6) (zF 6) (zF 6) [(2, 6, fun v => v == 0), (0, 2, fun v => v != 3)]
      (if m == 2 then zF 41 else lowF 3 41)
  | 0xD4 | 0xD5 | 0xE0 | 0xE1 | 0xE2 | 0xE8 => enF w anyF anyF (zF 6) (zF 6) (zF 6) (zF 8) (zF 41)
  | 0xD6 => enF w anyF (zF 6) (zF 6) (zF 6) (zF 6) (zF 8) (lowF 4 41)
  | 0xD7 => enF w anyF anyF (zF 6) (zF 6) (zF 6) (zF 8) (lowF 10 41)
  | 0xE3 => enF w anyF anyF anyF (zF 6) (zF 6) (zF 8) (lowF 8 41)
  | 0xE4 | 0xE9 => enF w anyF anyF anyF (zF 6) (zF 6) (zF 8) (zF 41)
  | 0xE5 => enF w anyF anyF (zF 6) (zF 6) (zF 6) (zF 8) (lowF 5 41)
  | 0xE6 | 0xEB | 0xEC => enF w evenF (zF 6) (zF 6) (zF 6) (zF 6) (zF 8) (zF 41)
  | 0xE7 => enF w anyF (zF 6) (zF 6) (zF 6) (zF 6) (lowF 1 8) (if bitAt w 41 then zF 41 else lowF 5 41)
  | _ => enF w anyF anyF (zF 6) (zF 6) (zF 6) (lowF 1 8) (zF 41)

/-- Limits of majors 0xF0-0xFB (R420, R448). -/
def limitsSystem (op w : Nat) : List (Nat × Bool) :=
  let m := fld w 43 2
  let mod3 : FieldLimit := [(2, 6, fun v => v == 0), (0, 2, fun v => v != 3)]
  match op with
  | 0xF0 => syF w anyF (zF 6) anyF (zF 8) (zF 43)
  | 0xF1 => syF w (zF 6) anyF anyF (zF 8) (zF 43)
  | 0xF2 | 0xF3 => syF w anyF anyF (zF 16) (zF 8) (lowF 12 43)
  | 0xF4 => syF w (ifF (m == 1) 6) anyF (zF 16) mod3 (zF 43)
  | 0xF5 => syF w (zF 6) (ifF (m == 0) 6) (zF 16) mod3 (if m == 2 then zF 43 else lowF 10 43)
  | 0xF6 | 0xF8 => syF w anyF evenF (zF 16) (zF 8) (zF 43)
  | 0xF7 => syF w anyF (valF 6 (fun v => v % 4 == 0)) (zF 16) (zF 8) (zF 43)
  | 0xF9 => syF w anyF (ifF (m == 0) 6) (zF 16) mod3 (lowF 10 43)
  | 0xFA => syF w (zF 6) anyF (zF 16) (zF 8) (zF 43)
  | _ => syF w (ifF (m == 0) 6) anyF (zF 16) mod3 (zF 43)

/-- The body limits of major op on slot w, in layout order; what a breach offends is the part of a field that has no name, or
whose value is reserved, not the whole field of R54 (log 15). -/
def bodyLimits (op w : Nat) : List (Nat × Bool) :=
  match op / 16 with
  | 0 | 1 => limitsControl op w
  | 2 | 3 => limitsScalar op w
  | 4 => limitsMemory op w
  | 5 => limitsCells op w
  | 6 => limitsTasks op w
  | 7 | 8 | 9 => limitsVector op w
  | 10 => limitsFormat op w
  | 11 | 12 => limitsJobs op w
  | 13 | 14 => limitsEngines op w
  | _ => limitsSystem op w

/-- Position of the first limit that fails. -/
def firstBad : List (Nat × Bool) → Option Nat
  | [] => none
  | (p, ok) :: rest => if ok then firstBad rest else some p

/-! ### Reading the operands -/

def xrAt (w lo : Nat) : XReg := Fin.ofNat 64 (fld w lo 6)
def vrAt (w lo : Nat) : VReg := Fin.ofNat 32 (fld w lo 5)
def prAt (w lo : Nat) : PReg := Fin.ofNat 8 (fld w lo 3)
def frAt (w lo : Nat) : FReg := Fin.ofNat 32 (fld w lo 5)
def bvAt (w lo n : Nat) : BitVec n := BitVec.ofNat n (fld w lo n)
def finAt (w lo n : Nat) : Fin (2 ^ n) := Fin.ofNat (2 ^ n) (fld w lo n)

def memOpAt (w : Nat) : MemOp :=
  { base := xrAt w 67, idx := xrAt w 61, sh := finAt w 49 2, disp := bvAt w 0 49 }
def cellOpAt (w : Nat) : CellOp := { base := xrAt w 67, disp := bvAt w 0 49 }
def accOptsAt (w : Nat) : AccOpts :=
  { sc := .ofCode (fld w 55 3), ord := .ofCode (fld w 53 2), ch := Fin.ofNat 3 (fld w 51 2) }
def vecOptsAt (w : Nat) : AccOpts :=
  { sc := .ofCode (fld w 36 2), ord := .ofCode (fld w 38 2), ch := Fin.ofNat 3 (fld w 40 2) }
def brTargetAt (w : Nat) : BrTarget := { slot := finAt w 54 3, ldisp := bvAt w 0 54 }
def vsrcAt (w : Nat) : VSrc := if bitAt w 42 then .sca (xrAt w 30) else .vec (vrAt w 64)

/-- The instruction of majors 0x00-0x1A (R88). -/
def decodeControl (op w : Nat) : Instr :=
  let d := xrAt w 73
  let a := xrAt w 67
  let t := brTargetAt w
  match op with
  | 0x00 => .nop
  | 0x01 => .halt a (bitAt w 43)
  | 0x02 => .spawn d a (bvAt w 0 58)
  | 0x03 => .hwait d a
  | 0x04 => .trap (bvAt w 0 58)
  | 0x05 => .getid d (bvAt w 0 58)
  | 0x06 => .li d (bvAt w 0 58)
  | 0x07 => .lih d (bvAt w 0 32)
  | 0x10 => .br t
  | 0x11 => .bc d a (.ofCode (fld w 63 4)) t
  | 0x12 => .bcz d (.ofCode (fld w 63 4)) t
  | 0x13 => .bp (prAt w 73) (bitAt w 63) t
  | 0x14 => .call (xrAt w 57) t
  | 0x15 => .jr d
  | 0x16 => .callr d (xrAt w 57)
  | 0x17 => .ret d
  | 0x18 => .loop d (finAt w 63 1) t
  | 0x19 => .loopi (finAt w 58 1) (bvAt w 40 18) (bvAt w 3 37) (finAt w 0 3)
  | _ => .lbrk (finAt w 63 1) t

/-- The instruction of majors 0x20-0x3F (R107). -/
def decodeScalar (op w : Nat) : Instr :=
  let d := xrAt w 73
  let a := xrAt w 67
  let b := xrAt w 61
  let ty := Ty.ofCode (fld w 51 4)
  let m0 := bitAt w 43
  let tyi := Ty.ofCode (fld w 63 4)
  let imm := bvAt w 0 58
  match op with
  | 0x20 => .add d a b ty m0
  | 0x21 => .sub d a b ty m0
  | 0x22 => .mul d a b ty m0
  | 0x23 => .mulh d a b ty
  | 0x24 => .div d a b ty
  | 0x25 => .rem d a b ty
  | 0x26 => .and d a b ty m0
  | 0x27 => .or d a b ty m0
  | 0x28 => .xor d a b ty m0
  | 0x29 => .shl d a b ty m0
  | 0x2A => .shr d a b ty
  | 0x2B => .sha d a b ty
  | 0x2C => .rot d a b ty m0
  | 0x2D => .min d a b ty
  | 0x2E => .max d a b ty
  | 0x2F => .madd d a b (xrAt w 55) ty m0
  | 0x30 => .addi d a tyi (bitAt w 58) imm
  | 0x31 => .andi d a tyi imm
  | 0x32 => .ori d a tyi imm
  | 0x33 => .xori d a tyi imm
  | 0x34 => .shli d a tyi (bitAt w 58) (finAt w 0 6)
  | 0x35 => .shri d a tyi (finAt w 0 6)
  | 0x36 => .shai d a tyi (finAt w 0 6)
  | 0x37 => .bcnt d a ty (.ofCode (fld w 43 2))
  | 0x38 => .ext d a (fld w 63 4 == 3) (finAt w 0 6) (finAt w 6 6)
  | 0x39 => .ins d a (finAt w 0 6) (finAt w 6 6)
  | 0x3A => .lea d (memOpAt w)
  | 0x3B => .sel d a b (prAt w 55) m0
  | 0x3C => .cmp (prAt w 73) a b ty (.ofCode (fld w 43 3)) (.ofCode (fld w 46 2))
  | 0x3D => .cmpi (prAt w 73) a tyi (.ofCode (fld w 58 3)) (.ofCode (fld w 61 2)) imm
  | 0x3E => .plog (prAt w 73) (prAt w 67) (prAt w 61) (bvAt w 43 4)
  | _ => .movp (match fld w 43 2 with
      | 0 => .all d
      | 1 => .spread a
      | 2 => .nz (prAt w 73) a
      | _ => .bit d (prAt w 67))

/-- The instruction of majors 0x40-0x4C (R190, R214). -/
def decodeMemory (op w : Nat) : Instr :=
  let d := xrAt w 73
  let m := memOpAt w
  let sc := Scope.ofCode (fld w 55 3)
  let acq := fld w 53 2 == 1
  match op with
  | 0x40 => .ld d m (finAt w 58 2) (accOptsAt w)
  | 0x41 => .st d m (finAt w 58 2) (accOptsAt w)
  | 0x42 => .ldp d m (accOptsAt w)
  | 0x43 => .stp d m (accOptsAt w)
  | 0x44 => .pref m (finAt w 51 1)
  | 0x45 => .cwb m sc
  | 0x46 => .cinv m sc
  | 0x47 => .fence (bitAt w 73) (bitAt w 74) (bitAt w 75) (bitAt w 76) (bitAt w 77) sc
  | 0x48 => .bankcfg d (finAt w 0 5) (.ofCode (fld w 5 2)) (bitAt w 7)
  | 0x49 => if acq then .rpushClaim d m sc (bitAt w 58) else .rpushPublish m sc
  | 0x4A => if acq then .rpopTake d m sc (bitAt w 58) else .rpopRelease m sc
  | 0x4B => .rstat d (xrAt w 67)
  | _ => .rinit (xrAt w 67)

/-- The instruction of majors 0x50-0x5F (R220, R242, R251). -/
def decodeCells (op w : Nat) : Instr :=
  let d := xrAt w 73
  let s := xrAt w 61
  let m := cellOpAt w
  let sc := Scope.ofCode (fld w 55 3)
  let od := MemOrd.ofCode (fld w 53 2)
  let opc := fld w 49 4
  let idx := bvAt w 0 14
  match op with
  | 0x50 => .amo d s m (.ofCode opc) (finAt w 58 2) sc od
  | 0x51 => .cas d s m (Fin.ofNat 5 (fld w 58 3)) sc od
  | 0x52 => .addb d s m (bitAt w 58) sc od
  | 0x53 => .red d m (if opc == 9 then .cell (frAt w 61) else .int (.ofCode opc) (finAt w 58 2)) sc (bitAt w 54)
  | 0x54 => .facc d m (if bitAt w 66 then .xi else .ent (frAt w 61)) sc (bitAt w 54)
  | 0x55 => .faccrd d m (frAt w 61) (bitAt w 49) sc (bitAt w 53)
  | 0x56 => .faccz d m sc od
  | 0x57 => .mwait d m (bitAt w 58) sc (bitAt w 53)
  | 0x58 => match opc with
      | 0 => .fsetRes d s m
      | 1 => .fsetArm d m
      | 2 => .fsetFlt d s m
      | _ => .fsetRst d m
  | 0x59 => .fwait d s m
  | 0x5A => .fpoll d m (bitAt w 53)
  | 0x5B => .binit d (xrAt w 67) (bitAt w 58) (bvAt w 14 8) idx
  | 0x5C => .barr d idx
  | 0x5D => .barv d (xrAt w 67)
      (if fld w 58 4 == 9 then .cell (bitAt w 62) (frAt w 14) else .int (.ofCode (fld w 58 4))) idx
  | 0x5E => .btest d idx
  | _ => .bfree d idx

/-- The instruction of majors 0x60-0x66 (R274). -/
def decodeTasks (op w : Nat) : Instr :=
  let d := xrAt w 73
  let a := xrAt w 67
  match op with
  | 0x60 => .tsend d a
  | 0x61 => .tsendn d a
  | 0x62 => .msend d a (xrAt w 61) (bitAt w 41) (bvAt w 0 12)
  | 0x63 => .glaunch d a (if bitAt w 41 then some (xrAt w 61) else none)
  | 0x64 => .rgopen d a
  | 0x65 => .rgclose d (bvAt w 0 8)
  | _ => .tself d (bvAt w 0 58)

/-- The instruction of majors 0x70-0x9D (R130). -/
def decodeVector (op w : Nat) : Instr :=
  let d := vrAt w 74
  let a := vrAt w 69
  let b := vrAt w 64
  let c := vrAt w 59
  let s := vsrcAt w
  let mk := prAt w 56
  let kd := prAt w 74
  let ft := frAt w 51
  let rm := Rm.ofCode (fld w 48 3)
  let ty := Ty.ofCode (fld w 44 4)
  let sat := bitAt w 36
  let z := bitAt w 43
  let xa := xrAt w 30
  let o := vecOptsAt w
  match op with
  | 0x70 => .vadd d a s mk ty sat z
  | 0x71 => .vsub d a s mk ty sat z
  | 0x72 => .vmul d a s mk ty sat z
  | 0x73 => .vmulh d a s mk ty z
  | 0x74 => .vand d a s mk ty z
  | 0x75 => .vor d a s mk ty z
  | 0x76 => .vxor d a s mk ty z
  | 0x77 => .vshl d a s mk ty sat z
  | 0x78 => .vshr d a s mk ty z
  | 0x79 => .vsha d a s mk ty z
  | 0x7A => .vmin d a s mk ty z
  | 0x7B => .vmax d a s mk ty z
  | 0x7C => .vcmp kd a s mk ty (.ofCode (fld w 36 3)) (.ofCode (fld w 39 2))
  | 0x7D => .vsel d a b mk ty
  | 0x7E => .vdot d a b c mk (!bitAt w 46) (bitAt w 44) sat z
  | 0x7F => .vabs d a mk ty sat z
  | 0x80 => .vfadd d a s mk ft rm z
  | 0x81 => .vfsub d a s mk ft rm z
  | 0x82 => .vfmul d a s mk ft rm z
  | 0x83 => .vfma d a b c mk ft rm z
  | 0x84 => .vfdiv d a s mk ft rm z
  | 0x85 => .vfsqrt d a mk ft rm z
  | 0x86 => .vfmin d a s mk ft z
  | 0x87 => .vfmax d a s mk ft z
  | 0x88 => .vfcmp kd a s mk ft (.ofCode (fld w 36 3)) (.ofCode (fld w 39 2))
  | 0x89 => .vfexp2 d a mk ft rm z
  | 0x8A => .vfrcp d a mk ft rm z
  | 0x8B => .vfrsq d a mk ft rm z
  | 0x8C => .vfred d a mk ft rm (.ofCode (fld w 36 2))
  | 0x8D => .vfscl d a s mk ft rm z
  | 0x8E => .vfcls d a mk ft z
  | 0x90 => .vld d xa mk ty o z
  | 0x91 => .vst d xa mk ty o
  | 0x92 => .vlds d xa mk ty o z
  | 0x93 => .vsts d xa mk ty o
  | 0x94 => .vgath d b xa mk ty o z
  | 0x95 => .vscat d b xa mk ty o
  | 0x96 => .vperm d a b c mk ty sat z
  | 0x97 => .vbcast (match fld w 36 2 with
      | 0 => .x d xa mk ty z
      | 1 => .e d a xa mk ty z
      | 2 => .klo kd xa
      | _ => .khi kd xa)
  | 0x98 => .vextr (match fld w 36 2 with
      | 0 => .e xa a ty
      | 1 => .klo xa mk
      | 2 => .khi xa mk
      | _ => .cnt xa mk ty)
  | 0x99 => .viota d xa mk ty z
  | 0x9A => .vrng d (if bitAt w 38 then .ctx else .regs a xa) mk (finAt w 36 2) z
  | 0x9B => .vcomp d a xa mk ty
  | 0x9C => .vexpd d a mk ty z
  | _ => .vredi d a mk ty sat (.ofCode (fld w 37 2))

/-- The instruction of majors 0xA0-0xA7 (R167). -/
def decodeFormat (op w : Nat) : Instr :=
  let d := vrAt w 74
  let a := vrAt w 69
  let ft := frAt w 51
  match op with
  | 0xA0 => .ftset (frAt w 0) (xrAt w 67)
  | 0xA1 => .ftget (xrAt w 73) (frAt w 0)
  | 0xA2 => .ftgen (frAt w 0) (finAt w 5 3) (bitAt w 58) (bitAt w 59) (bitAt w 60) (bitAt w 61)
  | 0xA3 => .nfmset (bitAt w 0)
  | 0xA4 => .cvt (xrAt w 73) (xrAt w 67) (match fld w 58 2 with
      | 0 => .fmt (frAt w 0) (frAt w 5)
      | 1 => .xi (.ofCode (fld w 63 4)) (frAt w 0)
      | _ => .xo (.ofCode (fld w 63 4)) (frAt w 5)) (.ofCode (fld w 10 3))
  | 0xA5 => .vcvt d a (vrAt w 59) (prAt w 56) ft (.ofCode (fld w 48 3)) (frAt w 36) (finAt w 41 3)
  | 0xA6 => .vpack d a ft (finAt w 36 3)
  | _ => .vunpk d a ft (finAt w 36 3)

/-- The instruction of majors 0xB0-0xC7 (R302, R315). -/
def decodeJobs (op w : Nat) : Instr :=
  let d := xrAt w 73
  let a := xrAt w 67
  let b := xrAt w 61
  let c := prAt w 55
  let k := JobKind.ofCode (fld w 49 6)
  let h := prAt w 0
  match op with
  | 0xB0 => .mjob d a c k
  | 0xB1 => .mjobr d a b c k
  | 0xB2 => .jpoll d a
  | 0xB3 => .jwait d a
  | 0xB4 => .jcanc d a
  | 0xB5 => .jstat d a
  | 0xB6 => .mcap d a (finAt w 0 3)
  | 0xB7 => .topkrd d a
  | 0xC0 => .hset h a
  | 0xC1 => .hget d h (finAt w 3 3)
  | 0xC2 => .hld d a b c h
  | 0xC3 => .hst d a b c h
  | 0xC4 => .hnext d a c h
  | 0xC5 => .binapp d a (match fld w 41 2 with
      | 0 => .add b
      | 1 => .sub b
      | _ => .nan) h
  | 0xC6 => .binrun d a b (bitAt w 41) h
  | _ => if bitAt w 41 then .bincfgOff d h else .bincfg d a h

/-- The instruction of majors 0xD0-0xEC (R345, R367, R383, R403). -/
def decodeEngines (op w : Nat) : Instr :=
  let d := xrAt w 73
  let a := xrAt w 67
  let b := xrAt w 61
  match op with
  | 0xD0 => .cpy d a (prAt w 55) (finAt w 0 3)
  | 0xD1 => .winset d a (finAt w 0 5)
  | 0xD2 => .winclr d (finAt w 0 5)
  | 0xD3 => match fld w 41 2 with
      | 0 => .wmarkRd d (finAt w 0 3)
      | 1 => .wmarkWt d a (finAt w 0 3)
      | _ => .wmarkCw d a
  | 0xD4 => .subscr d a
  | 0xD5 => .unsub d a
  | 0xD6 => .colset d (finAt w 0 4)
  | 0xD7 => .fwinset d a (finAt w 0 6) (finAt w 6 4)
  | 0xE0 => .chgo d a
  | 0xE1 => .chstat d a
  | 0xE2 => .chstop d a
  | 0xE3 => .rcsnap d a b (bvAt w 0 8)
  | 0xE4 => .slotclm d a b
  | 0xE5 => .arcset d a (finAt w 0 5)
  | 0xE6 => .arccnt d
  | 0xE7 => .arcinv d (if bitAt w 41 then none else some (finAt w 0 5))
  | 0xE8 => .tkreq d a
  | 0xE9 => .tklend d a b
  | 0xEA => if bitAt w 41 then .tkretL d a else .tkretG d a
  | 0xEB => .tkqry d
  | _ => .eqrd d

/-- The instruction of majors 0xF0-0xFB (R420, R448). -/
def decodeSystem (op w : Nat) : Instr :=
  let d := xrAt w 73
  let a := xrAt w 67
  let s := bvAt w 51 16
  let n := bvAt w 0 10
  match op with
  | 0xF0 => .sget d s
  | 0xF1 => .sset a s
  | 0xF2 => .ctxrd d a (bvAt w 0 12)
  | 0xF3 => .ctxwr d a (bvAt w 0 12)
  | 0xF4 => match fld w 43 2 with
      | 0 => .tretNext a
      | 1 => .tretAt d a
      | _ => .tretEnd a
  | 0xF5 => match fld w 43 2 with
      | 0 => .tlbinvVa a n
      | 1 => .tlbinvAsid n
      | _ => .tlbinvAll
  | 0xF6 => .pgdone d a
  | 0xF7 => .preempt d a
  | 0xF8 => .resume d a
  | 0xF9 => match fld w 43 2 with
      | 0 => .asidsetBind d a n
      | 1 => .asidsetFree d n
      | _ => .asidsetQuery d n
  | 0xFA => .dumpreq a
  | _ => match fld w 43 2 with
      | 0 => .dbgBrk d a
      | 1 => .dbgClr a
      | _ => .dbgStep a

/-- The instruction of an assigned major whose body has passed its limits. -/
def decodeBody (op w : Nat) : Instr :=
  match op / 16 with
  | 0 | 1 => decodeControl op w
  | 2 | 3 => decodeScalar op w
  | 4 => decodeMemory op w
  | 5 => decodeCells op w
  | 6 => decodeTasks op w
  | 7 | 8 | 9 => decodeVector op w
  | 10 => decodeFormat op w
  | 11 | 12 => decodeJobs op w
  | 13 | 14 => decodeEngines op w
  | _ => decodeSystem op w

/-- Why a slot is refused (R64 checks 3-5). -/
inductive SlotErr where
  /-- Check 3: ILLEGAL_OPCODE. -/
  | opcode
  /-- Checks 4 and 5: ILLEGAL_ENCODING, with POS of the first offending field (R65). -/
  | encoding (pos : Nat)
deriving DecidableEq, Repr

/-- The header of a slot (R52). -/
def headerAt (w : Nat) : Header :=
  { sw := bitAt w 87, gap := finAt w 85 2, hint := .ofCode (fld w 83 2), pg := prAt w 80, pn := bitAt w 79 }

/-- R64 check 4: POS of an illegal header. -/
def headerBad (op w : Nat) : Option Nat :=
  if fld w 83 2 = 3 || (fld w 83 2 ≠ 0 && !hintOp op) then some 83
  else if fld w 80 3 = 0 && bitAt w 79 then some 80 else none

/-- The decoder: a 96-bit slot is an instruction with its header, or is refused by name. -/
def decodeSlot (w : Nat) : Except SlotErr Slot :=
  let op := fld w 88 8
  if !assignedOp op then .error .opcode
  else match headerBad op w with
    | some p => .error (.encoding p)
    | none =>
      match firstBad (bodyLimits op w) with
      | some p => .error (.encoding p)
      | none => .ok { hdr := headerAt w, op := decodeBody op w }

/-- The host's question: what the decoder reads from a table word. -/
def decodeTableWord (nbits w : Nat) : Option Instr :=
  let slot := fld w 0 (Nat.min nbits 96)
  match decodeSlot slot with
  | .ok s => some s.op
  | .error .opcode => some (.unassignedMajor (BitVec.ofNat 96 slot))
  | .error (.encoding _) => none

/-! ### The encoder -/

/-- The sum of fields: (lowest bit, value). -/
def packF : List (Nat × Nat) → Nat
  | [] => 0
  | (lo, v) :: rest => v * 2 ^ lo + packF rest

/-- A body: OP and its fields. -/
abbrev Body := Nat × List (Nat × Nat)

def Ty.enc (t : Ty) (lo : Nat) : Nat × Nat := (lo, t.code)
def MemOp.enc (m : MemOp) : List (Nat × Nat) :=
  [(67, m.base.val), (61, m.idx.val), (49, m.sh.val), (0, m.disp.toNat)]
def CellOp.enc (m : CellOp) : List (Nat × Nat) := [(67, m.base.val), (0, m.disp.toNat)]
def AccOpts.enc (o : AccOpts) : List (Nat × Nat) := [(55, o.sc.code), (53, o.ord.code), (51, o.ch.val)]
def AccOpts.encV (o : AccOpts) : List (Nat × Nat) := [(36, o.sc.code), (38, o.ord.code), (40, o.ch.val)]
def BrTarget.enc (t : BrTarget) : List (Nat × Nat) := [(54, t.slot.val), (0, t.ldisp.toNat)]
def VSrc.enc : VSrc → List (Nat × Nat)
  | .vec vb => [(64, vb.val)]
  | .sca xa => [(30, xa.val), (42, 1)]

/-- Fields D, A, B, TY of an RR instruction with MOD[0] (R54). -/
def encRR (d a b : XReg) (ty : Ty) (m : Bool) : List (Nat × Nat) :=
  [(73, d.val), (67, a.val), (61, b.val), ty.enc 51, (43, Bool.code m)]

/-- Fields D, A, TY, MOD[0], IMM of an RI instruction (R54). -/
def encRI (d a : XReg) (ty : Ty) (m : Bool) (imm : Nat) : List (Nat × Nat) :=
  [(73, d.val), (67, a.val), ty.enc 63, (58, Bool.code m), (0, imm)]

/-- Fields VD, VA, second operand, MK, TY, `.sat`, `.z` of a vector instruction (R54). -/
def encVI (d a : VReg) (b : VSrc) (mk : PReg) (ty : Ty) (sat z : Bool) : List (Nat × Nat) :=
  [(74, d.val), (69, a.val), (56, mk.val), ty.enc 44, (36, Bool.code sat), (43, Bool.code z)] ++ b.enc

/-- Fields VD, VA, second operand, MK, FT, RM, `.z` of a vector floating instruction (R54). -/
def encVF (d a : VReg) (b : VSrc) (mk : PReg) (ft : FReg) (rm : Nat) (z : Bool) : List (Nat × Nat) :=
  [(74, d.val), (69, a.val), (56, mk.val), (51, ft.val), (48, rm), (43, Bool.code z)] ++ b.enc

/-- Fields VD, VA, MK, FT, RM, `.z` of a one-operand vector floating instruction (R54). -/
def encV1 (d a : VReg) (mk : PReg) (ft : FReg) (rm : Nat) (z : Bool) : List (Nat × Nat) :=
  [(74, d.val), (69, a.val), (56, mk.val), (51, ft.val), (48, rm), (43, Bool.code z)]

/-- Fields of a vector memory instruction (R142). -/
def encVM (d : VReg) (xa : XReg) (mk : PReg) (ty : Ty) (o : AccOpts) (z : Bool) : List (Nat × Nat) :=
  [(74, d.val), (56, mk.val), ty.enc 44, (43, Bool.code z), (30, xa.val)] ++ o.encV

/-- Fields D, A of format EN and SY (R54). -/
def encDA (d a : XReg) : List (Nat × Nat) := [(73, d.val), (67, a.val)]

/-- The fields of an instruction's body, with OP; none for an event. -/
def encBody : Instr → Option Body
  | .nop => some (0x00, [])
  | .halt a r => some (0x01, [(67, a.val), (43, Bool.code r)])
  | .spawn d a t => some (0x02, [(73, d.val), (67, a.val), (0, t.toNat)])
  | .hwait d a => some (0x03, encDA d a)
  | .trap i => some (0x04, [(0, i.toNat)])
  | .getid d n => some (0x05, [(73, d.val), (0, n.toNat)])
  | .li d i => some (0x06, [(73, d.val), (0, i.toNat)])
  | .lih d i => some (0x07, [(73, d.val), (0, i.toNat)])
  | .br t => some (0x10, t.enc)
  | .bc a b c t => some (0x11, [(73, a.val), (67, b.val), (63, c.code)] ++ t.enc)
  | .bcz a c t => some (0x12, [(73, a.val), (63, c.code)] ++ t.enc)
  | .bp p n t => some (0x13, [(73, p.val), (63, Bool.code n)] ++ t.enc)
  | .call l t => some (0x14, [(57, l.val)] ++ t.enc)
  | .jr a => some (0x15, [(73, a.val)])
  | .callr a l => some (0x16, [(73, a.val), (57, l.val)])
  | .ret a => some (0x17, [(73, a.val)])
  | .loop a n t => some (0x18, [(73, a.val), (63, n.val)] ++ t.enc)
  | .loopi n c l s => some (0x19, [(58, n.val), (40, c.toNat), (3, l.toNat), (0, s.val)])
  | .lbrk n t => some (0x1A, [(63, n.val)] ++ t.enc)
  | .add d a b ty m => some (0x20, encRR d a b ty m)
  | .sub d a b ty m => some (0x21, encRR d a b ty m)
  | .mul d a b ty m => some (0x22, encRR d a b ty m)
  | .mulh d a b ty => some (0x23, encRR d a b ty false)
  | .div d a b ty => some (0x24, encRR d a b ty false)
  | .rem d a b ty => some (0x25, encRR d a b ty false)
  | .and d a b ty m => some (0x26, encRR d a b ty m)
  | .or d a b ty m => some (0x27, encRR d a b ty m)
  | .xor d a b ty m => some (0x28, encRR d a b ty m)
  | .shl d a b ty m => some (0x29, encRR d a b ty m)
  | .shr d a b ty => some (0x2A, encRR d a b ty false)
  | .sha d a b ty => some (0x2B, encRR d a b ty false)
  | .rot d a b ty m => some (0x2C, encRR d a b ty m)
  | .min d a b ty => some (0x2D, encRR d a b ty false)
  | .max d a b ty => some (0x2E, encRR d a b ty false)
  | .madd d a b c ty m => some (0x2F, encRR d a b ty m ++ [(55, c.val)])
  | .addi d a ty m i => some (0x30, encRI d a ty m i.toNat)
  | .andi d a ty i => some (0x31, encRI d a ty false i.toNat)
  | .ori d a ty i => some (0x32, encRI d a ty false i.toNat)
  | .xori d a ty i => some (0x33, encRI d a ty false i.toNat)
  | .shli d a ty m s => some (0x34, encRI d a ty m s.val)
  | .shri d a ty s => some (0x35, encRI d a ty false s.val)
  | .shai d a ty s => some (0x36, encRI d a ty false s.val)
  | .bcnt d a ty o => some (0x37, [(73, d.val), (67, a.val), ty.enc 51, (43, o.code)])
  | .ext d a s p l => some (0x38, [(73, d.val), (67, a.val), (63, if s then 3 else 7), (0, p.val), (6, l.val)])
  | .ins d a p l => some (0x39, [(73, d.val), (67, a.val), (0, p.val), (6, l.val)])
  | .lea d m => some (0x3A, [(73, d.val)] ++ m.enc)
  | .sel d a b c n => some (0x3B, [(73, d.val), (67, a.val), (61, b.val), (55, c.val), (43, Bool.code n)])
  | .cmp p a b ty o c => some (0x3C, [(73, p.val), (67, a.val), (61, b.val), ty.enc 51, (43, o.code), (46, c.code)])
  | .cmpi p a ty o c i => some (0x3D, [(73, p.val), (67, a.val), ty.enc 63, (58, o.code), (61, c.code), (0, i.toNat)])
  | .plog p a b l => some (0x3E, [(73, p.val), (67, a.val), (61, b.val), (43, l.toNat)])
  | .movp (.all d) => some (0x3F, [(73, d.val)])
  | .movp (.spread a) => some (0x3F, [(67, a.val), (43, 1)])
  | .movp (.nz p a) => some (0x3F, [(73, p.val), (67, a.val), (43, 2)])
  | .movp (.bit d p) => some (0x3F, [(73, d.val), (67, p.val), (43, 3)])
  | .ld d m sz o => some (0x40, [(73, d.val), (58, sz.val)] ++ m.enc ++ o.enc)
  | .st d m sz o => some (0x41, [(73, d.val), (58, sz.val)] ++ m.enc ++ o.enc)
  | .ldp d m o => some (0x42, [(73, d.val), (58, 4)] ++ m.enc ++ o.enc)
  | .stp d m o => some (0x43, [(73, d.val), (58, 4)] ++ m.enc ++ o.enc)
  | .pref m ch => some (0x44, [(51, ch.val)] ++ m.enc)
  | .cwb m sc => some (0x45, [(55, sc.code)] ++ m.enc)
  | .cinv m sc => some (0x46, [(55, sc.code)] ++ m.enc)
  | .fence pr pw sr sw lb sc => some (0x47, [(73, Bool.code pr), (74, Bool.code pw), (75, Bool.code sr), (76, Bool.code sw),
      (77, Bool.code lb), (55, sc.code)])
  | .bankcfg d b m p => some (0x48, [(73, d.val), (0, b.val), (5, m.code), (7, Bool.code p)])
  | .rpushClaim d m sc t => some (0x49, [(73, d.val), (58, Bool.code t), (55, sc.code), (53, 1)] ++ m.enc)
  | .rpushPublish m sc => some (0x49, [(55, sc.code), (53, 2)] ++ m.enc)
  | .rpopTake d m sc t => some (0x4A, [(73, d.val), (58, Bool.code t), (55, sc.code), (53, 1)] ++ m.enc)
  | .rpopRelease m sc => some (0x4A, [(55, sc.code), (53, 2)] ++ m.enc)
  | .rstat d a => some (0x4B, encDA d a)
  | .rinit a => some (0x4C, [(67, a.val)])
  | .amo d s m op sz sc o => some (0x50, [(73, d.val), (61, s.val), (58, sz.val), (55, sc.code), (53, o.code), (49, op.code)] ++ m.enc)
  | .cas d s m sz sc o => some (0x51, [(73, d.val), (61, s.val), (58, sz.val), (55, sc.code), (53, o.code)] ++ m.enc)
  | .addb d s m w sc o => some (0x52, [(73, d.val), (61, s.val), (58, 2 + Bool.code w), (55, sc.code), (53, o.code)] ++ m.enc)
  | .red s m (.int op sz) sc r => some (0x53, [(73, s.val), (58, sz.val), (55, sc.code), (53, 2 * Bool.code r), (49, op.code)] ++ m.enc)
  | .red s m (.cell e) sc r => some (0x53, [(73, s.val), (61, e.val), (58, 6), (55, sc.code), (53, 2 * Bool.code r), (49, 9)] ++ m.enc)
  | .facc s m (.ent e) sc r => some (0x54, [(73, s.val), (61, e.val), (58, 6), (55, sc.code), (53, 2 * Bool.code r)] ++ m.enc)
  | .facc s m .xi sc r => some (0x54, [(73, s.val), (66, 1), (58, 6), (55, sc.code), (53, 2 * Bool.code r)] ++ m.enc)
  | .faccrd d m e c sc a => some (0x55, [(73, d.val), (61, e.val), (58, 6), (55, sc.code), (53, Bool.code a), (49, Bool.code c)] ++ m.enc)
  | .faccz d m sc o => some (0x56, [(73, d.val), (58, 6), (55, sc.code), (53, o.code)] ++ m.enc)
  | .mwait d m w sc a => some (0x57, [(73, d.val), (58, 2 + Bool.code w), (55, sc.code), (53, Bool.code a)] ++ m.enc)
  | .fsetRes d v m => some (0x58, [(73, d.val), (61, v.val), (55, 2)] ++ m.enc)
  | .fsetArm d m => some (0x58, [(73, d.val), (55, 2), (49, 1)] ++ m.enc)
  | .fsetFlt d v m => some (0x58, [(73, d.val), (61, v.val), (55, 2), (49, 2)] ++ m.enc)
  | .fsetRst d m => some (0x58, [(73, d.val), (55, 2), (49, 3)] ++ m.enc)
  | .fwait d r m => some (0x59, [(73, d.val), (61, r.val), (55, 2)] ++ m.enc)
  | .fpoll d m a => some (0x5A, [(73, d.val), (55, 2), (53, Bool.code a)] ++ m.enc)
  | .binit d a v c i => some (0x5B, [(73, d.val), (67, a.val), (58, Bool.code v), (14, c.toNat), (0, i.toNat)])
  | .barr d i => some (0x5C, [(73, d.val), (0, i.toNat)])
  | .barv d a (.int op) i => some (0x5D, [(73, d.val), (67, a.val), (58, op.code), (0, i.toNat)])
  | .barv d a (.cell xi e) i => some (0x5D, [(73, d.val), (67, a.val), (58, 9), (62, Bool.code xi), (14, e.val), (0, i.toNat)])
  | .btest d i => some (0x5E, [(73, d.val), (0, i.toNat)])
  | .bfree d i => some (0x5F, [(73, d.val), (0, i.toNat)])
  | .tsend d a => some (0x60, encDA d a)
  | .tsendn d a => some (0x61, encDA d a)
  | .msend d a b t l => some (0x62, encDA d a ++ [(61, b.val), (41, Bool.code t), (0, l.toNat)])
  | .glaunch d a none => some (0x63, encDA d a)
  | .glaunch d a (some b) => some (0x63, encDA d a ++ [(61, b.val), (41, 1)])
  | .rgopen d a => some (0x64, encDA d a)
  | .rgclose d r => some (0x65, [(73, d.val), (0, r.toNat)])
  | .tself d t => some (0x66, [(73, d.val), (0, t.toNat)])
  | .vadd d a b mk ty s z => some (0x70, encVI d a b mk ty s z)
  | .vsub d a b mk ty s z => some (0x71, encVI d a b mk ty s z)
  | .vmul d a b mk ty s z => some (0x72, encVI d a b mk ty s z)
  | .vmulh d a b mk ty z => some (0x73, encVI d a b mk ty false z)
  | .vand d a b mk ty z => some (0x74, encVI d a b mk ty false z)
  | .vor d a b mk ty z => some (0x75, encVI d a b mk ty false z)
  | .vxor d a b mk ty z => some (0x76, encVI d a b mk ty false z)
  | .vshl d a b mk ty s z => some (0x77, encVI d a b mk ty s z)
  | .vshr d a b mk ty z => some (0x78, encVI d a b mk ty false z)
  | .vsha d a b mk ty z => some (0x79, encVI d a b mk ty false z)
  | .vmin d a b mk ty z => some (0x7A, encVI d a b mk ty false z)
  | .vmax d a b mk ty z => some (0x7B, encVI d a b mk ty false z)
  | .vcmp k a b mk ty o c => some (0x7C, [(74, k.val), (69, a.val), (56, mk.val), ty.enc 44, (36, o.code), (39, c.code)] ++ b.enc)
  | .vsel d a b mk ty => some (0x7D, [(74, d.val), (69, a.val), (64, b.val), (56, mk.val), ty.enc 44])
  | .vdot d a b c mk s w t z => some (0x7E, [(74, d.val), (69, a.val), (64, b.val), (59, c.val), (56, mk.val),
      (44, Bool.code w), (46, Bool.code (!s)), (36, Bool.code t), (43, Bool.code z)])
  | .vabs d a mk ty s z => some (0x7F, [(74, d.val), (69, a.val), (56, mk.val), ty.enc 44, (36, Bool.code s), (43, Bool.code z)])
  | .vfadd d a b mk f r z => some (0x80, encVF d a b mk f r.code z)
  | .vfsub d a b mk f r z => some (0x81, encVF d a b mk f r.code z)
  | .vfmul d a b mk f r z => some (0x82, encVF d a b mk f r.code z)
  | .vfma d a b c mk f r z => some (0x83, encV1 d a mk f r.code z ++ [(64, b.val), (59, c.val)])
  | .vfdiv d a b mk f r z => some (0x84, encVF d a b mk f r.code z)
  | .vfsqrt d a mk f r z => some (0x85, encV1 d a mk f r.code z)
  | .vfmin d a b mk f z => some (0x86, encVF d a b mk f 0 z)
  | .vfmax d a b mk f z => some (0x87, encVF d a b mk f 0 z)
  | .vfcmp k a b mk f o c => some (0x88, [(74, k.val), (69, a.val), (56, mk.val), (51, f.val), (36, o.code), (39, c.code)] ++ b.enc)
  | .vfexp2 d a mk f r z => some (0x89, encV1 d a mk f r.code z)
  | .vfrcp d a mk f r z => some (0x8A, encV1 d a mk f r.code z)
  | .vfrsq d a mk f r z => some (0x8B, encV1 d a mk f r.code z)
  | .vfred d a mk f r o => some (0x8C, encV1 d a mk f r.code false ++ [(36, o.code)])
  | .vfscl d a b mk f r z => some (0x8D, encVF d a b mk f r.code z)
  | .vfcls d a mk f z => some (0x8E, encV1 d a mk f 0 z)
  | .vld d xa mk ty o z => some (0x90, encVM d xa mk ty o z)
  | .vst d xa mk ty o => some (0x91, encVM d xa mk ty o false)
  | .vlds d xa mk ty o z => some (0x92, encVM d xa mk ty o z)
  | .vsts d xa mk ty o => some (0x93, encVM d xa mk ty o false)
  | .vgath d b xa mk ty o z => some (0x94, encVM d xa mk ty o z ++ [(64, b.val)])
  | .vscat d b xa mk ty o => some (0x95, encVM d xa mk ty o false ++ [(64, b.val)])
  | .vperm d a b c mk ty t z => some (0x96, [(74, d.val), (69, a.val), (64, b.val), (59, c.val), (56, mk.val), ty.enc 44,
      (36, Bool.code t), (43, Bool.code z)])
  | .vbcast (.x d xa mk ty z) => some (0x97, [(74, d.val), (56, mk.val), ty.enc 44, (43, Bool.code z), (30, xa.val)])
  | .vbcast (.e d a xa mk ty z) => some (0x97, [(74, d.val), (69, a.val), (56, mk.val), ty.enc 44, (43, Bool.code z), (36, 1), (30, xa.val)])
  | .vbcast (.klo k xa) => some (0x97, [(74, k.val), (36, 2), (30, xa.val)])
  | .vbcast (.khi k xa) => some (0x97, [(74, k.val), (36, 3), (30, xa.val)])
  | .vextr (.e xa a ty) => some (0x98, [(69, a.val), ty.enc 44, (30, xa.val)])
  | .vextr (.klo xa mk) => some (0x98, [(56, mk.val), (36, 1), (30, xa.val)])
  | .vextr (.khi xa mk) => some (0x98, [(56, mk.val), (36, 2), (30, xa.val)])
  | .vextr (.cnt xa mk ty) => some (0x98, [(56, mk.val), ty.enc 44, (36, 3), (30, xa.val)])
  | .viota d xa mk ty z => some (0x99, [(74, d.val), (56, mk.val), ty.enc 44, (43, Bool.code z), (30, xa.val)])
  | .vrng d (.regs a xa) mk w z => some (0x9A, [(74, d.val), (69, a.val), (56, mk.val), (36, w.val), (43, Bool.code z), (30, xa.val)])
  | .vrng d .ctx mk w z => some (0x9A, [(74, d.val), (56, mk.val), (36, w.val), (38, 1), (43, Bool.code z)])
  | .vcomp d a xa mk ty => some (0x9B, [(74, d.val), (69, a.val), (56, mk.val), ty.enc 44, (30, xa.val)])
  | .vexpd d a mk ty z => some (0x9C, [(74, d.val), (69, a.val), (56, mk.val), ty.enc 44, (43, Bool.code z)])
  | .vredi d a mk ty s o => some (0x9D, [(74, d.val), (69, a.val), (56, mk.val), ty.enc 44, (36, Bool.code s), (37, o.code)])
  | .ftset f a => some (0xA0, [(67, a.val), (0, f.val)])
  | .ftget d f => some (0xA1, [(73, d.val), (0, f.val)])
  | .ftgen f p u n c s => some (0xA2, [(58, Bool.code u), (59, Bool.code n), (60, Bool.code c), (61, Bool.code s), (5, p.val), (0, f.val)])
  | .nfmset n => some (0xA3, [(0, Bool.code n)])
  | .cvt d a (.fmt t s) r => some (0xA4, encDA d a ++ [(10, r.code), (5, s.val), (0, t.val)])
  | .cvt d a (.xi ty t) r => some (0xA4, encDA d a ++ [ty.enc 63, (58, 1), (10, r.code), (0, t.val)])
  | .cvt d a (.xo ty s) r => some (0xA4, encDA d a ++ [ty.enc 63, (58, 2), (10, r.code), (5, s.val)])
  | .vcvt d a c mk f r s g => some (0xA5, [(74, d.val), (69, a.val), (59, c.val), (56, mk.val), (51, f.val), (48, r.code), (36, s.val), (41, g.val)])
  | .vpack d a f g => some (0xA6, [(74, d.val), (69, a.val), (51, f.val), (36, g.val)])
  | .vunpk d a f g => some (0xA7, [(74, d.val), (69, a.val), (51, f.val), (36, g.val)])
  | .mjob d a c k => some (0xB0, encDA d a ++ [(55, c.val), (49, k.code)])
  | .mjobr d a b c k => some (0xB1, encDA d a ++ [(61, b.val), (55, c.val), (49, k.code)])
  | .jpoll d a => some (0xB2, encDA d a)
  | .jwait d a => some (0xB3, encDA d a)
  | .jcanc d a => some (0xB4, encDA d a)
  | .jstat d a => some (0xB5, encDA d a)
  | .mcap d a r => some (0xB6, encDA d a ++ [(0, r.val)])
  | .topkrd d a => some (0xB7, encDA d a)
  | .hset h a => some (0xC0, [(67, a.val), (0, h.val)])
  | .hget d h w => some (0xC1, [(73, d.val), (3, w.val), (0, h.val)])
  | .hld d a b c h => some (0xC2, encDA d a ++ [(61, b.val), (55, c.val), (0, h.val)])
  | .hst d a b c h => some (0xC3, encDA d a ++ [(61, b.val), (55, c.val), (0, h.val)])
  | .hnext d a c h => some (0xC4, encDA d a ++ [(55, c.val), (0, h.val)])
  | .binapp d a (.add b) s => some (0xC5, encDA d a ++ [(61, b.val), (0, s.val)])
  | .binapp d a (.sub b) s => some (0xC5, encDA d a ++ [(61, b.val), (41, 1), (0, s.val)])
  | .binapp d a .nan s => some (0xC5, encDA d a ++ [(41, 2), (0, s.val)])
  | .binrun d a b c s => some (0xC6, encDA d a ++ [(61, b.val), (41, Bool.code c), (0, s.val)])
  | .bincfg d a s => some (0xC7, encDA d a ++ [(0, s.val)])
  | .bincfgOff d s => some (0xC7, [(73, d.val), (41, 1), (0, s.val)])
  | .cpy d a c ch => some (0xD0, encDA d a ++ [(55, c.val), (0, ch.val)])
  | .winset d a w => some (0xD1, encDA d a ++ [(0, w.val)])
  | .winclr d w => some (0xD2, [(73, d.val), (0, w.val)])
  | .wmarkRd d ch => some (0xD3, [(73, d.val), (0, ch.val)])
  | .wmarkWt d a ch => some (0xD3, encDA d a ++ [(41, 1), (0, ch.val)])
  | .wmarkCw d a => some (0xD3, encDA d a ++ [(41, 2)])
  | .subscr d a => some (0xD4, encDA d a)
  | .unsub d a => some (0xD5, encDA d a)
  | .colset d c => some (0xD6, [(73, d.val), (0, c.val)])
  | .fwinset d a q w => some (0xD7, encDA d a ++ [(0, q.val), (6, w.val)])
  | .chgo d a => some (0xE0, encDA d a)
  | .chstat d a => some (0xE1, encDA d a)
  | .chstop d a => some (0xE2, encDA d a)
  | .rcsnap d a b n => some (0xE3, encDA d a ++ [(61, b.val), (0, n.toNat)])
  | .slotclm d a b => some (0xE4, encDA d a ++ [(61, b.val)])
  | .arcset d a e => some (0xE5, encDA d a ++ [(0, e.val)])
  | .arccnt d => some (0xE6, [(73, d.val)])
  | .arcinv d none => some (0xE7, [(73, d.val), (41, 1)])
  | .arcinv d (some e) => some (0xE7, [(73, d.val), (0, e.val)])
  | .tkreq d a => some (0xE8, encDA d a)
  | .tklend d a b => some (0xE9, encDA d a ++ [(61, b.val)])
  | .tkretG d a => some (0xEA, encDA d a)
  | .tkretL d a => some (0xEA, encDA d a ++ [(41, 1)])
  | .tkqry d => some (0xEB, [(73, d.val)])
  | .eqrd d => some (0xEC, [(73, d.val)])
  | .sget d s => some (0xF0, [(73, d.val), (51, s.toNat)])
  | .sset a s => some (0xF1, [(67, a.val), (51, s.toNat)])
  | .ctxrd d a n => some (0xF2, encDA d a ++ [(0, n.toNat)])
  | .ctxwr d a n => some (0xF3, encDA d a ++ [(0, n.toNat)])
  | .tretNext a => some (0xF4, [(67, a.val)])
  | .tretAt d a => some (0xF4, encDA d a ++ [(43, 1)])
  | .tretEnd a => some (0xF4, [(67, a.val), (43, 2)])
  | .tlbinvVa a n => some (0xF5, [(67, a.val), (0, n.toNat)])
  | .tlbinvAsid n => some (0xF5, [(43, 1), (0, n.toNat)])
  | .tlbinvAll => some (0xF5, [(43, 2)])
  | .pgdone d a => some (0xF6, encDA d a)
  | .preempt d a => some (0xF7, encDA d a)
  | .resume d a => some (0xF8, encDA d a)
  | .asidsetBind d a n => some (0xF9, encDA d a ++ [(0, n.toNat)])
  | .asidsetFree d n => some (0xF9, [(73, d.val), (43, 1), (0, n.toNat)])
  | .asidsetQuery d n => some (0xF9, [(73, d.val), (43, 2), (0, n.toNat)])
  | .dumpreq a => some (0xFA, [(67, a.val)])
  | .dbgBrk d a => some (0xFB, encDA d a)
  | .dbgClr a => some (0xFB, [(67, a.val), (43, 1)])
  | .dbgStep a => some (0xFB, [(67, a.val), (43, 2)])
  | .unassignedMajor w => some (w.toNat / 2 ^ 88, [(0, w.toNat % 2 ^ 79)])
  | .ringClaimServed | .ringTakeServed | .mwaitWake | .continuationDelivery | .barrierChildArrival
  | .barrierTreeRelease | .taskMessageArrival | .tsendResend | .deferredResend | .taskDequeue
  | .faultMessageResend | .registerResultWrite | .gangAdmissionAttempt | .gleanerWave | .remoteJobArrival
  | .jobIssue | .engineBeat | .gateRefill | .jobCompletion | .binrunReplay | .copyStart
  | .watermarkAdvance | .copyCompletion | .subscriptionTileStep | .claimRound | .chainStartAttempt
  | .chainGate | .chainClaimRound | .chainDispatch | .chainCombine | .chainRunComplete
  | .loanTermExpiry | .idleRevocation | .revocationNoticeEnd | .quotaPeriodBoundary | .quotaCapture
  | .zoneBudgetWrite .. | .vfreqWrite .. | .vfRampStep | .thermalEvaluation .. | .hbmFreqWrite ..
  | .hbmChannelRetrain | .retainCancel .. | .scratchPowerLoss | .sysregWrite .. | .pageWalk ..
  | .contextCapture | .debugBreakpoint | .correctedError .. | .uncorrectableError .. | .fatalDump | .coldReset ..
  | .readlog | .clearlog | .dumpinfo | .readdump | .releasedump | .mailboxUnknownCmd | .hostMemoryAccess ..
  | .launchWrite .. | .launchResend | .instructionLineArrival | .homeStatusArrival
  | .peerPortLinkChange .. => none

/-- The header fields of a slot (R52). -/
def Header.enc (h : Header) : List (Nat × Nat) :=
  [(87, Bool.code h.sw), (85, h.gap.val), (83, h.hint.code), (80, h.pg.val), (79, Bool.code h.pn)]

/-- The 96-bit slot of an instruction under a header; none for an event, which has no encoding. -/
def encode (h : Header) (i : Instr) : Option Nat :=
  match encBody i with
  | none => none
  | some (op, fs) => some (packF ([(88, op)] ++ h.enc ++ fs))

/-- A header that carries nothing. -/
def Header.none : Header := { sw := false, gap := 0, hint := .none, pg := 0, pn := false }

/-- A line of five slots with TGT and PAIR, its parity computed (R44, R47). -/
def encodeLine (s0 s1 s2 s3 s4 tgt pair : Nat) : Nat :=
  let par := Bool.code (parityOf 96 s0) + 2 * Bool.code (parityOf 96 s1) + 4 * Bool.code (parityOf 96 s2) +
    8 * Bool.code (parityOf 96 s3) + 16 * Bool.code (parityOf 96 s4)
  let lw := tgt + pair * 2 ^ 5 + par * 2 ^ 9
  let lw := lw + Bool.code (parityOf 32 lw) * 2 ^ 14
  s0 + s1 * 2 ^ 96 + s2 * 2 ^ 192 + s3 * 2 ^ 288 + s4 * 2 ^ 384 + lw * 2 ^ 480

end Sys2Proof
end

