-- ==== Sys2Proof/Config.lean ====
section
/-! DEFINITION. What the spec fixes for the part, the moves of the agenda, and the free values.

A free value is an opaque constant applied to a counter or to operands: nothing can be proved of it beyond its type. -/

namespace Sys2Proof

/-- One step of one agent of the module.  The step function takes the first move of `State.agenda`; with none listed,
the next move is a free value (log 3). -/
inductive Move where
  /-- One ACLK cycle of a core (R75). -/
  | cycle (core : Nat)
  /-- An event row of the opcode table, about the unit u (and v). -/
  | event (i : Instr) (u v : Nat)
  /-- n fabric cycles pass (R22). -/
  | tick (n : Nat)
  /-- A core writes back and drops a line of its L1D (R178). -/
  | evictL1 (core line : Nat)
  /-- A tile writes back and drops a line of its L2 (R179). -/
  | evictL2 (tid line : Nat)
  /-- A core drops a line of its L1 instruction cache (R178). -/
  | dropCode (core line : Nat)
  /-- A TLB entry is replaced (R415): entry n of the L1 TLB of a core, or of the shared TLB of a tile. -/
  | dropTlb (shared : Bool) (unit n : Nat)
  /-- Bank access n of a context that has issued performs, if nothing before it holds it (R185, R211; log 68). -/
  | serve (id n : Nat)
  /-- Request n to arm a future reaches the future's home (R235, R468). -/
  | arm (n : Nat)
  /-- From now on plain bank accesses of a context through path 1, or path 2, perform when they issue, or later (log 68). -/
  | lag (id : Nat) (mesh on : Bool)
  /-- The host writes bytes of its own memory, or reads n of them (R451): host physical addresses. -/
  | hostStore (addr : Nat) (data : List Byte)
  | hostLoad (addr n : Nat)
  /-- The host writes or reads 8 bytes of the memory BAR at an offset (R463). -/
  | barStore (off : Nat) (v : Word)
  | barLoad (off : Nat)
  /-- The mailbox command ends (R463). -/
  | mailboxEnd
deriving DecidableEq, Repr, Inhabited

namespace Config

/-- The move that comes when the agenda lists none (log 3): every order of the agents is admitted. -/
opaque nextMove : Nat → Move

/-- A value that the spec leaves open, fresh for each count (log 7). -/
opaque freeWord : Nat → Word

/-- A choice that the spec leaves open, as a natural number (log 7). -/
opaque freeNat : Nat → Nat

/-- Does a read of a pending register return New (R78, R79)?  By issue count and operand (log 7). -/
opaque pickNew : Nat → Nat → Bool

/-- What an uninitialised or unstated byte of an image holds, by place (log 20). -/
opaque freeByte : Nat → Nat → Byte

/-- What a peer module answers to a read (R456, log 21). -/
opaque peerByte : Nat → Nat → Byte

/-- Size of module memory: 3 TiB (R18, R409). -/
abbrev moduleBytes : Nat := 0x30000000000

/-- Where host physical addresses begin in the model's one physical address space: the address plus 2^57 (R184). -/
abbrev hostBase : Nat := 2 ^ 57

/-- Fabric cycles of one microsecond (R22). -/
abbrev usCycles : Nat := 2000

end Config
end Sys2Proof
end

