-- ==== Sys2Proof/Machine/Types.lean ====
section
/-! DEFINITION. The records that State is made of: contexts, cores, tiles, chiplets, quarries, zones, address spaces.

Every record is plain data.  Collections with a key are lists of (key, record) with strictly rising keys. -/

namespace Sys2Proof.Machine

/-- Fault codes by name (R430). -/
inductive Code where
  | illegalOpcode | illegalEncoding | illegalLine | illegalPair | illegalTarget | instrParity | privilege | trap
  | loopRange | sysreg | ctxState | debugStep | debugBrk | badPath | misaligned | xlateMiss | xlatePerm | xlateFormat
  | tileDark | tilePerm | dataUncorr | bankMode | bankAsid | bankOwner | ringAddr | ringBusy | fwinAtomic | illegalEntry
  | entryKind | formatMismatch | futureAddr | futureOwned | doubleResolve | joinUnderflow | barOutsideGang
  | barNotMember | barNoval | barMismatch | barState | barAsid | barOwner | barTree | taskMsg | taskTarget | taskPerm
  | regionClosed | asidUnbound | asidProfile | colourPerm | jobKind | jobDesc | jobMem | jobDep | jobCap | jobTarget
  | jobId | jobCancelled | jobRecord | topkState | handleDesc | handleRange | binFull | binSlot | binDesc | binIndex
  | winFault | winBusy | winDesc | chainDesc | chainId | claimDesc | arcEntry | arcDesc | tokenArg | tokenTarget
  | softCorr
deriving DecidableEq, Repr, Inhabited

/-- A fault: its code and information word (R430). -/
structure Flt where
  code : Code
  info : Word
deriving DecidableEq, Repr, Inhabited

/-- The states of a hardware context (R26); SAVED is an image in memory. -/
inductive CtxSt where
  | free | ready | parked | faulted
deriving DecidableEq, Repr, Inhabited

/-- A hardware loop set (R85). -/
structure LoopSet where
  lc : Word := 0
  ls : Word := 0
  le : Word := 0
  armed : Bool := false
deriving DecidableEq, Repr, Inhabited

/-- One register write: the destination and the value (R79). -/
inductive RegWrite where
  | x (r : XReg) (w : Word)
  | p (r : PReg) (b : Bool)
  | v (r : VReg) (w : VWord)
  | k (r : PReg) (w : KWord)
  | h (r : PReg) (w : HWord)
deriving DecidableEq, Repr, Inhabited

/-- The number of the written register, for R204: x, p, v, k and h in turn; 0 for those that read as constants. -/
def RegWrite.key : RegWrite → Nat
  | .x r _ => r.val
  | .p r _ => if r.val = 0 then 0 else 64 + r.val
  | .v r _ => 72 + r.val
  | .k r _ => if r.val = 0 then 0 else 104 + r.val
  | .h r _ => 112 + r.val

/-- A setting of a bank, as BANKCFG asks for it (R181, R194). -/
structure BankSet where
  bank : Nat
  mode : BankMode
  pool : Bool
deriving DecidableEq, Repr

/-- An access of a context to bytes of a bank, or of memory behind one that acquires, which has issued and not performed
(R185, R200, R203 case 2, R211, R335). -/
structure BankAcc where
  /-- The byte is named through path 2 (R200). -/
  mesh  : Bool
  tid   : Nat
  off   : Nat
  n     : Nat
  ea    : Word
  pc    : Word
  /-- The value of a store. -/
  store : Option Nat
  /-- The accesses of one instruction, and the bit of their value at which this one begins. -/
  grp   : Nat
  lo    : Nat
  /-- Count `State.seq` at issue, for dependencies (R204; log 6). -/
  num   : Nat
  /-- It waits on a watermark of a channel of the context's tile, or has ORD acq or ar, and acquires when it performs (R199,
  R211); it has ORD rel or ar, and releases before it performs; the scope of both. -/
  acq   : Bool
  rel   : Bool := false
  sc    : Scope := .ti
  /-- Count of the latest load that it depends on (R204). -/
  dep   : Nat := 0
  /-- Physical address, for bytes of memory. -/
  mem   : Option Nat := none
  /-- Colour of its packet (R343). -/
  colour : BitVec 4 := 0
  /-- The bytes at issue, where a load may still return them: it waits on a channel of another tile (R211, R216). -/
  old   : Option Nat
deriving DecidableEq, Repr, Inhabited

/-- A result on its way (R77-R80): `due` is the core cycle of a fixed-latency result, none for a long-latency one. -/
structure Pend where
  wr  : RegWrite
  due : Option Nat
  /-- PC of the producer (R82). -/
  pc  : Word
  /-- A fault that the home or the data reports (R82). -/
  flt : Option Flt
  /-- The result brings the status of an atomic (R212). -/
  atom : Bool := false
  /-- A later-issued write to the register has taken effect: this one will be discarded when it arrives (R80). -/
  dead : Bool := false
  /-- The bank accesses that bring the value have not all performed: their group, and the bit of the group's value at which
  the register begins. -/
  grp  : Nat := 0
  lo   : Nat := 0
  /-- The change of a bank's setting that BANKCFG waits for (R182, R194). -/
  cfg  : Option BankSet := none
deriving DecidableEq, Repr, Inhabited

/-- A status that a home owes for an atomic without a register result (R221). -/
structure StatusDue where
  pc  : Word
  flt : Option Flt
deriving DecidableEq, Repr, Inhabited

/-- A late fault that waits for its switch point (R82). -/
structure Late where
  flt : Flt
  pc  : Word
  /-- It came as the status of an atomic, which a release is held for (R212). -/
  home : Bool := false
deriving DecidableEq, Repr, Inhabited

/-- What a context that does not issue waits for (R26, R27). -/
inductive Wait where
  | none
  /-- The results outstanding at an SW instruction (R79). -/
  | switch
  /-- An instruction line on its way to L1I (R83): physical line number. -/
  | line (pl : Nat)
  /-- HALT in step 1 (R73). -/
  | halt
  /-- The end that TRET `.end` gave: HALT in step 1 (R73, R435). -/
  | ending
  /-- HWAIT: the helpers of a mask (R93). -/
  | hwait (m : Word)
  /-- A ring claim or take queued at a ring (R195). -/
  | ring (tid bank : Nat)
  /-- A barrier release (R253): the record, and the readout mode of `.cell`. -/
  | barrier (idx : Nat)
  /-- TSEND until its message is accepted (R275); `resend` is the fabric cycle of the next attempt after a refusal. -/
  | send (resend : Option Nat)
  /-- MWAIT armed on a line at its home (R230). -/
  | mwait
  /-- TOPKRD, held at issue until the context's earlier top-k jobs have completed (R309). -/
  | topk (id : Nat)
  /-- JWAIT: a job (R305), `key` = tile + slot * 2^13 + generation * 2^19. -/
  | job (key : Nat)
  /-- A copy's watermark (R349): tile, copy id, level. -/
  | mark (tid id : Nat) (level : Word)
  /-- The end of a copy (R349): tile, copy id. -/
  | copy (tid id : Nat)
  /-- The end of a FILLING window's copy (R348). -/
  | window (tid w : Nat)
  /-- A window or guarded range that covers the bytes of an access (R211, R339); `acq`: one of a channel of the context's
  tile, after which it acquires. -/
  | bytes (tid lo n : Nat) (acq : Bool)
  /-- Earlier bank accesses of the context, of which n have not performed (R201, R203, R211). -/
  | accs (n : Nat)
  /-- FENCE: bank accesses of the kinds in PRED, and with `.lb` those through path 2 to the own tile (R215). -/
  | fence (predR predW lb : Bool)
  /-- BINRUN replay (R328), a slot claim (R372), or another engine's answer. -/
  | answer
  /-- The answer of another tile to an MJOBR, which holds the context at issue (R27, R302). -/
  | held
  /-- PREEMPT until its unit is captured (R445); `id` is the waiting context itself. -/
  | capture (id : Nat)
  /-- Statuses of earlier atomics (R212). -/
  | status
  /-- A broker's service in a later fabric cycle (R393). -/
  | broker
deriving DecidableEq, Repr, Inhabited

/-- The answer that an awaited event left for the held instruction. -/
inductive Answer where
  | none
  | val (w : Word)
  | flt (f : Flt)
deriving DecidableEq, Repr, Inhabited

/-- What a FAULTED context carries (R427, R435). -/
structure FaultRec where
  flt  : Flt
  late : Bool
  sec  : Bool
  /-- PC of the producer of a late fault (R82). -/
  prod : Word
deriving DecidableEq, Repr, Inhabited

/-- Pending reuse bind of a context (R375, 0x0338 of R441). -/
structure ArcBind where
  ent  : Nat
  desc : List Word
  tft  : EntryBits
  tsc  : EntryBits
deriving DecidableEq, Repr, Inhabited

/-- What an instruction that has not completed read at its issue (R26, R27, R51, R78): the registers as they were, and the
choices among Old and New that it made. -/
structure Reads where
  x    : Vector Word 64
  p    : Vector Bool 8
  v    : Vector VWord 32
  k    : Vector KWord 8
  h    : Vector HWord 8
  ft   : Vector EntryBits 24
  nfm  : Bool
  rm   : BitVec 3
  pend : List Pend
  pick : Nat
deriving DecidableEq, Repr, Inhabited

/-- An instruction that issued and waits for its event (R26, R27): its word, that of its pair's second, and its place. -/
structure Held where
  word : Nat
  next : Option Nat
  fst  : Bool
  sec  : Bool
  /-- Its issue, a pair counting as one, is exempt from breakpoints (R450). -/
  free : Bool
deriving DecidableEq, Repr, Inhabited

/-- A hardware context (R26, R28, R72, R426, R441). -/
structure Ctx where
  st     : CtxSt := .free
  pc     : Word := 0
  x      : Vector Word 64 := .replicate 64 0
  p      : Vector Bool 8 := .replicate 8 false
  v      : Vector VWord 32 := .replicate 32 0
  k      : Vector KWord 8 := .replicate 8 0
  h      : Vector HWord 8 := .replicate 8 0
  /-- ft8-ft31 (R149). -/
  ft     : Vector EntryBits 24 := .replicate 24 0
  l0     : LoopSet := {}
  l1     : LoopSet := {}
  rm     : BitVec 3 := 0
  nfm    : Bool := false
  colour : BitVec 4 := 0
  cls    : BitVec 2 := 0
  srkey  : Word := 0
  srctr  : BitVec 128 := 0
  /-- CHILD, bits 1-10 (R71). -/
  child  : BitVec 11 := 0
  asid   : BitVec 10 := 0
  /-- Context number of the parent (R71). -/
  parent : Option Nat := none
  /-- Region of the task (R38). -/
  region : Option (BitVec 8) := none
  /-- Gang member: gang number and rank (R268). -/
  gang   : Option (Nat × Nat) := none
  retain : Option Word := none
  bind   : Option ArcBind := none
  /-- Breakpoint PC, and the exemptions of R450. -/
  brk    : Option Word := none
  exempt : Bool := false
  step   : Bool := false
  wait   : Wait := .none
  answer : Answer := .none
  pend   : List Pend := []
  status : List StatusDue := []
  late   : Option Late := none
  frec   : Option FaultRec := none
  /-- First core cycle at which the context may issue (R76). -/
  gap    : Nat := 0
  /-- Quota suspension in place (R447). -/
  susp   : Bool := false
  /-- A PREEMPT wants this context captured, and its capture cycle has come (R440). -/
  capt   : Bool := false
  taken  : Bool := false
  /-- The first slot of a pair has been passed and its second is next (R51, R86). -/
  alone  : Bool := false
  /-- What an instruction that waits read at its issue, or the second of a pair when its first has written (R26, R51). -/
  before : Option Reads := none
  /-- The instruction that issued and waits (R27). -/
  held   : Option Held := none
  /-- The physical line was fetched once more for this context after a parity mismatch (R47). -/
  refet  : Option Nat := none
  /-- CTXWR set the PC of the stopped context, which TRET checks under R46 (R433). -/
  pcset  : Bool := false
  /-- It was restored from an image that is not complete, and issues nothing until it is (R81). -/
  inc    : Bool := false
  /-- Image words that CTXWR wrote while the bit that makes them valid is 0 (R434, R441). -/
  idle   : List (Nat × Word) := []
  /-- First fabric cycle at which the context may issue: the time claims and releases take (R248). -/
  hold   : Nat := 0
  /-- Bank accesses that have issued and not performed, oldest first (R185, R211). -/
  accs   : List BankAcc := []
  /-- The model's own: plain accesses of the private and of the mesh name perform later than they issue (log 68). -/
  lagP   : Bool := false
  lagM   : Bool := false
  /-- Lines of which a load returned a byte that was not yet written back, each with the count of the load (R206; log 6). -/
  seen   : List (Nat × Nat) := []
  /-- The latest load that a conditional branch or a guard depended on (R204; log 6). -/
  cdep   : Nat := 0
  /-- The model's own: for a register by number, the count `State.seq` of the latest load that it depends on (R204; log 6). -/
  deps   : List (Nat × Nat) := []
deriving DecidableEq, Repr, Inhabited

/-- Kinds of a message that starts a context (R437, R447). -/
inductive MsgKind where
  | task
  /-- A restart record of the pager: the tile and the pager slot. -/
  | pager (tid slot : Nat)
  /-- A restart record of quota suspension: the tile, the slot and the context number. -/
  | quota (tid slot ctx : Nat)
  /-- A fault message (R428). -/
  | fault
deriving DecidableEq, Repr, Inhabited

/-- A 64-byte task message with its envelope (R256, R258). -/
structure Msg where
  w      : Vector Word 8 := .replicate 8 0
  asid   : BitVec 10 := 0
  nfm    : Bool := false
  /-- Tile at which the sender is counted (R273). -/
  sender : Nat := 0
  colour : BitVec 4 := 0
  kind   : MsgKind := .task
deriving DecidableEq, Repr, Inhabited

/-- Where a message came from (R262). -/
inductive Origin where
  /-- TSEND of a context. -/
  | tsend (id : Nat)
  /-- TSENDN or TSELF: dropped when refused. -/
  | once (id : Nat)
  /-- A home, an engine, the gleaner, an admission unit, by a key: kept and resent. -/
  | unit (key : Nat)
  /-- A launch window buffer (R455): chiplet and window. -/
  | window (ci w : Nat)
deriving DecidableEq, Repr, Inhabited

/-- A message on its way, or waiting at its origin until `resend` (R262). -/
structure Flight where
  msg    : Msg
  org    : Origin
  resend : Option Nat
  /-- Tiles that already forwarded it are not needed: a forwarding entry names the tile (R444). -/
  tid    : Nat
  /-- Was it refused, so that its origin keeps it in its deferred list until it is accepted (R262)? -/
  kept   : Bool := false
deriving DecidableEq, Repr, Inhabited

/-- One line of a data cache with per-byte valid and dirty bits (R178, R179). -/
structure CLine where
  data  : BitVec 512 := 0
  valid : BitVec 64 := 0
  dirty : BitVec 64 := 0
  /-- The CACHE bank that holds the line, for a tile L2 (R179). -/
  bank  : Nat := 0
  /-- The model's own: the count `State.seq` when the oldest clean byte came from its home (R204; log 6). -/
  since : Nat := 0
deriving DecidableEq, Repr, Inhabited

/-- A TLB entry (R415): a leaf of R411 for the page of `size` bytes at `va`, and where the leaf lies. -/
structure TlbE where
  asid : BitVec 10
  va   : Nat
  size : Nat
  leaf : Word
  /-- Physical address of the leaf entry (R416). -/
  pte  : Nat
deriving DecidableEq, Repr, Inhabited

/-- States of a ring slot (R187). -/
inductive SlotSt where
  | free | claimed | filled | taken
deriving DecidableEq, Repr, Inhabited

/-- A ring slot with the publish record of R188. -/
structure RSlot where
  st   : SlotSt := .free
  /-- Marked ready by a publish, or done by a release (R187). -/
  mark : Bool := false
  nfm  : Bool := false
  tid  : Nat := 0
  data : Bool := false
deriving DecidableEq, Repr, Inhabited

/-- A claim or take that waits at a ring (R187). -/
inductive RingReq where
  /-- RPUSH acq of a context, with the base address of the request. -/
  | claim (id : Nat) (base : Word)
  /-- MSEND of a context. -/
  | msend (id : Nat)
  /-- RPOP acq of a context. -/
  | take (id : Nat) (base : Word)
  /-- Input of a job of the tile (R284): slot of the job table, and number of the specifier. -/
  | jclaim (slot dep : Nat)
  | jtake (slot dep : Nat)
  /-- A subscription (R342): quarry and entry. -/
  | sclaim (q entry : Nat)
  | stake (q entry : Nat)
deriving DecidableEq, Repr, Inhabited

/-- The ring of a bank (R186, R187). -/
structure Ring where
  count  : Nat := 0
  slotsz : Nat := 0
  slots  : List (Nat × RSlot) := []
  freeN  : Nat := 0
  filled : Nat := 0
  claimI : Nat := 0
  pubI   : Nat := 0
  takeI  : Nat := 0
  relI   : Nat := 0
  claims : List RingReq := []
  takes  : List RingReq := []
deriving DecidableEq, Repr, Inhabited

/-- An SRAM bank (R175-R177, R183). -/
structure Bank where
  mode  : BankMode := .cache
  pool  : Bool := false
  asid  : BitVec 10 := 0
  /-- A retired task's loss of power is deferred (R183). -/
  lose  : Bool := false
  /-- The bank is retained for a successor task (R74). -/
  kept  : Bool := false
  on    : Bool := true
  ring  : Ring := {}
deriving DecidableEq, Repr, Inhabited

/-- A barrier record with its waiting entry and value buffer (R247). -/
structure Bar where
  memb  : BitVec 88 := 0
  arr   : BitVec 88 := 0
  phase : Bool := false
  use   : Bool := false
  wt    : Bool := false
  chn   : Nat := 0
  cha   : Nat := 0
  ptid  : Nat := 0
  pidx  : Nat := 0
  pv    : Bool := false
  asid  : BitVec 10 := 0
  vop   : Nat := 0
  vb    : Bool := false
  /-- Root tag of the waiting entry (R247). -/
  root  : Nat × Nat := (0, 0)
  /-- The value buffer (R246). -/
  value : BitVec 512 := 0
  /-- Members that wait with a value, by MEMB bit: the readout entry and its mode, mode 8 for an integer (R253). -/
  outs  : List (Nat × EntryBits × Nat) := []
  /-- A release of the tree is on its way (R248). -/
  fire  : Bool := false
deriving DecidableEq, Repr, Inhabited

/-- A home (R217): the L1D of a core, the L2 of a tile, a quarry, the NI of a tile. -/
inductive Home where
  | l1 (core : Nat)
  | l2 (tid : Nat)
  | quarry
  | ni (tid : Nat)
deriving DecidableEq, Repr, Inhabited

/-- A partial of an update-only line (R225): the cache that holds it, and the OPC and size of its REDs, none for cells. -/
structure Partial where
  holder : Home
  kind   : Option (AmoOp × Nat)
deriving DecidableEq, Repr, Inhabited

/-- An armed monitor (R230). -/
structure Mon where
  id   : Nat
  home : Home
  line : Nat
  hit  : Bool
  /-- The line's partials that are not combined since the arm, which recalled every earlier one (R225; log 10). -/
  part : List Partial := []
deriving DecidableEq, Repr, Inhabited

end Sys2Proof.Machine
end

