-- ==== Sys2Proof/Machine/Map.lean ====
section
/-! DEFINITION. Lists of (key, value) with strictly rising keys, memory as such a list of bytes, and the bit-field and
byte-order helpers that every unit uses (R3, R4). -/

namespace Sys2Proof.Machine

/-- The value at a key. -/
def find {α : Type} (k : Nat) : List (Nat × α) → Option α
  | [] => none
  | (i, a) :: r => if i = k then some a else find k r

/-- The value at a key, or d. -/
def getD {α : Type} (d : α) (m : List (Nat × α)) (k : Nat) : α := (find k m).getD d

/-- Writes a key, in its place in the rising order. -/
def put {α : Type} (k : Nat) (a : α) : List (Nat × α) → List (Nat × α)
  | [] => [(k, a)]
  | (i, b) :: r => if k < i then (k, a) :: (i, b) :: r else if k = i then (k, a) :: r else (i, b) :: put k a r

/-- Removes a key. -/
def del {α : Type} (k : Nat) (m : List (Nat × α)) : List (Nat × α) := m.filter (fun e => e.1 != k)

/-- Element n of a list is replaced. -/
def setNth {α : Type} : List α → Nat → α → List α
  | [], _, _ => []
  | _ :: r, 0, b => b :: r
  | a :: r, n + 1, b => a :: setNth r n b

/-- Element n of a list is removed. -/
def dropNth {α : Type} : List α → Nat → List α
  | [], _ => []
  | _ :: r, 0 => r
  | a :: r, n + 1 => a :: dropNth r n

/-! ### Memory (R4; log 5) -/

/-- What a byte that nothing has written reads as (log 5). -/
abbrev blankByte : Byte := 0

/-- A byte of a memory. -/
def cellAt (m : List Host.Cell) (a : Nat) : Byte := getD blankByte m a

/-- A byte is written; a byte that holds what an unlisted one reads as is not listed. -/
def cellPut (m : List Host.Cell) (a : Nat) (b : Byte) : List Host.Cell :=
  if b = blankByte then del a m else put a b m

/-- Addresses strictly rise. -/
def risingFrom : Nat → List Host.Cell → Bool
  | _, [] => true
  | lo, (a, b) :: r => decide (lo ≤ a) && b != blankByte && risingFrom (a + 1) r

/-- The canonical form of a memory: rising addresses, no entry equal to what an unlisted byte reads as. -/
def Memory.wf (m : List Host.Cell) : Bool := risingFrom 0 m

/-- The n bytes from a, little-endian (R4), as a number. -/
def loadLE (m : List Host.Cell) (a : Nat) : Nat → Nat
  | 0 => 0
  | n + 1 => (cellAt m a).toNat + 256 * loadLE m (a + 1) n

/-- Writes the low n bytes of w from a on, little-endian (R4). -/
def storeLE (m : List Host.Cell) (a : Nat) : Nat → Nat → List Host.Cell
  | 0, _ => m
  | n + 1, w => storeLE (cellPut m a (BitVec.ofNat 8 w)) (a + 1) n (w / 256)

/-- Writes those of the n bytes of w from a on whose mask bit is set. -/
def storeMasked (m : List Host.Cell) (a : Nat) : Nat → Nat → Nat → List Host.Cell
  | 0, _, _ => m
  | n + 1, w, k =>
    storeMasked (if k % 2 = 1 then cellPut m a (BitVec.ofNat 8 w) else m) (a + 1) n (w / 256) (k / 2)

/-! ### Bit fields (R3, R7) -/

/-- Bits [lo+n-1:lo] of a word. -/
def Bits (w : Word) (lo n : Nat) : Nat := w.toNat / 2 ^ lo % 2 ^ n

/-- Bit i of a word. -/
def Bit (w : Word) (i : Nat) : Bool := w.getLsbD i

/-- The 64-bit word with the value n. -/
abbrev W (n : Nat) : Word := BitVec.ofNat 64 n

/-- The word with an integer's value modulo 2^64 (R7 wrap). -/
def Wi (n : Int) : Word := BitVec.ofInt 64 n

/-- 1 or 0. -/
def b2n (b : Bool) : Nat := if b then 1 else 0

/-- The low n bits of v as a signed number (R7 sext). -/
def sextN (v n : Nat) : Int :=
  let u := v % 2 ^ n
  if n = 0 then 0 else if u < 2 ^ (n - 1) then (u : Int) else (u : Int) - 2 ^ n

/-- Word i of a list of words, 0 past its end. -/
def wordAt (l : List Word) (i : Nat) : Word := l.getD i 0

/-- The eight words of a 64-byte record. -/
def words8 (n : Nat) : Vector Word 8 := Vector.ofFn fun i => W (n / 2 ^ (64 * i.val))

/-- The number of a 64-byte record. -/
def unwords (v : Vector Word 8) : Nat := v.toList.foldr (fun w acc => w.toNat + 2 ^ 64 * acc) 0

end Sys2Proof.Machine
end

