-- ==== Sys2Proof/Machine/Numfmt.lean ====
section
/-! DEFINITION. Format table entries: their fields, legality, reading of codes, exact values and rounding
(R149-R161, R129, R137, R148).

An exact value is a sign, a magnitude m x 2^e, and a mark that says that the true magnitude lies strictly between
m x 2^e and (m + 1) x 2^e: quotients, roots and exponentials carry it, with far more bits than any entry keeps. -/

namespace Sys2Proof.Machine

/-! ### Entries (R150, R159) -/

/-- A field of an entry. -/
def eF (e : EntryBits) (lo n : Nat) : Nat := e.toNat / 2 ^ lo % 2 ^ n

/-- An entry from its fields (R150). -/
def mkEntry (kind sign width ew fw : Nat) (bias : Int) (spec ovf sub : Nat) : EntryBits :=
  BitVec.ofNat 128 (kind + sign * 2 ^ 2 + width * 2 ^ 3 + ew * 2 ^ 9 + fw * 2 ^ 13 +
    (bias % 65536).toNat * 2 ^ 20 + spec * 2 ^ 36 + ovf * 2 ^ 38 + sub * 2 ^ 40)

/-- The fixed entries ft0-ft7 (R159). -/
def fixedEntry : Nat → EntryBits
  | 0 => mkEntry 0 1 32 8 23 127 0 1 1
  | 1 => mkEntry 0 1 16 8 7 127 0 1 1
  | 2 => mkEntry 0 1 16 5 10 15 0 1 1
  | 3 => mkEntry 0 1 0 11 52 1023 0 1 1
  | 4 => mkEntry 0 1 8 4 3 8 1 1 1
  | 5 => mkEntry 0 1 8 5 2 16 1 1 1
  | 6 => mkEntry 1 1 8 0 7 0 0 0 0
  | _ => mkEntry 1 0 8 0 8 0 0 0 0

/-- An entry as it is read: SPEC 3 resolved by NFM (R154), WIDTH code 0 as 64 (R150). -/
structure Fmt where
  /-- 0 float, 1 int, 2 fixed. -/
  kind  : Nat
  sgn   : Bool
  width : Nat
  ew    : Nat
  fw    : Nat
  bias  : Int
  spec  : Nat
  ovf   : Nat
  sub   : Bool
  blk   : Nat
  scent : Nat
  drm   : Nat
deriving DecidableEq, Repr

/-- Block size of a SCALE code (R150). -/
def blockOf : Nat → Nat
  | 0 => 0 | 1 => 16 | 2 => 32 | _ => 64

/-- Storage bits of an entry (R150). -/
def widthOf (e : EntryBits) : Nat := if eF e 3 6 = 0 then 64 else eF e 3 6

/-- The entry read under an NFM (R154). -/
def fmtOf (nfm : Bool) (e : EntryBits) : Fmt :=
  let spec := eF e 36 2
  let ovf := eF e 38 2
  { kind := eF e 0 2, sgn := eF e 2 1 == 1, width := widthOf e, ew := eF e 9 4, fw := eF e 13 6,
    bias := sextN (eF e 20 16) 16,
    spec := if spec = 3 then (if nfm then 2 else 1) else spec,
    ovf := if spec = 3 && nfm && ovf = 1 then 0 else ovf,
    sub := eF e 40 1 == 1, blk := blockOf (eF e 41 2), scent := eF e 43 5, drm := eF e 48 3 }

/-- An entry with SPEC 3 resolved, as a snapshot keeps it (R164). -/
def resolveEntry (nfm : Bool) (e : EntryBits) : EntryBits :=
  if eF e 36 2 = 3 then
    let f := fmtOf nfm e
    BitVec.ofNat 128 (e.toNat - eF e 36 2 * 2 ^ 36 - eF e 38 2 * 2 ^ 38 + f.spec * 2 ^ 36 + f.ovf * 2 ^ 38)
  else e

/-- Container bits of a storage width (R151). -/
def containerBits (w : Nat) : Nat := if w ≤ 8 then 8 else if w ≤ 16 then 16 else if w ≤ 32 then 32 else 64

/-- Container bits and bytes of an entry. -/
def Fmt.cbits (f : Fmt) : Nat := containerBits f.width
def Fmt.cbytes (f : Fmt) : Nat := f.cbits / 8

/-- Checks 1-8 of R152, which need the entry alone. -/
def entryCheckOwn (e : EntryBits) : Option Nat :=
  let kind := eF e 0 2
  let sign := eF e 2 1
  let w := eF e 3 6
  let ew := eF e 9 4
  let fw := eF e 13 6
  let spec := eF e 36 2
  let ovf := eF e 38 2
  let sc := eF e 41 2
  if kind = 3 || ovf = 3 || eF e 48 3 = 6 || eF e 19 1 ≠ 0 || eF e 51 13 ≠ 0 || eF e 96 32 ≠ 0 then some 1
  else if w = 0 || 16 < w || (kind = 0 && w < 3) then some 2
  else if sign + ew + fw ≠ w then some 3
  else if kind = 0 && (ew = 0 || 8 < ew) then some 4
  else if kind ≠ 0 && (ew ≠ 0 || spec ≠ 0 || ovf ≠ 0 || eF e 40 1 ≠ 0 || (kind = 1 && eF e 20 16 ≠ 0)) then some 5
  else if kind = 0 && spec = 0 && (sign = 0 || ew < 2 || fw = 0) then some 6
  else if ovf = 1 && spec = 2 then some 7
  else if sc ≠ 0 && (kind = 2 || blockOf sc * w % 128 ≠ 0) then some 8
  else none

/-- R152 for entry k of a table: the failing check, and whether it is the scale entry's. -/
def entryCheck (tab : Nat → EntryBits) (k : Nat) : Option (Nat × Bool) :=
  if k < 8 then none
  else
    let e := tab k
    match entryCheckOwn e with
    | some c => some (c, false)
    | none =>
      if eF e 41 2 = 0 then none
      else
        let j := eF e 43 5
        let t := tab j
        if j = k || eF t 0 2 ≠ 0 || widthOf t ≠ 8 || eF t 41 2 ≠ 0 then some (9, false)
        else if j < 8 then none
        else match entryCheckOwn t with
          | some c => some (c, true)
          | none => none

/-! ### Exact values -/

/-- A finite value: sign, magnitude m x 2^e, and `st` when the true magnitude exceeds it by less than 2^e. -/
structure Dy where
  neg : Bool
  m   : Nat
  e   : Int
  st  : Bool := false
deriving DecidableEq, Repr

/-- A decoded value (R153). -/
inductive Num where
  | nan
  | inf (neg : Bool)
  | fin (v : Dy)
deriving DecidableEq, Repr

/-- The value of an integer. -/
def Dy.ofInt (i : Int) : Dy := { neg := decide (i < 0), m := i.natAbs, e := 0 }

/-- The signed integer of v at a common exponent no higher than v's. -/
def Dy.atExp (v : Dy) (e : Int) : Int :=
  let n : Int := (v.m * 2 ^ (v.e - e).toNat : Nat)
  if v.neg then -n else n

/-- v with its sign turned. -/
def Dy.flip (v : Dy) : Dy := { v with neg := !v.neg }

/-- Exact product; its sign is the exclusive OR of the signs (R137). -/
def Dy.mul (a b : Dy) : Dy := { neg := a.neg != b.neg, m := a.m * b.m, e := a.e + b.e }

/-- Exact sum with the sign of a zero sum of R137. -/
def Dy.add (a b : Dy) (rdn : Bool) : Dy :=
  let e := if a.e ≤ b.e then a.e else b.e
  let n := a.atExp e + b.atExp e
  if n = 0 then
    { neg := if a.m = 0 && b.m = 0 && a.neg == b.neg then a.neg else rdn, m := 0, e := 0 }
  else { neg := decide (n < 0), m := n.natAbs, e := e }

/-- Order of two exact values, the zeros equal. -/
def Dy.cmp (a b : Dy) : Ordering :=
  let e := if a.e ≤ b.e then a.e else b.e
  compare (a.atExp e) (b.atExp e)

/-- Floor of log2 of the magnitude, for m ≠ 0. -/
def Dy.log2 (v : Dy) : Int := (Nat.log2 v.m : Nat) + v.e

/-! ### Reading codes (R153, R155, R157) -/

/-- Value of code c of an entry: the low WIDTH bits count (R151). -/
def Fmt.decode (f : Fmt) (code : Nat) : Num :=
  let c := code % 2 ^ f.width
  if f.kind ≠ 0 then
    let i : Int := if f.sgn then sextN c f.width else (c : Int)
    .fin { Dy.ofInt i with e := if f.kind = 2 then -f.bias else 0 }
  else
    let half := 2 ^ (f.width - 1)
    let neg := f.sgn && half ≤ c
    let body := if f.sgn then c % half else c
    let ex := body / 2 ^ f.fw
    let fr := body % 2 ^ f.fw
    let special : Option Num :=
      if f.spec = 0 then
        (if ex = 2 ^ f.ew - 1 then (if fr = 0 then some (.inf neg) else some .nan) else none)
      else if f.sgn then
        (if c = half then some .nan
         else if f.spec = 1 && c = half - 1 then some (.inf false)
         else if f.spec = 1 && c = 2 * half - 1 then some (.inf true) else none)
      else
        (if c = 2 * half - 1 then some .nan
         else if f.spec = 1 && c = 2 * half - 2 then some (.inf false) else none)
    match special with
    | some n => n
    | none =>
      if ex = 0 then
        (if fr = 0 || !f.sub then .fin { neg := neg && f.spec == 0, m := 0, e := 0 }
         else .fin { neg := neg, m := fr, e := 1 - f.bias - f.fw })
      else .fin { neg := neg, m := 2 ^ f.fw + fr, e := ex - f.bias - f.fw }

/-! ### Rounding (R156, R157, R148) -/

/-- Does the magnitude q + rest round away from zero?  rest = (r + st) / 2^k; u is the draw of R148.  A tie goes by the parity
of the whole significand, also where FW is 0 (log 66). -/
def roundsUp (rm : Nat) (neg : Bool) (q r k : Nat) (st : Bool) (u : Nat) : Bool :=
  let inexact := r ≠ 0 || st
  let half := if k = 0 then 1 else 2 ^ (k - 1)
  match rm with
  | 0 => half < r || (r = half && k ≠ 0 && (st || q % 2 = 1))
  | 1 => false
  | 2 => neg && inexact
  | 3 => !neg && inexact
  | 4 => k ≠ 0 && half ≤ r
  | _ =>
    if !inexact then false
    else if neg then
      -- R148: hi is the value nearer to zero, with f = 1 - rest
      let t := if st then ((2 ^ k - r) * 2 ^ 32 - 1) / 2 ^ k else (2 ^ k - r) * 2 ^ 32 / 2 ^ k
      !decide (u < t)
    else decide (u < r * 2 ^ 32 / 2 ^ k)

/-- The magnitude of v on the grid of spacing 2^g, rounded. -/
def gridMag (rm : Nat) (v : Dy) (g : Int) (u : Nat) : Nat :=
  if g ≤ v.e then
    let q := v.m * 2 ^ (v.e - g).toNat
    if roundsUp rm v.neg q 0 0 v.st u then q + 1 else q
  else
    let k := (g - v.e).toNat
    let q := v.m / 2 ^ k
    if roundsUp rm v.neg q (v.m % 2 ^ k) k v.st u then q + 1 else q

/-- Greatest finite code without its sign (R153, R160). -/
def Fmt.maxCode (f : Fmt) : Nat :=
  if f.spec = 0 then (2 ^ f.ew - 1) * 2 ^ f.fw - 1
  else if f.sgn then (if f.spec = 1 then 2 ^ (f.width - 1) - 2 else 2 ^ (f.width - 1) - 1)
  else (if f.spec = 1 then 2 ^ f.width - 3 else 2 ^ f.width - 2)

/-- Canonical NaN (R153); 0 for int and fixed (R157). -/
def Fmt.nanCode (f : Fmt) : Nat :=
  if f.kind ≠ 0 then 0
  else if f.spec = 0 then (2 ^ f.ew - 1) * 2 ^ f.fw + 2 ^ (f.fw - 1)
  else if f.sgn then 2 ^ (f.width - 1) else 2 ^ f.width - 1

/-- A code with its sign bit. -/
def Fmt.signed (f : Fmt) (neg : Bool) (body : Nat) : Nat := if neg then 2 ^ (f.width - 1) + body else body

/-- Zero of a sign (R156 step 5). -/
def Fmt.zeroCode (f : Fmt) (neg : Bool) : Nat := if neg && f.spec == 0 && f.sgn then 2 ^ (f.width - 1) else 0

/-- What a result beyond the finite range becomes (R156 step 3); `exact` for an exactly infinite one (R129). -/
def Fmt.overflow (f : Fmt) (neg : Bool) (rm : Nat) (exact : Bool) : Nat :=
  if neg && !f.sgn then (if f.ovf = 2 then f.nanCode else 0)
  else
    let infBody := f.maxCode + 1
    if f.spec ≠ 2 && exact then f.signed neg infBody
    else match f.ovf with
      | 0 => f.signed neg f.maxCode
      | 2 => f.nanCode
      | _ =>
        if f.spec = 2 then f.signed neg f.maxCode
        else if !exact && (rm = 1 || (rm = 2 && !neg) || (rm = 3 && neg)) then f.signed neg f.maxCode
        else f.signed neg infBody

/-- Rounding to a float entry (R156): a negative value in an unsigned entry follows OVF before SUB 0 flushes it (log 79). -/
def Fmt.roundFloat (f : Fmt) (rm u : Nat) (v : Dy) : Nat :=
  if v.m = 0 then f.zeroCode v.neg
  else
    let emin := 1 - f.bias
    let g := (if v.log2 ≤ emin then emin else v.log2) - f.fw
    let q := gridMag rm v g u
    if q = 0 then f.zeroCode v.neg
    else if v.neg && !f.sgn then (if f.ovf = 2 then f.nanCode else 0)
    else if q < 2 ^ f.fw then
      -- below the minimum normal magnitude (R155)
      (if f.sub then f.signed v.neg q else f.zeroCode v.neg)
    else
      let body := ((g + f.fw + f.bias).toNat) * 2 ^ f.fw + (q - 2 ^ f.fw)
      if f.maxCode < body then f.overflow v.neg rm false else f.signed v.neg body

/-- Range of an int or fixed entry (R157). -/
def Fmt.lo (f : Fmt) : Int := if f.sgn then -(2 ^ (f.width - 1) : Nat) else 0
def Fmt.hi (f : Fmt) : Int := if f.sgn then (2 ^ (f.width - 1) : Nat) - 1 else (2 ^ f.width : Nat) - 1

/-- An integer limited to a range. -/
def clampI (lo hi r : Int) : Int := if r < lo then lo else if hi < r then hi else r

/-- Rounding to an int or fixed entry (R157). -/
def Fmt.roundInt (f : Fmt) (rm u : Nat) (v : Dy) : Nat :=
  let q : Int := gridMag rm v (if f.kind = 2 then -f.bias else 0) u
  ((clampI f.lo f.hi (if v.neg then -q else q)) % (2 ^ f.width : Nat)).toNat

/-- `round(value, entry, rm)` (R7, R129, R156, R157), with the draw u of R148. -/
def Fmt.round (f : Fmt) (rm u : Nat) : Num → Nat
  | .nan => f.nanCode
  | .inf neg =>
    if f.kind ≠ 0 then ((if neg then f.lo else f.hi) % (2 ^ f.width : Nat)).toNat else f.overflow neg rm true
  | .fin v => if f.kind = 0 then f.roundFloat rm u v else f.roundInt rm u v

/-- Rounding to an integer of a range (CVT `.xo`, R171). -/
def roundToInt (rm u : Nat) (lo hi : Int) : Num → Int
  | .nan => 0
  | .inf neg => if neg then lo else hi
  | .fin v =>
    let q : Int := gridMag rm v 0 u
    clampI lo hi (if v.neg then -q else q)

/-! ### Value operations (R129, R137, R138, R158) -/

def Num.flip : Num → Num
  | .nan => .nan
  | .inf n => .inf !n
  | .fin v => .fin v.flip

/-- a + b (R137). -/
def Num.add (rdn : Bool) : Num → Num → Num
  | .nan, _ => .nan
  | _, .nan => .nan
  | .inf a, .inf b => if a == b then .inf a else .nan
  | .inf a, .fin _ => .inf a
  | .fin _, .inf b => .inf b
  | .fin a, .fin b => .fin (a.add b rdn)

/-- a x b (R137). -/
def Num.mul : Num → Num → Num
  | .nan, _ => .nan
  | _, .nan => .nan
  | .inf a, .inf b => .inf (a != b)
  | .inf a, .fin b => if b.m = 0 then .nan else .inf (a != b.neg)
  | .fin a, .inf b => if a.m = 0 then .nan else .inf (a.neg != b)
  | .fin a, .fin b => .fin (a.mul b)

/-- Is the number below the other, with -0 below +0 (R138)? -/
def Num.lessZ : Num → Num → Bool
  | .inf a, .inf b => a && !b
  | .inf a, .fin _ => a
  | .fin _, .inf b => !b
  | .fin a, .fin b =>
    match a.cmp b with
    | .lt => true
    | .gt => false
    | .eq => a.m = 0 && a.neg && !b.neg
  | _, _ => false

/-- Lesser or greater of two (R138). -/
def Num.minMax (max : Bool) (a b : Num) : Num :=
  match a, b with
  | .nan, y => y
  | x, .nan => x
  | x, y => if x.lessZ y then (if max then y else x) else (if max then x else y)

/-- Order of two numbers that are no NaN, the zeros equal (R139). -/
def Num.cmp : Num → Num → Ordering
  | .inf a, .inf b => if a == b then .eq else if a then .lt else .gt
  | .inf a, .fin _ => if a then .lt else .gt
  | .fin _, .inf b => if b then .gt else .lt
  | .fin a, .fin b => a.cmp b
  | _, _ => .eq

/-- Is it a NaN? -/
def Num.isNan : Num → Bool
  | .nan => true
  | _ => false

/-- Is it finite and zero? -/
def Num.isZero : Num → Bool
  | .fin v => v.m = 0
  | _ => false

/-- A block-scaled element (R158): the element's value times the scale's; a NaN element stays NaN under an infinite scale
(log 40). -/
def scaled (x sc : Num) : Num :=
  match sc with
  | .nan => .nan
  | .inf _ => match x with
    | .nan => .nan
    | .inf n => .inf n
    | .fin v => if v.m = 0 then .nan else .inf v.neg
  | .fin _ => x.mul sc

end Sys2Proof.Machine
end

