-- ==== Sys2Proof/Machine/Cells.lean ====
section
/-! DEFINITION. Exact accumulator cells (R226-R228) and the operation codes of atomics (R220), as numbers. -/

namespace Sys2Proof.Machine

/-- The operation codes of R220 on the low n bits of two values. -/
def amoApply (op : AmoOp) (n old v : Nat) : Nat :=
  let o := old % 2 ^ n
  let s := v % 2 ^ n
  match op with
  | .swap => s
  | .add => (o + s) % 2 ^ n
  | .and => o &&& s
  | .or => o ||| s
  | .xor => o ^^^ s
  | .min => if sextN o n ≤ sextN s n then o else s
  | .max => if sextN o n ≤ sextN s n then s else o
  | .minu => Nat.min o s
  | .maxu => Nat.max o s

/-- OPC of an operation (R220); 9 is a cell. -/
def amoCode : AmoOp → Nat
  | .swap => 0 | .add => 1 | .and => 2 | .or => 3 | .xor => 4 | .min => 5 | .max => 6 | .minu => 7 | .maxu => 8

/-- Identity of a partial (R220), at n bits. -/
def amoIdentity (opc n : Nat) : Nat :=
  match opc with
  | 2 | 7 => 2 ^ n - 1
  | 5 => 2 ^ (n - 1) - 1
  | 6 => 2 ^ (n - 1)
  | _ => 0

/-- The operation of a code. -/
def amoOf : Nat → AmoOp
  | 0 => .swap | 1 => .add | 2 => .and | 3 => .or | 4 => .xor | 5 => .min | 6 => .max | 7 => .minu | _ => .maxu

/-- SUM and flags word of a cell (R226). -/
def cellSum (c : Nat) : Int := sextN c 448
def cellFlags (c : Nat) : Nat := c / 2 ^ 448 % 2 ^ 64

/-- A cell from its sum and its flags word; the MBZ bits are written 0. -/
def mkCell (sum : Int) (flags : Nat) : Nat := (sum % (2 ^ 448 : Nat)).toNat + flags % 2 ^ 46 * 2 ^ 448

/-- Flag bits of the flags word (R226). -/
def cellNan : Nat := 2 ^ 40
def cellPinf : Nat := 2 ^ 41
def cellNinf : Nat := 2 ^ 42
def cellOvf : Nat := 2 ^ 43
def cellLow : Nat := 2 ^ 44
def cellCw : Nat := 2 ^ 45

/-- COUNT grows by n (R227). -/
def cellCount (flags n : Nat) : Nat :=
  let k := flags % 2 ^ 40 + n
  (flags / 2 ^ 40 * 2 ^ 40 + k % 2 ^ 40) ||| (if 2 ^ 40 ≤ k then cellCw else 0)

/-- |v| is at or above 2^247 (R227). -/
def bigMag (v : Dy) : Bool := v.m ≠ 0 && decide (247 ≤ v.log2)

/-- A contribution is added to a cell (R227). -/
def cellAdd (c : Nat) (v : Num) : Nat :=
  let f := cellCount (cellFlags c) 1
  match v with
  | .nan => mkCell (cellSum c) (f ||| cellNan)
  | .inf neg => mkCell (cellSum c) (f ||| (if neg then cellNinf else cellPinf))
  | .fin d =>
    if bigMag d then mkCell (cellSum c) (f ||| cellOvf)
    else
      let e := d.e + 160
      let t : Nat := if 0 ≤ e then d.m * 2 ^ e.toNat else d.m / 2 ^ (-e).toNat
      let lost := !decide (0 ≤ e) && d.m % 2 ^ (-e).toNat != 0
      mkCell (cellSum c + (if d.neg then -(t : Int) else t)) (f ||| (if lost then cellLow else 0))

/-- Two partial cells combine (R227). -/
def cellMerge (a b : Nat) : Nat :=
  let flags := cellFlags a ||| (cellFlags b / 2 ^ 40 * 2 ^ 40)
  mkCell (cellSum a + cellSum b) (cellCount flags (cellFlags b % 2 ^ 40))

/-- The readout of a cell into an entry (R228). -/
def cellRead (c : Nat) (f : Fmt) (rm u : Nat) : Nat :=
  let g := cellFlags c
  let has (b : Nat) : Bool := g / b % 2 == 1
  if has cellNan || has cellOvf || (has cellPinf && has cellNinf) then f.nanCode
  else if has cellPinf then f.round rm u (.inf false)
  else if has cellNinf then f.round rm u (.inf true)
  else
    let n := cellSum c
    f.round rm u (.fin { neg := decide (n < 0), m := n.natAbs, e := -160 })

end Sys2Proof.Machine
end

