-- ==== Sys2Proof/Machine/Real.lean ====
section
/-! DEFINITION. Quotients, square roots and exponentials as exact values with the mark of Dy (R137, R298).

A quotient or root is its floor at some hundred bits with the mark when it is not exact; 2^f for a fraction f is never
dyadic, so its floor at 320 bits, from bounds that agree on those bits, carries the mark. -/

namespace Sys2Proof.Machine

/-- Floor of the square root of n below 2^(2b), bit by bit. -/
def isqrtBits (n : Nat) : Nat → Nat → Nat
  | 0, r => r
  | b + 1, r =>
    let t := r + 2 ^ b
    isqrtBits n b (if t * t ≤ n then t else r)

/-- Floor of the square root. -/
def isqrt (n : Nat) : Nat := isqrtBits n (Nat.log2 n / 2 + 1) 0

/-- a / b for b ≠ 0. -/
def Dy.div (a b : Dy) : Dy :=
  let k := 160 + Nat.log2 b.m
  let n := a.m * 2 ^ k
  { neg := a.neg != b.neg, m := n / b.m, e := a.e - b.e - k, st := n % b.m ≠ 0 }

/-- Square root of a positive value. -/
def Dy.sqrt (v : Dy) : Dy :=
  let m := if v.e % 2 = 0 then v.m else 2 * v.m
  let e := if v.e % 2 = 0 then v.e else v.e - 1
  let n := m * 2 ^ 320
  let r := isqrt n
  { neg := false, m := r, e := e / 2 - 160, st := r * r ≠ n }

/-- 1 / square root of a positive value. -/
def Dy.rsqrt (v : Dy) : Dy :=
  let m := if v.e % 2 = 0 then v.m else 2 * v.m
  let e := if v.e % 2 = 0 then v.e else v.e - 1
  let k := 160 + Nat.log2 m
  let r := isqrt (2 ^ (2 * k) / m)
  { neg := false, m := r, e := -(e / 2) - k, st := r * r * m ≠ 2 ^ (2 * k) }

/-- a / b (R137, R129). -/
def Num.div : Num → Num → Num
  | .nan, _ => .nan
  | _, .nan => .nan
  | .inf _, .inf _ => .nan
  | .inf a, .fin b => .inf (a != b.neg)
  | .fin a, .inf b => .fin { neg := a.neg != b, m := 0, e := 0 }
  | .fin a, .fin b =>
    if b.m = 0 then (if a.m = 0 then .nan else .inf (a.neg != b.neg))
    else if a.m = 0 then .fin { neg := a.neg != b.neg, m := 0, e := 0 }
    else .fin (a.div b)

/-- Square root (R137). -/
def Num.sqrt : Num → Num
  | .nan => .nan
  | .inf n => if n then .nan else .inf false
  | .fin v => if v.m = 0 then .fin v else if v.neg then .nan else .fin v.sqrt

/-- Reciprocal (R137). -/
def Num.rcp (a : Num) : Num := Num.div (.fin { neg := false, m := 1, e := 0 }) a

/-- Reciprocal square root (R137). -/
def Num.rsqrt : Num → Num
  | .nan => .nan
  | .inf n => if n then .nan else .fin { neg := false, m := 0, e := 0 }
  | .fin v => if v.m = 0 then .inf v.neg else if v.neg then .nan else .fin v.rsqrt

/-- Product of the 2^(2^-i) over the set bits of f, i from 1 on, in units of 2^-w, each factor and product cut down.
`bits` counts down from w; `root` is 2^(2^-(i-1)) in those units. -/
def exp2Prod (w f : Nat) : Nat → Nat → Nat → Nat
  | 0, _, acc => acc
  | b + 1, root, acc =>
    let r := isqrt (root * 2 ^ w)
    exp2Prod w f b r (if f / 2 ^ b % 2 = 1 then acc * r / 2 ^ w else acc)

/-- A lower bound of 2^(f / 2^w) in units of 2^-w, for f < 2^w; the true value is less than 8 w units above it. -/
def exp2Low (w f : Nat) : Nat := exp2Prod w f w (2 * 2 ^ w) (2 ^ w)

/-- Floor of 2^x at w bits for lo ≤ x * 2^w ≤ hi, when the bounds decide its top w - 40 bits. -/
def exp2Try (w : Nat) (lo hi : Int) : Option Dy :=
  let n := lo / (2 ^ w : Nat)
  let a := exp2Low w (lo % (2 ^ w : Nat)).toNat
  let b := exp2Low w (hi % (2 ^ w : Nat)).toNat + 8 * w
  if hi / (2 ^ w : Nat) = n && a / 2 ^ 40 = b / 2 ^ 40 then
    some { neg := false, m := a / 2 ^ 40, e := n - w + 40, st := true }
  else none

/-- x * 2^w cut down to an integer. -/
def Dy.floorAt (v : Dy) (w : Nat) : Int :=
  let e := v.e + w
  if 0 ≤ e then v.atExp v.e * (2 ^ e.toNat : Nat) else v.atExp v.e / (2 ^ (-e).toNat : Nat)

/-- Is the value an integer? -/
def Dy.isInt (v : Dy) : Bool := 0 ≤ v.e || v.m % 2 ^ (-v.e).toNat = 0

/-- The value of 2^x when x is an integer beyond every entry's range. -/
def hugeExp : Int := 65536

/-- 2^v for a finite v (R137). -/
def Dy.exp2 (v : Dy) : Dy :=
  if v.m = 0 then { neg := false, m := 1, e := 0 }
  else if 16 < v.log2 then { neg := false, m := 1, e := if v.neg then -hugeExp else hugeExp, st := true }
  else if v.isInt then { neg := false, m := 1, e := v.floorAt 0 }
  else if v.log2 < -300 then
    -- 2^v lies next to 1, above or below it
    (if v.neg then { neg := false, m := 2 ^ 300 - 1, e := -300, st := true } else { neg := false, m := 2 ^ 300, e := -300, st := true })
  else
    match exp2Try 384 (v.floorAt 384) (v.floorAt 384 + 1) with
    | some d => d
    | none => match exp2Try 768 (v.floorAt 768) (v.floorAt 768 + 1) with
      | some d => d
      | none => { neg := false, m := exp2Low 768 (v.floorAt 768 % (2 ^ 768 : Nat)).toNat, e := v.floorAt 0 - 768, st := true }

/-- 2^a (R137). -/
def Num.exp2 : Num → Num
  | .nan => .nan
  | .inf n => if n then .fin { neg := false, m := 0, e := 0 } else .inf false
  | .fin v => .fin v.exp2

/-- Floor of log2(e) x 2^512. -/
def log2e512 : Nat := 0x171547652b82fe1777d0ffda0d23a7d11d6aef551bad2b4b1164a2cd9a342648fbc3887eeaa2ed9ac49b25eeb82d7c167d52173cc1895213f897f5e06a7be7366

/-- e^v for a finite v (R298, R359). -/
def Dy.exp (v : Dy) : Dy :=
  if v.m = 0 then { neg := false, m := 1, e := 0 }
  else if 16 < v.log2 then { neg := false, m := 1, e := if v.neg then -hugeExp else hugeExp, st := true }
  else if v.log2 < -300 then
    (if v.neg then { neg := false, m := 2 ^ 300 - 1, e := -300, st := true } else { neg := false, m := 2 ^ 300, e := -300, st := true })
  else
    let t : Dy := { neg := v.neg, m := v.m * log2e512, e := v.e - 512 }
    match exp2Try 384 (t.floorAt 384 - 1) (t.floorAt 384 + 2) with
    | some d => d
    | none => { neg := false, m := exp2Low 384 (t.floorAt 384 % (2 ^ 384 : Nat)).toNat, e := t.floorAt 0 - 384, st := true }

/-- e^a (R298). -/
def Num.exp : Num → Num
  | .nan => .nan
  | .inf n => if n then .fin { neg := false, m := 0, e := 0 } else .inf false
  | .fin v => .fin v.exp

end Sys2Proof.Machine
end

