-- ==== Sys2Proof/Machine/Operands.lean ====
section
/-! DEFINITION. Operand forms: integers by type (R57, R105), effective addresses and targets (R56, R89), and the counter
generator (R145). -/

namespace Sys2Proof.Machine

/-! ### Integer types (R105) -/

/-- Width of a type (R57). -/
def tyBits : Ty → Nat
  | .i8 | .n8 => 8
  | .i16 | .n16 => 16
  | .i32 | .n32 => 32
  | .i64 | .n64 => 64

/-- Is the type signed (R57)? -/
def tySigned : Ty → Bool
  | .i8 | .i16 | .i32 | .i64 => true
  | _ => false

/-- The low n bits of v, read by type: `rd` of R105. -/
def rdN (ty : Ty) (v : Nat) : Int :=
  let u := v % 2 ^ tyBits ty
  if tySigned ty && 2 ^ (tyBits ty - 1) ≤ u then (u : Int) - (2 ^ tyBits ty : Nat) else u

/-- Least and greatest value of a type (R105). -/
def tyLo (ty : Ty) : Int := if tySigned ty then -(2 ^ (tyBits ty - 1) : Nat) else 0
def tyHi (ty : Ty) : Int := if tySigned ty then (2 ^ (tyBits ty - 1) : Nat) - 1 else (2 ^ tyBits ty : Nat) - 1

/-- An exact result limited to the type's range (R105 clamp). -/
def tyClamp (ty : Ty) (r : Int) : Int := if r < tyLo ty then tyLo ty else if tyHi ty < r then tyHi ty else r

/-- The n-bit pattern of an exact result. -/
def wrapN (n : Nat) (r : Int) : Nat := (r % (2 ^ n : Nat)).toNat

/-- `put` of R105 without the write: saturate if asked, wrap to n bits, extend by type. -/
def putN (ty : Ty) (sat : Bool) (r : Int) : Int :=
  rdN ty (wrapN (tyBits ty) (if sat then tyClamp ty r else r))

/-- Quotient and remainder of R110. -/
def divQ (ty : Ty) (a b : Int) : Int :=
  if b = 0 then (if tySigned ty then -1 else (2 ^ tyBits ty : Nat) - 1) else a.tdiv b
def divR (a b : Int) : Int := if b = 0 then a else a - b * a.tdiv b

/-- Shift left exactly (R112); an amount above the width only moves the value further out of range. -/
def shlZ (a : Int) (n s : Nat) : Int := a * (2 ^ (if s ≤ 2 * n then s else 2 * n) : Nat)

/-- Shift right of the n-bit pattern (R112). -/
def shrZ (u s : Nat) : Nat := if 64 ≤ s then 0 else u / 2 ^ s

/-- Arithmetic shift right of the n-bit pattern read as signed (R112). -/
def shaZ (i : Int) (s : Nat) : Int := i / (2 ^ (if 64 ≤ s then 64 else s) : Nat)

/-- Rotation of the n-bit pattern (R112). -/
def rotZ (n u s : Nat) (right : Bool) : Nat :=
  let k := s % n
  let k := if right then (n - k) % n else k
  (u * 2 ^ k % 2 ^ n) + u / 2 ^ (n - k)

/-- Number of one bits among the low n (R115). -/
def popN : Nat → Nat → Nat
  | 0, _ => 0
  | n + 1, u => u % 2 + popN n (u / 2)

/-- Number of zero bits above the highest one of n bits (R115). -/
def clzN (n u : Nat) : Nat := if u = 0 then n else n - 1 - Nat.log2 u

/-- Number of zero bits below the lowest one of n bits (R115). -/
def ctzN : Nat → Nat → Nat
  | 0, _ => 0
  | n + 1, u => if u % 2 = 1 then 0 else 1 + ctzN n (u / 2)

/-- Number of bits directly below bit n - 1 that equal it (R115). -/
def clsN (n u : Nat) : Nat :=
  clzN (n - 1) (if u / 2 ^ (n - 1) % 2 = 1 then 2 ^ (n - 1) - 1 - u % 2 ^ (n - 1) else u % 2 ^ (n - 1))

/-- BCNT (R115). -/
def countN (op : CntOp) (n u : Nat) : Nat :=
  match op with
  | .pop => popN n u
  | .clz => clzN n u
  | .ctz => ctzN n u
  | .cls => clsN n u

/-- EXT (R116): the field [pos+len-1:pos] of a, bits above 63 read as 0. -/
def extField (a pos len : Nat) (signed : Bool) : Int :=
  let f := a / 2 ^ pos % 2 ^ len
  if signed then sextN f len else f

/-- INS (R116): the low len bits of a into d at pos, bits past 63 dropped. -/
def insField (d a pos len : Nat) : Nat :=
  let n := if pos + len ≤ 64 then len else 64 - pos
  d - d / 2 ^ pos % 2 ^ n * 2 ^ pos + a % 2 ^ n * 2 ^ pos

/-! ### Addresses and targets (R45, R56, R89) -/

/-- The PC after a slot that transfers no control (R45). -/
def seqPc (pc : Word) : Word := if pc.toNat % 64 = 4 then pc + 60 else pc + 1

/-- Address of a PC's line (R45). -/
def linePc (pc : Word) : Word := W (pc.toNat / 64 * 64)

/-- The PC n lines on, at a slot (R56, R89). -/
def lineRel (pc : Word) (lines : Int) (slot : Nat) : Word := Wi (((pc.toNat / 64 : Nat) + lines) * 64 + slot)

/-- Target of format BR (R56). -/
def brTarget (pc : Word) (t : BrTarget) : Word := lineRel pc t.ldisp.toInt t.slot.val

/-- Target of SPAWN and TSELF (R89). -/
def immTarget (pc : Word) (imm : BitVec 58) : Word := lineRel pc (sextN (imm.toNat / 8) 55) (imm.toNat % 8)

/-- Effective address of format MEM (R56), from the values of BASE and IDX. -/
def effAddr (base idx : Word) (m : MemOp) : Word := base + W (idx.toNat * 2 ^ m.sh.val) + Wi m.disp.toInt

/-! ### The counter generator (R145) -/

/-- A 32-bit left rotation. -/
def rotl32 (x k : Nat) : Nat := (x * 2 ^ k % 2 ^ 32) + x % 2 ^ 32 / 2 ^ (32 - k)

/-- The rounds of ICG on (k0, k1, c0, c1, c2, c3). -/
def icgRounds : Nat → Nat → Nat → Nat → Nat → Nat → Nat → List Nat
  | 0, _, _, c0, c1, c2, c3 => [c0, c1, c2, c3]
  | r + 1, k0, k1, c0, c1, c2, c3 =>
    let M := 2 ^ 32
    let c0 := (c0 + c1) % M
    let c3 := rotl32 (c3 ^^^ c0) 16
    let c2 := (c2 + c3) % M
    let c1 := rotl32 (c1 ^^^ c2) 12
    let c0 := (c0 + c1 + k0) % M
    let c3 := rotl32 (c3 ^^^ c0) 8
    let c2 := (c2 + c3 + k1) % M
    let c1 := rotl32 (c1 ^^^ c2) 7
    icgRounds r ((k0 + 0x9E3779B9) % M) ((k1 + 0xBB67AE85) % M) c0 c1 c2 c3

/-- Word i of ICG(K, N) (R145). -/
def icg (key ctr i : Nat) : Nat :=
  let c (j : Nat) := ctr / 2 ^ (32 * j) % 2 ^ 32
  ((icgRounds 10 (key % 2 ^ 32) (key / 2 ^ 32 % 2 ^ 32) (c 0) (c 1) (c 2) (c 3)).getD i 0 + c i) % 2 ^ 32

end Sys2Proof.Machine
end

