-- ==== Sys2Proof/Machine/Flags.lean ====
section
/-! DEFINITION. Conditions. The machine keeps no flags (R105): a condition is computed where it is used. -/

namespace Sys2Proof.Machine

/-- CND of BC and BCZ (R59). -/
def condHolds (c : Cond) (a b : Word) : Bool :=
  match c with
  | .eq => a == b
  | .ne => a != b
  | .lt => a.slt b
  | .ge => !a.slt b
  | .ltu => a.ult b
  | .geu => !a.ult b

/-- The condition of CMP and VCMP (R119): a and b exact, ub the n-bit pattern of b. -/
def cmpHolds (ty : Ty) (op : CmpOp) (a b : Int) : Bool :=
  match op with
  | .eq => decide (a = b)
  | .ne => decide (a ≠ b)
  | .lt => decide (a < b)
  | .ge => decide (b ≤ a)
  | .le => decide (a ≤ b)
  | .gt => decide (b < a)
  | .tst => (wrapN (tyBits ty) a &&& wrapN (tyBits ty) b) != 0

/-- The condition of VFCMP (R139). -/
def fcmpHolds (op : FCmpOp) (a b : Num) : Bool :=
  let un := a.isNan || b.isNan
  match op with
  | .un => un
  | .ne => un || a.cmp b != .eq
  | .eq => !un && a.cmp b == .eq
  | .lt => !un && a.cmp b == .lt
  | .ge => !un && a.cmp b != .lt
  | .le => !un && a.cmp b != .gt
  | .gt => !un && a.cmp b == .gt

/-- `.and` and `.or` of the compares (R119). -/
def combine (cb : Comb) (old c : Bool) : Bool :=
  match cb with
  | .none => c
  | .and => old && c
  | .or => old || c

/-- Class of a value (R140): its code in VFCLS. -/
def classOf (f : Fmt) (v : Num) : Nat :=
  match v with
  | .nan => 8
  | .inf n => if n then 0 else 7
  | .fin d =>
    if d.m = 0 then (if d.neg then 3 else 4)
    else
      let sub := decide (d.log2 < 1 - f.bias)
      if d.neg then (if sub then 2 else 1) else (if sub then 5 else 6)

end Sys2Proof.Machine
end

