-- ==== Sys2Proof/Machine/Units.lean ====
section
/-! DEFINITION. The records of cores, tiles, chiplets, zones, quarries and address spaces that State holds. -/

namespace Sys2Proof.Machine

/-- A core: its run queue, caches and issue port (R75, R178, R261, R415). -/
structure Core where
  queue  : List Msg := []
  /-- The context that issued last (R75). -/
  last   : Nat := 10
  /-- ACLK cycles counted by the core (R75). -/
  cyc    : Nat := 0
  l1d    : List (Nat × CLine) := []
  l1i    : List (Nat × BitVec 512) := []
  tlb    : List TlbE := []
  /-- The gang that drains the core (R36). -/
  drain  : Option Nat := none
  /-- Helpers reserved for the draining gang (R36). -/
  rsv    : List Nat := []
  /-- Successor PC of the retained banks (R74). -/
  keep   : Option Word := none
  /-- Control-context restarts of quota suspension, in order of suspension (R447). -/
  qrest  : List Msg := []
  /-- A line of code is lost: the next copy that is fetched fails its parity too (R47, R431). -/
  lost   : Option Nat := none
deriving DecidableEq, Repr, Inhabited

/-- An open region of an address space (R272). -/
structure Region where
  /-- false: OPEN; true: CLOSED. -/
  closed : Bool
  /-- Physical address of the future. -/
  fut    : Nat
  /-- Waves begun when RGCLOSE performed (R40). -/
  mark   : Nat
  /-- Totals of the last wave and the number of that wave (R40). -/
  prev   : Option (Nat × Nat × Nat)
  colour : BitVec 4
  /-- Chiplet of the opener (R236). -/
  ci     : Nat
deriving DecidableEq, Repr, Inhabited

/-- What the module holds for an ASID (R272, R382, R394, R407). -/
structure Space where
  /-- The 512 bytes of the profile (R408), if bound. -/
  prof    : Option (BitVec 4096) := none
  qremain : Nat := 0
  qrefill : Nat := 0
  qperiod : Nat := 1000
  qover   : Nat := 0
  susp    : Bool := false
  /-- Fabric cycle at which QREMAIN reached 0 (R395). -/
  qzero   : Nat := 0
  /-- Fabric cycle of the next period boundary (R394). -/
  qnext   : Nat := 0
  hit     : Nat := 0
  miss    : Nat := 0
  inval   : Nat := 0
  regions : List (Nat × Region) := []
deriving DecidableEq, Repr, Inhabited

/-- A gang: its record and its members (R267-R271). -/
structure Gang where
  /-- Words of the record as admitted. -/
  w       : Vector Word 8
  asid    : BitVec 10
  colour  : BitVec 4
  /-- Physical address of FUT, if the record names one (R277). -/
  fut     : Option Nat
  /-- Chiplet whose unit admits it. -/
  ci      : Nat
  /-- Fabric cycle of arrival (R269). -/
  arr     : Nat
  /-- Attempts made. -/
  tries   : Nat
  admitted : Bool
  /-- Identities of the live members. -/
  live    : List Nat
  /-- Number of members at admission (R271). -/
  total   : Nat
  /-- Current origin (R95, R446). -/
  origin  : Nat
  /-- It has put the cores it needs into drain (R36, R269). -/
  drains  : Bool := false
deriving DecidableEq, Repr

/-- States of a job (R281). -/
inductive JobSt where
  | waiting | ready | running
deriving DecidableEq, Repr, Inhabited

/-- An entry of the job's snapshot with its scale entry, SPEC 3 resolved (R164). -/
structure Snap where
  e : EntryBits := 0
  s : EntryBits := 0
deriving DecidableEq, Repr, Inhabited

/-- Input of a job (R284): what the specifier waits for. -/
structure JobDep where
  spec  : Nat
  ready : Bool
  /-- Slot of a served ring take or claim. -/
  slot  : Option Nat
  /-- The take met a FORMAT_MISMATCH (R188), or the job-type input failed (R284). -/
  fail  : Option Flt
deriving DecidableEq, Repr, Inhabited

/-- A piece of the compared input of a tagged job (R376, R377): n times k bytes at `dst` in SIN, elements of w bits, and the
bytes of SRC0 and of SIN. -/
structure ArcPiece where
  dst : Word
  k   : Nat
  n   : Nat
  w   : Nat
  row : Nat
  new : Nat
  old : Nat
deriving DecidableEq, Repr, Inhabited

/-- Reuse of a tagged job (R375-R379). -/
structure JobArc where
  ent     : Nat
  /-- The reuse descriptor, and the threshold entry as it was bound. -/
  desc    : List Word
  tft     : EntryBits
  /-- SHAPE of the job without the NB of bank 1, and what it adds at issue (R374). -/
  shape   : List Nat
  nb      : Nat
  /-- Entry numbers that SHAPE and the threshold name, and whether SNAP holds a SPEC 3 entry (R379). -/
  names   : List Nat
  ctx     : Bool
  /-- The outcome is decided, and it is REPLAY. -/
  decided : Bool
  replay  : Bool
  /-- Pieces compared, and once a COMPUTE is decided those that SIN still takes (R377, R378). -/
  input   : List ArcPiece := []
  /-- A pre-emption stopped the compare: its outcome is COMPUTE (invalid) (R380). -/
  void    : Bool := false
deriving DecidableEq, Repr, Inhabited

/-- A job of a job table (R281-R286). -/
structure Job where
  st     : JobSt
  kind   : JobKind
  desc   : BitVec 512
  asid   : BitVec 10
  cls    : Nat
  colour : BitVec 4
  /-- Identity of the submitter, and the chiplet it submitted from. -/
  sub    : Nat
  /-- FA, FB, FP, FO in this order (R164). -/
  ents   : List Snap
  orm    : Nat
  /-- Order of admission (R285). -/
  seq    : Nat
  deps   : List JobDep
  /-- Physical address of FUT (R303). -/
  fut    : Option Nat
  /-- Beats executed and units (rows, columns, outer entries) completed (R293). -/
  beats  : Nat
  pos    : Nat
  /-- Beats that the unit in progress still takes; none before it begins. -/
  left   : Option Nat
  /-- How the job ended, if not DONE. -/
  stop   : Option Flt
  /-- The job's work is over; record, mailbox and future are still to be performed (R286). -/
  ovr   : Bool
  arc    : Option JobArc
  /-- Working values of the kind between units. -/
  acc    : List Nat
  /-- A job of the expert chain (R362): the lead and tag of its run, the piece, and its group table's one entry. -/
  chain  : Option (Nat × Nat × Nat) := none
  table  : Option Nat := none
deriving DecidableEq, Repr

/-- A slot of the job table with its generation and mailbox (R282). -/
structure JobSlot where
  gen   : Nat := 0
  job   : Option Job := none
  mgen  : Nat := 0
  mst   : Nat := 0
  mcs   : Nat := 3
  masid : BitVec 10 := 0
  /-- KIND of the last job. -/
  mkind : Nat := 0
deriving DecidableEq, Repr, Inhabited

/-- A B bank of the dense engine (R289): loaded columns with their scale codes. -/
structure BBank where
  asid : Option (BitVec 10) := none
  snap : Snap := {}
  nb   : Nat := 0
  cols : List (Nat × BitVec 4096 × List Nat) := []
deriving DecidableEq, Repr, Inhabited

/-- An entry of the top-k state (R297). -/
structure TopE where
  key : BitVec 32
  raw : BitVec 32
  col : Nat
deriving DecidableEq, Repr, Inhabited

/-- The top-k state of a tile (R297). -/
structure TopK where
  k    : Nat := 0
  asid : Option (BitVec 10) := none
  rows : List (Nat × List TopE) := []
deriving DecidableEq, Repr, Inhabited

end Sys2Proof.Machine
end

