-- ==== Sys2Proof/Machine/Engines.lean ====
section
/-! DEFINITION. The records of the tile engines, the quarries, the zones, the host windows and Norbufer. -/

namespace Sys2Proof.Machine

/-- A copy of a channel queue (R330-R336). -/
structure Copy where
  /-- Queue entry, 0-7. -/
  ent    : Nat
  /-- Words of the descriptor (R331). -/
  desc   : BitVec 512
  asid   : BitVec 10
  colour : BitVec 4
  /-- Identity of the submitter. -/
  sub    : Nat
  /-- The submission came from another tile, by a first touch (R209). -/
  far    : Bool := false
  /-- DEP is ready (R284), and the copy has started. -/
  ready  : Bool := false
  run    : Bool := false
  /-- Bytes moved, in the order of R332. -/
  pos    : Nat := 0
  /-- The window whose copy this is (R339). -/
  win    : Option Nat := none
  /-- Physical address of FUT. -/
  fut    : Option Nat := none
  fault  : Option Flt := none
deriving DecidableEq, Repr

/-- A queue entry's generation and last completion (R330, R349). -/
structure CopyDone where
  gen  : Nat := 0
  live : Bool := false
  mgen : Nat := 0
  st   : Nat := 0
  cs   : Nat := 3
deriving DecidableEq, Repr, Inhabited

/-- A copy channel (R330). -/
structure Channel where
  queue : List Copy := []
  ents  : List (Nat × CopyDone) := []
deriving DecidableEq, Repr, Inhabited

/-- States of a region-table window (R337). -/
inductive WinSt where
  | free | absent | filling | present | failed
deriving DecidableEq, Repr, Inhabited

/-- A region-table window (R337, R338). -/
structure Window where
  st     : WinSt := .free
  asid   : BitVec 10 := 0
  desc   : BitVec 256 := 0
  /-- Its copy waits for a free queue entry (R339). -/
  due    : Bool := false
  /-- Identity and colour of the context whose access, or whose job's, touched it first (R339, R343). -/
  sub    : Nat := 0
  colour : BitVec 4 := 0
  /-- The first touch came from another tile (R209). -/
  far    : Bool := false
deriving DecidableEq, Repr, Inhabited

/-- A bin-set slot (R324). -/
structure BinSlot where
  asid : BitVec 10
  desc : BitVec 512
  fe   : Snap
  fe2  : Snap
  nfm  : Bool
deriving DecidableEq, Repr, Inhabited

/-- A replay in flight (R328): which context waits, and what it does. -/
structure BinRun where
  id     : Nat
  slot   : Nat
  region : Nat
  cells  : Word
  clr    : Bool
  /-- CLAIMED at the close. -/
  n      : Nat
  cls    : Nat
  /-- Beats that the gate has admitted (R328). -/
  beats  : Nat
  /-- Cells zeroed and entries applied. -/
  zeroed  : Nat := 0
  applied : Nat := 0
  /-- Result register, and the group of its pending result when the context was captured meanwhile (R81). -/
  dst    : XReg := 0
  grp    : Nat := 0
  colour : BitVec 4 := 0
  /-- Was its context captured meanwhile, so that the end answers no wait (R81)? -/
  left   : Bool := false
deriving DecidableEq, Repr, Inhabited

/-- A reuse entry (R373, R374). -/
structure Arc where
  held  : Bool := false
  asid  : BitVec 10 := 0
  valid : Bool := false
  stale : Bool := false
  block : Nat := 0
  step  : Nat := 0
  /-- KIND, M, N, LDA, ORM, FA, FO, FP, SIN, SOUT, NB (R374). -/
  shape : List Nat := []
  snap  : List Snap := []
  /-- An entry of SNAP has SPEC 3 (R379); the entry numbers that mark it. -/
  ctx   : Bool := false
  names : List Nat := []
  /-- Order number of the first job admitted after the last STALE mark (R379). -/
  mark  : Nat := 0
  busy  : Nat := 0
deriving DecidableEq, Repr, Inhabited

/-- A claim at a claim port (R372): of a context (id), or of the chain unit (none). -/
structure Claim where
  id   : Option Nat
  dom  : Nat
  tag  : Nat
  dem  : List Nat
  /-- Address of the result of a context's claim. -/
  out  : Word
deriving DecidableEq, Repr, Inhabited

/-- Stages of a shard (R358-R363). -/
inductive ShardSt where
  | gate | claim | dispatch | combine | done
deriving DecidableEq, Repr, Inhabited

/-- A shard's work in a run (R354): its chain unit's state. -/
structure Shard where
  /-- The lead, and the run's tag there. -/
  lead   : Nat
  tag    : Nat
  rank   : Nat
  asid   : BitVec 10 := 0
  st     : ShardSt := .gate
  /-- Gate columns in the gate tile's banks; and while the gate runs, the row in progress and the beats that the column or
  row still takes, none before it begins (R359). -/
  cols   : Nat := 0
  gate   : Option (Nat × Option Nat) := none
  /-- Round in progress, expert group of the next claim, and whether that claim is at the port (R360). -/
  round  : Nat := 0
  group  : Nat := 0
  posted : Bool := false
  /-- Selections of the block in progress: per token, (expert, f32 weight) by rank (R359). -/
  sel    : List (Nat × List (Nat × Nat)) := []
  /-- Prefix and total of each expert in this round, and totals of the earlier rounds (R361). -/
  pre    : List (Nat × Nat) := []
  tot    : List (Nat × Nat) := []
  base   : List (Nat × Nat) := []
  /-- Routed tokens: per token, (expert, weight, claim index) by rank. -/
  toks   : List (Nat × List (Nat × Nat × Nat)) := []
  /-- Tokens whose rows are staged, and tokens combined. -/
  staged : Nat := 0
  comb   : Nat := 0
deriving DecidableEq, Repr, Inhabited

/-- A piece of a replica's rows (R362): at most 512 slots of an expert, and the job that computes them. -/
structure Piece where
  expert : Nat
  tid    : Nat
  lo     : Nat
  n      : Nat
  /-- Its job was submitted; it has completed. -/
  sent   : Bool := false
  done   : Bool := false
deriving DecidableEq, Repr, Inhabited

/-- A run at its lead (R355, R366). -/
structure Run where
  tag    : Nat
  lcb    : BitVec 8192
  asid   : BitVec 10
  cls    : Nat
  colour : BitVec 4
  /-- Identity of the submitter. -/
  sub    : Nat
  /-- FX, FG, FW, FY. -/
  ents   : List Snap
  /-- Rounding of the output rows: FY's DRM, resolved (R363). -/
  rm     : Nat
  /-- Live V tiles of the domain in ascending TID, once started (R354). -/
  shards : List Nat := []
  started : Bool := false
  /-- Fabric cycle of the next attempt (R355). -/
  next   : Nat
  /-- CHSTOP, and the last round whose claims go on (R370). -/
  stop   : Bool := false
  last   : Nat := 0
  /-- Fault word of the first job that faulted (R366). -/
  fault  : Option Nat := none
  eu     : Nat := 0
  fut    : Option Nat := none
  /-- Products to compute, once every row is staged (R362). -/
  pieces : Option (List Piece) := none
  adm    : Nat := 0
  drop   : Nat := 0
  routed : Nat := 0
  comb   : Nat := 0
deriving DecidableEq, Repr

/-- A tile's engines beside its job table (R324, R330, R337, R372, R373, R387). -/
structure Eng where
  /-- Kick registers of the tile's engines: the descriptor submitted last (R208, R209).  0 is the job engine, 1 to 8 the copy
  channels, 9 the chain unit and 10 the replay of bins. -/
  kicks : List (Nat × Nat) := []
  chans : List (Nat × Channel) := []
  wins  : List (Nat × Window) := []
  bins  : List (Nat × BinSlot) := []
  runs  : List BinRun := []
  arcs  : List (Nat × Arc) := []
  claims : List Claim := []
  /-- Results of claims that guarded bytes hold up (R335, R372): context, address, value, and the line that comes next. -/
  outs   : List (Nat × Word × Nat × Nat) := []
  shard : Option Shard := none
  /-- Runs waiting or running at this lead, and its last tag (R355, R368). -/
  leadq : List Run := []
  ltag  : Nat := 0
  /-- G of the tile, and the notices that it has, oldest first: tokens, and the ACLK cycle at which it ends (R387, R392). -/
  g     : Nat := 0
  notes : List (Nat × Nat) := []
  /-- Tokens that left and that came by answers since the last boundary: the gate does not know of them yet (R404). -/
  gone  : Nat := 0
  come  : Nat := 0
  /-- H as the gate has it, and the bucket (R389). -/
  h     : Nat := 0
  bucket : Nat := 0
  /-- Fabric cycle in which the last job or replay completed: FL detaches after it (R388). -/
  flT   : Option Nat := none
  /-- Fabric cycles of the last beat, and of the last rise of G from 0 (R392). -/
  beatT : Nat := 0
  gT    : Nat := 0
  /-- First ACLK cycle of the tile's engine that no beat has taken, and boundaries of the 64-cycle counter passed (R389). -/
  aclk  : Nat := 0
  period : Nat := 0
deriving DecidableEq, Repr, Inhabited

/-- Frequency and temperature of a chiplet (R399-R401). -/
structure ChipPow where
  vf     : Nat := 0
  req    : Nat := 0
  pend   : Bool := false
  /-- The step in progress: its goal and the fabric cycle at which it ends. -/
  ramp   : Option (Nat × Nat) := none
  thot   : Nat := 95
  hth    : Nat := 4
  ts     : Nat := 4
  throt  : Bool := false
  /-- Fabric cycle of the last throttle transition, and of the last evaluation. -/
  since  : Option Nat := none
  eval   : Option Nat := none
  temp   : Nat := 0
deriving DecidableEq, Repr, Inhabited

/-- A launch of a window's buffer, with the window's GANG and PRIV as it entered (R454, R455). -/
structure Launch where
  msg  : Msg
  gang : Bool
  priv : Bool
deriving DecidableEq, Repr, Inhabited

/-- A launch window (R454). -/
structure LaunchWin where
  cfg  : Word := 0
  buf  : List Launch := []
  last : Nat := 0
  drop : Nat := 0
  acc  : Nat := 0
deriving DecidableEq, Repr, Inhabited

/-- A loan (R391). -/
structure Loan where
  gen    : Nat := 0
  live   : Bool := false
  lender : Nat := 0
  borrower : Nat := 0
  n      : Nat := 0
  /-- Fabric cycle at which the term expires, and the order in which the broker made it. -/
  ends   : Nat := 0
  ord    : Nat := 0
deriving DecidableEq, Repr, Inhabited

/-- A zone's broker (R387, R397). -/
structure Zone where
  bud   : Nat := 4096
  loans : List (Nat × Loan) := []
  ord   : Nat := 0
  /-- Fabric cycle of the last service, and its place in that cycle: a tile, or 2^13 for an expiry (R393). -/
  served : Option (Nat × Nat) := none
deriving DecidableEq, Repr, Inhabited

/-- A memory-side format window (R165, R353). -/
structure FWin where
  base  : Nat := 0
  limit : Nat := 0
  se    : EntryBits := 0
  we    : EntryBits := 0
  v     : Bool := false
deriving DecidableEq, Repr, Inhabited

/-- A subscription (R341, R342). -/
structure Sub where
  gen    : Nat := 0
  live   : Bool := false
  desc   : BitVec 512 := 0
  asid   : BitVec 10 := 0
  colour : BitVec 4 := 0
  /-- Tile on which the ring lies (R341), and the identity of the submitter. -/
  tid    : Nat := 0
  sub    : Nat := 0
  /-- Tiles transferred. -/
  t      : Nat := 0
  /-- Physical address of FUT. -/
  fut    : Option Nat := none
  fault  : Option Flt := none
  stop   : Bool := false
  /-- Its claim or take waits at the ring, and the slot that it got (R342). -/
  asked  : Bool := false
  slot   : Option Nat := none
deriving DecidableEq, Repr, Inhabited

/-- A quarry (R17, R165, R341, R402). -/
structure Quarry where
  /-- Kick register: the descriptor submitted last (R208, R209). -/
  kick  : Nat := 0
  fwins : List (Nat × FWin) := []
  subs  : List (Nat × Sub) := []
  hbm   : Nat := 0
  pend  : Option Nat := none
  /-- A change in progress: the goal, the channel that retrains and the fabric cycle at which it ends. -/
  chg   : Option (Nat × Nat × Nat) := none
deriving DecidableEq, Repr, Inhabited

/-- A store that went out through a peer port: offset, bytes and value, and whether a copy unit sent it as one whole line,
which a launch slot takes as a launch and not as a partial write (R454, R458). -/
structure PeerSent where
  off   : Nat
  n     : Nat
  value : Nat
  line  : Bool := false
deriving DecidableEq, Repr, Inhabited

/-- A peer port (R456): its register, whose bit 1 is the trained link, and the stores sent through it (R457). -/
structure Peer where
  reg  : Word := 0
  sent : List PeerSent := []
deriving DecidableEq, Repr, Inhabited

/-- A delivery on its way to the home of its record (R239). -/
structure Delivery where
  /-- Physical address of the record and the argument slot. -/
  home   : Nat
  k      : Nat
  value  : Word
  asid   : BitVec 10
  colour : BitVec 4
  /-- Tile of the home that sends it. -/
  sender : Nat := 0
deriving DecidableEq, Repr, Inhabited

/-- What a home wrote into a wait node when it listed it: its two words, the ASID of the FWAIT, and whether the HEAD that it
linked to was the home's own (R238, R244, R258; log 71). -/
structure Listed where
  word0 : Nat
  next  : Nat
  asid  : BitVec 10
  own   : Bool
deriving DecidableEq, Repr, Inhabited

/-- A child's arrival at its parent (R248). -/
structure KidArrival where
  ptid  : Nat
  pidx  : Nat
  asid  : BitVec 10
  vop   : Nat
  value : BitVec 512
  colour : BitVec 4 := 0
  /-- Tile of the child. -/
  sender : Nat := 0
deriving DecidableEq, Repr, Inhabited

/-- A release broadcast by a root (R248). -/
structure TreeRelease where
  tid   : Nat
  idx   : Nat
  value : BitVec 512
  vop   : Nat
  due   : Nat
  colour : BitVec 4 := 0
deriving DecidableEq, Repr, Inhabited

/-- A job on its way to another tile (R304). -/
structure RemoteJob where
  id   : Nat
  tid  : Nat
  kind : JobKind
  desc : BitVec 512
  ents : List Snap
  orm  : Nat
  cap  : Word
  cls  : Nat
  colour : BitVec 4
  sub  : Nat
deriving DecidableEq, Repr

/-- Sums of INJ and DLV of one colour at the last two waves (R344). -/
structure ColWave where
  inj : Nat := 0
  dlv : Nat := 0
  flat : Bool := false
deriving DecidableEq, Repr, Inhabited

/-- One saved piece of a unit (R442), kept as data beside the bytes of the save area. -/
inductive SavedPart where
  | ctx (id : Nat) (c : Ctx)
  | bank (tid b : Nat) (k : Bank) (off : Nat)
  | bars (tid : Nat) (l : List (Nat × Bar))
  | msgs (tid core : Nat) (l : List Msg)
  | ovr (tid : Nat) (l : List Msg)
  | wins (tid : Nat) (l : List (Nat × Window))
  | bins (tid : Nat) (l : List (Nat × BinSlot))
  | arcs (tid : Nat) (l : List (Nat × Arc))
  | counts (tid : Nat) (l : List (Nat × Nat × Nat))
  | jobs (tid : Nat) (l : List (Nat × JobSlot)) (b0 b1 : BBank) (k : TopK)
  | chans (tid : Nat) (l : List (Nat × Channel))
  | chain (tid : Nat) (sh : Option Shard) (l : List Run)
  | sub (q entry : Nat) (s : Sub)
deriving DecidableEq, Repr

/-- A saved unit (R442, R445), or one saved context image. -/
structure SavedUnit where
  /-- The unit descriptor of R445. -/
  desc   : Word := 0
  asid   : BitVec 10
  /-- Captured origin and captured tiles (R446). -/
  origin : Nat := 0
  tiles  : List Nat := []
  /-- Words of the directory (R442). -/
  dir    : List Word := []
  /-- Identity and offset of each context image, and bank, tile and offset of each bank image. -/
  ctxs   : List (Nat × Nat) := []
  parts  : List SavedPart
deriving DecidableEq, Repr

/-- A PREEMPT under way (R440, R443). -/
structure Pre where
  /-- Contexts of the unit. -/
  ids   : List Nat
  /-- Tiles that it captures, and for a partition its colour mask. -/
  tiles : List Nat
  mask  : Option Nat
  asid  : BitVec 10 := 0
  /-- Waves begun when the last context was captured (R443 step 3). -/
  wave  : Option Nat := none
deriving DecidableEq, Repr

/-- STATUS of the mailbox (R463). -/
inductive MboxSt where
  | ready | busy | badarg | bootfail | halted | dumping
deriving DecidableEq, Repr, Inhabited

/-- STATUS as the BAR shows it (R463). -/
def MboxSt.num : MboxSt → Nat
  | .ready => 0 | .busy => 1 | .badarg => 2 | .bootfail => 3 | .halted => 4 | .dumping => 5

/-- A record of the step log (R461): word 0 and word 1. -/
abbrev StepRec := Word × Word

/-- Norbufer (R461-R465). -/
structure Norb where
  cmd    : Word := 0
  arg    : Word := 0
  status : MboxSt := .ready
  /-- The command that runs ends with BADARG (R463). -/
  fails  : Bool := false
  /-- The 512 words of the data window; those past the list are 0. -/
  window : List Word := []
  log    : List StepRec := []
  bootseq : Nat := 0
  nfail  : Nat := 0
  dumpv  : Bool := false
  /-- A dump to take: source, code, reason, TID. -/
  trig   : Option (Nat × Nat × Word × Nat) := none
  /-- Fabric cycle of the trigger (R465 word 4). -/
  trigAt : Nat := 0
  second : Option (Nat × Nat × Nat) := none
  /-- Sections of the dump that errors struck as they were read: KIND, TID and SUB (R464). -/
  bad    : List (Nat × Nat × Nat) := []
  /-- The module is stopped (R464). -/
  halted : Bool := false
  /-- Bring-up ended with a fatal outcome and no dump (R459). -/
  failed : Bool := false
deriving DecidableEq, Repr, Inhabited

end Sys2Proof.Machine
end

