-- ==== Sys2Proof/Machine/State.lean ====
section
/-! DEFINITION. The state of the module, and the state that bring-up leaves (R460).

Contexts are keyed by the identity word of R432 (TID + CORE x 2^13 + CTX x 2^16), cores by TID + CORE x 2^13, tiles by
TID, chiplets by cy x 28 + cx, zones by zy x 14 + zx, quarries and address spaces by number.  A key that a list does not
hold stands for the record as bring-up leaves it: every field at its default. -/

namespace Sys2Proof.Machine

/-- A tile (R12, R175, R246, R281, R287). -/
structure Tile where
  banks : List (Nat × Bank) := []
  /-- Bytes of the SCRATCH and RING banks: bank x 2^17 + byte (R184). -/
  sram  : List Host.Cell := []
  l2    : List (Nat × CLine) := []
  tlb   : List TlbE := []
  /-- Overflow store of the run queues, oldest first (R261). -/
  ovr  : List Msg := []
  /-- Messages accepted into the NI image while their ASID is frozen, oldest first (R443 step 1). -/
  img  : List Msg := []
  bars  : List (Nat × Bar) := []
  jobs  : List (Nat × JobSlot) := []
  b0    : BBank := {}
  b1    : BBank := {}
  topk  : TopK := {}
  /-- SENT and RETIRED by ASID x 256 + region (R38). -/
  regs  : List (Nat × Nat × Nat) := []
  /-- Forwarding entries: ASID and tile, oldest first (R444). -/
  fwd   : List (Nat × Nat) := []
  /-- ASIDs whose messages are refused after a partition capture (R443 step 5). -/
  closed : List Nat := []
  /-- ASIDs frozen by a partition capture that is under way (R443 step 1). -/
  frozen : List Nat := []
  pgarea : Word := 0
  /-- Pager slots in use: with the fault of a page fault (R437), without one for a quota suspension (R447). -/
  pgused : List (Nat × Option FaultRec) := []
  /-- INF, INJ, DLV of each colour (R344). -/
  cols   : List (Nat × Nat × Nat × Nat) := []
  eng    : Eng := {}
deriving DecidableEq, Repr, Inhabited

/-- A chiplet (R16, R429, R399-R401, R454). -/
structure Chip where
  fvec  : Word := 0
  flog  : Word := 0
  /-- Slot of the fault log that the next message takes (R429). -/
  flogN : Nat := 0
  fq    : List Msg := []
  /-- Fault messages waiting at their origins, oldest first, with the cycle of the next attempt (R429). -/
  fwait : List (Msg × Nat) := []
  fseq  : Nat := 0
  /-- Fabric cycle at which a resent fault message was last accepted (R466 A0-002). -/
  fqT   : Option Nat := none
  /-- Gangs waiting at the admission unit, in order of arrival (R269). -/
  gangs : List Nat := []
  pow   : ChipPow := {}
  win   : List (Nat × LaunchWin) := []
deriving DecidableEq, Repr, Inhabited

/-- Who executes, and what the current move is about. -/
structure Cur where
  /-- Identity of the context that issues. -/
  id   : Nat := 0
  /-- PC of the instruction (R45). -/
  pc   : Word := 0
  /-- First and second of an issued pair (R51). -/
  fst  : Bool := false
  snd  : Bool := false
  /-- The slot is the second of a pair by its line's template (R65). -/
  sec  : Bool := false
  /-- It is the first issue after a TRET or step, which no breakpoint stops (R450). -/
  free : Bool := false
  /-- The word of the slot, and that of its pair's second when both issue. -/
  word : Nat := 0
  next : Option Nat := none
  /-- Which choices among Old and New the instruction makes (R78; log 7). -/
  pick : Nat := 0
  /-- The registers as they were before the pair (R51). -/
  src  : Option Ctx := none
  /-- The unit that an event is about. -/
  u    : Nat := 0
  v    : Nat := 0
  /-- Submitter of the work that an engine's event does, and its colour (R343). -/
  sub    : Nat := 0
  colour : BitVec 4 := 0
  /-- Opcode of the slot, for the information word of R65. -/
  op   : Nat := 0
  /-- The instruction completed: its SW and GAP apply (R51, R76). -/
  done : Bool := false
  /-- Transfer cycles of the instruction (R83), and its hint. -/
  cost : Nat := 0
  hint : Hint := .none
  /-- Latest load that the instruction's sources depend on, and that its results depend on (R204; log 6). -/
  adep : Nat := 0
  /-- Count of the latest load that the executing instruction's accesses follow (R204). -/
  odep : Nat := 0
  dep  : Nat := 0
deriving DecidableEq, Repr, Inhabited

/-- What the sections of a dump without a layout hold (R465; log 20): tile resources (KIND 2 to 8), fault queues with FQSTAT
(10), broker state (11), the gleaner's region and counter tables (12). -/
structure DumpData where
  parts   : List SavedPart
  faults  : List (Nat × List Msg × Word)
  zones   : List (Nat × Zone)
  regions : List (Nat × List (Nat × Region))
  counts  : List (Nat × List (Nat × Nat × Nat))
deriving DecidableEq, Repr

/-- The module. -/
structure State where
  ctxs   : List (Nat × Ctx)
  cores  : List (Nat × Core)
  tiles  : List (Nat × Tile)
  chips  : List (Nat × Chip)
  zones  : List (Nat × Zone)
  quars  : List (Nat × Quarry)
  spaces : List (Nat × Space)
  /-- Module memory by physical address, and host memory from 2^57 on (R18, R184). -/
  mem    : List Host.Cell
  /-- TIDs of dark tiles (R19). -/
  dark   : List Nat
  /-- Fabric cycles (R22). -/
  fab    : Nat
  qasid  : Nat
  hdmcfg : Word
  peers  : List (Nat × Peer)
  gangs  : List (Nat × Gang)
  gangNo : Nat
  /-- Messages on their way or held at their origins (R262), in order of first sending. -/
  flights : List Flight
  /-- What the homes wrote: HEAD by future, and the words of nodes by node (R237, R238, R244; log 71). -/
  heads  : List (Nat × Nat)
  listed : List (Nat × Listed)
  /-- Order number of the next admission of a job, of any tile: a restored job keeps its place (R285, R301). -/
  jseq   : Nat
  /-- Requests of submissions to arm a future, on their way to its home: its physical address (R235, R468). -/
  arms   : List Nat
  /-- Deliveries on their way to the homes of their records (R239). -/
  delivs : List Delivery
  /-- Child arrivals on their way to their parents (R248). -/
  kids   : List KidArrival
  /-- Tree releases on their way (R248). -/
  trees  : List TreeRelease
  /-- Remote jobs on their way (R304). -/
  rjobs  : List RemoteJob
  /-- Armed monitors: context, home, line, and whether a write has performed since (R230). -/
  mons   : List Mon
  /-- The model's own: translations that stores went through and that no TLB holds any more, until TLBINV invalidates their
  pages (R423). -/
  past   : List TlbE
  /-- Packets by colour that were injected and delivered within one step (R344; log 53). -/
  packets : List (Nat × Nat)
  /-- Gleaner waves begun (R39), and the colour totals of the last two waves (R344). -/
  waves  : Nat
  colT   : List (Nat × ColWave)
  /-- Saved units beside their save areas, by physical address (R442). -/
  saved  : List (Nat × SavedUnit)
  /-- Saved units that a RESUME has restored: their areas may be resumed again (R446). -/
  areas  : List (Nat × SavedUnit)
  /-- PREEMPTs under way, by the context that executes them (R443). -/
  pres   : List (Nat × Pre)
  norb   : Norb
  /-- The sections of the held dump that have no layout, as data (R465). -/
  dump   : Option DumpData
  /-- Bytes that the last read by the host returned (R452-R454). -/
  host   : List Byte
  /-- The model's own: moves to come (log 3). -/
  agenda : List Move
  /-- The model's own: the cursor of the current move (log 3). -/
  cur    : Cur
  /-- The model's own: counter of free values (log 7). -/
  seq    : Nat
deriving DecidableEq, Repr

/-- Why a step stops with a fault. No step of this model does: every exception of the spec is a next state. -/
inductive Fault where
  /-- Raised by nobody; it stands for a stop of the module that the spec would not describe. Safe: nothing is claimed
  of a state that no step reaches. -/
  | none
deriving DecidableEq, Repr

/-- Why a step is refused. -/
inductive Refusal where
  /-- Raised by an arm of `exec` whose instruction has no meaning yet. Safe: no claim about it can be proved. -/
  | notModelled (mnemonic : String)
deriving DecidableEq, Repr

/-- The module when bring-up has completed (R460; log 1): every tile live, every context FREE, every bank CACHE,
ASID 0 bound (log 12), every queue empty. -/
def State.reset : State :=
  { ctxs := [], cores := [], tiles := [], chips := [], zones := [], quars := [],
    spaces := [(0, { prof := some 0 })], mem := [], dark := [], fab := 0, qasid := 0, hdmcfg := 0, peers := [],
    gangs := [], gangNo := 0, flights := [], heads := [], listed := [], jseq := 0, arms := [], delivs := [], kids := [], trees := [], rjobs := [], mons := [], past := [],
    packets := [], waves := 0,
    colT := [], saved := [], areas := [], pres := [], norb := {}, dump := none, host := [], agenda := [], cur := {}, seq := 0 }

end Sys2Proof.Machine
end

