-- ==== Sys2Proof/Machine/Access.lean ====
section
/-! DEFINITION. Names and places (R14-R18, R432), and reading and updating the records of State. -/

namespace Sys2Proof.Machine

/-! ### Names (R14-R18, R432) -/

/-- Column, row and TID of a tile (R15). -/
def tileX (tid : Nat) : Nat := tid % 128
def tileY (tid : Nat) : Nat := tid / 128 % 64
def tidOf (x y : Nat) : Nat := x + 128 * y
/-- Does the TID name a tile of the grid (R15)? -/
def inGrid (tid : Nat) : Bool := tid < 8192 && tid % 128 < 112
/-- Chiplet of a tile: cy x 28 + cx (R14); 448, which is no chiplet, for a TID that names no tile (R15). -/
def chipOf (tid : Nat) : Nat := if 112 ≤ tileX tid then 448 else tileY tid / 4 * 28 + tileX tid / 4
/-- Zone of a tile: zy x 14 + zx (R14). -/
def zoneOf (tid : Nat) : Nat := tileY tid / 8 * 14 + tileX tid / 8
/-- Place of a tile in its chiplet: ly x 4 + lx (R16). -/
def localOf (tid : Nat) : Nat := tileY tid % 4 * 4 + tileX tid % 4
/-- Tile n of a chiplet, by local index (R14). -/
def chipTile (ci n : Nat) : Nat := tidOf (ci % 28 * 4 + n % 4) (ci / 28 * 4 + n / 4)

/-- Identity of a context (R432), and its parts. -/
def ident (tid core ctx : Nat) : Nat := tid + core * 2 ^ 13 + ctx * 2 ^ 16
def idTid (id : Nat) : Nat := id % 2 ^ 13
def idCore (id : Nat) : Nat := id / 2 ^ 13 % 8
def idCtx (id : Nat) : Nat := id / 2 ^ 16 % 16
/-- Key of the context's core. -/
def coreOf (id : Nat) : Nat := id % 2 ^ 16
/-- Identity of context c of a core. -/
def ctxOn (core c : Nat) : Nat := core % 2 ^ 16 + c * 2 ^ 16

/-- The kinds of R12, by place (R13). -/
inductive TileKind where
  | d | a | s | v
deriving DecidableEq, Repr

/-- Kind of a tile (R13). -/
def tileKind (tid : Nat) : TileKind :=
  match localOf tid with
  | 1 | 14 => .a
  | 3 | 12 => .s
  | 8 | 11 => .v
  | _ => .d

/-- The quarry of a module address (R18). -/
def quarryOf (pa : Nat) : Nat := (pa / 2 ^ 12 % 64) ^^^ (pa / 2 ^ 18 % 64)

/-- Attachment tile of a quarry (R17). -/
def attach (q : Nat) : Nat :=
  if q < 20 then tidOf ((112 * q + 56) / 20) 0
  else if q < 40 then tidOf ((112 * (q - 20) + 56) / 20) 63
  else if q < 52 then tidOf 0 ((64 * (q - 40) + 32) / 12)
  else tidOf 111 ((64 * (q - 52) + 32) / 12)

namespace State

/-- Is the tile live (R19)? -/
def live (s : State) (tid : Nat) : Bool := inGrid tid && !s.dark.contains tid

/-- The supervisor tile of a chiplet: its live tile of lowest local index (R16). -/
def superTile (s : State) (ci : Nat) : Option Nat :=
  ((List.range 16).map (chipTile ci)).find? s.live

/-- Is the core the supervisor core of its chiplet (R16)? -/
def isSuper (s : State) (core : Nat) : Bool :=
  idCore core == 0 && s.superTile (chipOf (idTid core)) == some (idTid core)

/-! ### Records by key -/

def ctx (s : State) (id : Nat) : Ctx := getD {} s.ctxs id
def setCtx (s : State) (id : Nat) (c : Ctx) : State := { s with ctxs := put id c s.ctxs }
def modCtx (s : State) (id : Nat) (f : Ctx → Ctx) : State := s.setCtx id (f (s.ctx id))

def core (s : State) (k : Nat) : Core := getD {} s.cores k
def setCore (s : State) (k : Nat) (c : Core) : State := { s with cores := put k c s.cores }
def modCore (s : State) (k : Nat) (f : Core → Core) : State := s.setCore k (f (s.core k))

def tile (s : State) (k : Nat) : Tile := getD {} s.tiles k
def setTile (s : State) (k : Nat) (t : Tile) : State := { s with tiles := put k t s.tiles }
def modTile (s : State) (k : Nat) (f : Tile → Tile) : State := s.setTile k (f (s.tile k))
def modEng (s : State) (k : Nat) (f : Eng → Eng) : State := s.modTile k fun t => { t with eng := f t.eng }

/-- A submission stores its descriptor to the kick register of an engine of a tile (R208, R209). -/
def kick (s : State) (tid unit desc : Nat) : State := s.modEng tid fun e => { e with kicks := put unit desc e.kicks }

def chip (s : State) (k : Nat) : Chip := getD {} s.chips k
def modChip (s : State) (k : Nat) (f : Chip → Chip) : State := { s with chips := put k (f (s.chip k)) s.chips }

def zone (s : State) (k : Nat) : Zone := getD {} s.zones k
def modZone (s : State) (k : Nat) (f : Zone → Zone) : State := { s with zones := put k (f (s.zone k)) s.zones }

def quarry (s : State) (k : Nat) : Quarry := getD {} s.quars k
def modQuarry (s : State) (k : Nat) (f : Quarry → Quarry) : State := { s with quars := put k (f (s.quarry k)) s.quars }
/-- A submission to a quarry unit stores its descriptor to the quarry's kick register (R208, R209). -/
def kickQuarry (s : State) (q desc : Nat) : State := s.modQuarry q fun k => { k with kick := desc }

def space (s : State) (a : Nat) : Space := getD {} s.spaces a
def modSpace (s : State) (a : Nat) (f : Space → Space) : State := { s with spaces := put a (f (s.space a)) s.spaces }

/-- Has a partition capture that is under way stopped the ASID's engine work on a tile (R443 step 1)? -/
def halts (s : State) (tid : Nat) (a : BitVec 10) : Bool := (s.tile tid).frozen.contains a.toNat

/-- The profile of a bound ASID (R408). -/
def profile (s : State) (a : BitVec 10) : Option (BitVec 4096) := (s.space a.toNat).prof

/-- Field [lo+n-1:lo] of the profile, 0 when the ASID is unbound. -/
def profField (s : State) (a : BitVec 10) (lo n : Nat) : Nat :=
  match s.profile a with
  | some p => p.toNat / 2 ^ lo % 2 ^ n
  | none => 0

/-- NFM of the profile (R408). -/
def profNfm (s : State) (a : BitVec 10) : Bool := s.profField a 2 1 == 1

/-- A home notes what it wrote as it listed a node on a future (R238, R244; log 71). -/
def noteListed (s : State) (fut node : Nat) (k : Listed) : State :=
  { s with heads := put fut node s.heads, listed := put node k s.listed }

/-- A fresh free choice among n, and the counter advanced (log 7). -/
def choose (s : State) (n : Nat) : Nat × State := (Config.freeNat s.seq % n, { s with seq := s.seq + 1 })

/-- A word that no rule states, such as an information word (log 7). -/
def openWord (s : State) : Word := Config.freeWord s.seq

/-! ### Who executes, and the packets that it sends -/

/-- A packet of a colour is injected and delivered (R344). -/
def packetOf (s : State) (c : BitVec 4) : State := { s with packets := put c.toNat (getD 0 s.packets c.toNat + 1) s.packets }

/-- A packet of the colour at work is injected and delivered (R343, R344). -/
def packet (s : State) : State := s.packetOf s.cur.colour

/-- The event works for a submitter, with the colour that its work took (R343). -/
def workFor (s : State) (sub : Nat) (colour : BitVec 4) : State := { s with cur := { s.cur with sub := sub, colour := colour } }

/-- A packet of a colour is injected at a tile, or delivered (R344). -/
def inject (s : State) (tid : Nat) (c : BitVec 4) : State :=
  s.modTile tid fun t =>
    let (f, i, d) := getD (0, 0, 0) t.cols c.toNat
    { t with cols := put c.toNat (f + 1, i + 1, d) t.cols }
def dlv (s : State) (tid : Nat) (c : BitVec 4) : State :=
  s.modTile tid fun t =>
    let (f, i, d) := getD (0, 0, 0) t.cols c.toNat
    { t with cols := put c.toNat (f, i, d + 1) t.cols }

/-- A packet that was injected at a tile has left the fabric (R344). -/
def uninject (s : State) (tid : Nat) (c : BitVec 4) : State :=
  s.modTile tid fun t =>
    let (f, i, d) := getD (0, 0, 0) t.cols c.toNat
    { t with cols := put c.toNat (f - 1, i, d) t.cols }

/-- The context that issues. -/
def me (s : State) : Ctx := s.ctx s.cur.id

/-- The registers that the issuing instruction reads: those before the pair (R51). -/
def src (s : State) : Ctx := s.cur.src.getD s.me

/-- The executing context is updated. -/
def modMe (s : State) (f : Ctx → Ctx) : State := s.modCtx s.cur.id f

/-- Tile and core of the executing context. -/
def myTid (s : State) : Nat := idTid s.cur.id
def myCore (s : State) : Nat := coreOf s.cur.id
def myAsid (s : State) : BitVec 10 := s.me.asid

/-- A packet to a tile, if that is another one (R344). -/
def packetTo (s : State) (tid : Nat) : State := if tid = s.myTid then s else s.packet

/-- Is the executing context privileged (R424)? -/
def priv (s : State) : Bool := s.isSuper s.myCore

end State

/-! ### Banks of a tile (R175) -/

def Tile.bank (t : Tile) (b : Nat) : Bank := getD {} t.banks b
def Tile.setBank (t : Tile) (b : Nat) (k : Bank) : Tile := { t with banks := put b k t.banks }
def Tile.bar (t : Tile) (i : Nat) : Bar := getD {} t.bars i
def Tile.slot (t : Tile) (i : Nat) : JobSlot := getD {} t.jobs i

/-- Removes the bytes of a bank: they read as 0 (R177, R183). -/
def Tile.zeroBank (t : Tile) (b : Nat) : Tile :=
  { t with sram := t.sram.filter (fun c => c.1 / 2 ^ 17 != b) }

end Sys2Proof.Machine
end

