-- ==== Sys2Proof/Machine/Mem.lean ====
section
/-! DEFINITION. Bytes at their homes, format windows, and the data caches (R165, R178-R180, R218).

A line is named by its number pl = address / 64 in the model's one physical address space (host lines from 2^51 on). -/

namespace Sys2Proof.Machine

/-- Is the line a line of host memory? -/
def hostLine (pl : Nat) : Bool := Config.hostBase / 64 ≤ pl

/-- The 512-bit mask of a byte mask. -/
def byteMask : Nat → Nat → Nat
  | 0, _ => 0
  | n + 1, k => (if k % 2 = 1 then 255 else 0) + 256 * byteMask n (k / 2)

/-- The byte mask of n bytes from offset o of a line. -/
def maskAt (o n : Nat) : BitVec 64 := BitVec.ofNat 64 ((2 ^ n - 1) * 2 ^ o)

/-- The line with the masked bytes taken from d. -/
def mergeBytes (old d : BitVec 512) (k : BitVec 64) : BitVec 512 :=
  let m := BitVec.ofNat 512 (byteMask 64 k.toNat)
  (old &&& ~~~m) ||| (d &&& m)

/-- The dirty bytes that a line holds (R178): those that it owes to the next level. -/
def CLine.owed (l : CLine) : BitVec 64 := l.valid &&& l.dirty

/-- The line with every byte valid: those that came now are as old as t (R204). -/
def CLine.filled (l : CLine) (d : BitVec 512) (t : Nat) : CLine :=
  { l with data := d, valid := BitVec.allOnes 64,
           since := if l.valid = BitVec.allOnes 64 then l.since else if l.valid = l.dirty then t else Nat.min l.since t }

namespace State

/-- A write performs at a home (R230). -/
def noteWrite (s : State) (h : Home) (line : Nat) : State :=
  { s with mons := s.mons.map fun m => if m.line == line && m.home == h then { m with hit := true } else m }

/-- Partials are combined into the values at their homes: writes there (R225). -/
def gathered (s : State) (p : Mon → Partial → Bool) : State :=
  { s with mons := s.mons.map fun m => if m.part.any (p m) then { m with hit := true } else m }

/-- The partials of a line that a cache holds are combined (R225). -/
def combineIn (s : State) (holder : Home) (line : Nat) : State :=
  s.gathered fun m q => m.line == line && q.holder == holder

/-- An access at a home recalls the partials of the line first (R225). -/
def recallAt (s : State) (h : Home) (line : Nat) : State := s.gathered fun m _ => m.line == line && m.home == h

/-! ### Format windows (R165) -/

/-- The window that covers a module address, if any. -/
def fwinAt (s : State) (pa : Nat) : Option FWin :=
  if Config.moduleBytes ≤ pa then none
  else ((s.quarry (quarryOf pa)).fwins.map (·.2)).find? fun w =>
    w.v && decide (w.base ≤ pa / 4096) && decide (pa / 4096 ≤ w.limit)

/-- Does any byte of n bytes lie under a window? -/
def underFwin (s : State) (pa n : Nat) : Bool := (s.fwinAt pa).isSome || (s.fwinAt (pa + n - 1)).isSome

end State

/-- An element from one entry to another by the target's DRM (R165). -/
def winElem (a b : EntryBits) (code : Nat) : Nat :=
  (fmtOf false b).round (fmtOf false b).drm 0 ((fmtOf false a).decode code)

/-- Converts the elements of c bytes each of a line, n of them. -/
def winLine (a b : EntryBits) (c : Nat) : Nat → Nat → Nat
  | 0, _ => 0
  | n + 1, l => winElem a b (l % 2 ^ (8 * c)) + 2 ^ (8 * c) * winLine a b c n (l / 2 ^ (8 * c))

/-- Encodes back the elements of a line that hold a dirty byte: `img` is the merged image, `old` the stored line. -/
def winBack (se we : EntryBits) (c : Nat) : Nat → Nat → Nat → Nat → Nat
  | 0, _, _, _ => 0
  | n + 1, img, old, k =>
    (if k % 2 ^ c = 0 then old % 2 ^ (8 * c) else winElem we se (img % 2 ^ (8 * c))) +
      2 ^ (8 * c) * winBack se we c n (img / 2 ^ (8 * c)) (old / 2 ^ (8 * c)) (k / 2 ^ c)

namespace State

/-! ### The home of module and host lines -/

/-- The line as its home holds it. -/
def rawLine (s : State) (pl : Nat) : BitVec 512 := BitVec.ofNat 512 (loadLE s.mem (64 * pl) 64)

/-- The line as it fills toward a tile cache (R165). -/
def homeLine (s : State) (pl : Nat) : BitVec 512 :=
  match s.fwinAt (64 * pl) with
  | none => s.rawLine pl
  | some w =>
    let c := (fmtOf false w.se).cbytes
    BitVec.ofNat 512 (winLine w.se w.we c (64 / c) (s.rawLine pl).toNat)

/-- Dirty bytes of a line arrive at the home (R165, R218). -/
def homeStore (s : State) (pl : Nat) (d : BitVec 512) (k : BitVec 64) : State :=
  if k = 0 then s
  else
    let s := (s.noteWrite .quarry pl).packet
    match s.fwinAt (64 * pl) with
    | none => { s with mem := storeMasked s.mem (64 * pl) 64 d.toNat k.toNat }
    | some w =>
      let c := (fmtOf false w.se).cbytes
      let img := mergeBytes (s.homeLine pl) d k
      let n := winBack w.se w.we c (64 / c) img.toNat (s.rawLine pl).toNat k.toNat
      { s with mem := storeLE s.mem (64 * pl) 64 n }

/-- n bytes at an address of the home, without conversion: atomics, walkers, the host (R166, R218). -/
def rawLoad (s : State) (pa n : Nat) : Nat := loadLE s.mem pa n

/-- n bytes are written at the home, without conversion. -/
def rawStore (s : State) (pa n v : Nat) : State :=
  let t := (s.noteWrite .quarry (pa / 64)).packet
  { t with mem := storeLE s.mem pa n v }

/-! ### Tile L2 (R179) -/

/-- The unpooled CACHE banks of a core, in which its misses allocate (R179). -/
def allocBanks (s : State) (core : Nat) : List Nat :=
  let t := s.tile (idTid core)
  (List.range 4).filterMap fun i =>
    let b := 4 * idCore core + i
    if (t.bank b).mode = .cache && !(t.bank b).pool then some b else none

/-- The line as the tile's L2 and pool give it: valid bytes over the home's line. -/
def l2View (s : State) (tid pl : Nat) : BitVec 512 :=
  match find pl (s.tile tid).l2 with
  | some l => mergeBytes (s.homeLine pl) l.data l.valid
  | none => s.homeLine pl

def setL2 (s : State) (tid pl : Nat) (l : CLine) : State := s.modTile tid fun t => { t with l2 := put pl l t.l2 }

/-- The dirty bytes of a line of the tile's L2 go to the home; the line stays, clean. -/
def l2Clean (s : State) (tid pl : Nat) : State :=
  match find pl (s.tile tid).l2 with
  | some l => (s.setL2 tid pl { l with dirty := 0 }).homeStore pl l.data l.owed
  | none => s

/-- A line leaves the tile's L2 for its home, its dirty bytes written back (R179). -/
def l2Evict (s : State) (tid pl : Nat) : State :=
  ((s.combineIn (.l2 tid) pl).l2Clean tid pl).modTile tid fun t => { t with l2 := del pl t.l2 }

/-- Lines of a bank in the tile's L2. -/
def linesIn (s : State) (tid b : Nat) : List Nat := ((s.tile tid).l2.filter fun e => e.2.bank == b).map (·.1)

/-- Lines that a bank of 128 KiB, and an L1 cache of 32 KiB, hold (R175, R178). -/
def bankLines : Nat := 2048
def l1Lines : Nat := 512

/-- Holds a bank of the tile's L2 as many lines as it can?  The tile's L2 holds at least as many as each of its banks. -/
def bankFull (s : State) (tid b : Nat) : Bool :=
  decide (bankLines ≤ (s.tile tid).l2.length) && decide (bankLines ≤ (s.linesIn tid b).length)

/-- One of a list, at will. -/
def pickOf (s : State) (l : List Nat) : Option Nat × State :=
  match l with
  | [] => (none, s)
  | b :: r => let (i, s) := s.choose (r.length + 1); (some ((b :: r).getD i b), s)

/-- The pooled CACHE banks of a tile (R179). -/
def poolBanks (s : State) (tid : Nat) : List Nat :=
  (List.range 32).filter fun b => ((s.tile tid).bank b).mode == .cache && ((s.tile tid).bank b).pool

/-- A full bank loses a line to its home. -/
def roomIn (s : State) (tid b : Nat) : State :=
  if !s.bankFull tid b then s
  else match s.pickOf (s.linesIn tid b) with
    | (some pl, s) => s.l2Evict tid pl
    | (none, s) => s

/-- A line is evicted from a bank of the tile's L2: from an unpooled one into a pooled one, if there is any, else to its
home (R179). -/
def l2Victim (s : State) (tid pl : Nat) : State :=
  match find pl (s.tile tid).l2 with
  | none => s
  | some l =>
    if ((s.tile tid).bank l.bank).pool then s.l2Evict tid pl
    else match s.pickOf (s.poolBanks tid) with
      | (none, s) => s.l2Evict tid pl
      | (some b, s) => (s.roomIn tid b).setL2 tid pl { l with bank := b }

/-- A bank for a new line of the core's, if it allocates at all; a full bank loses a line first (R178, R179). -/
def pickBank (s : State) (core : Nat) : Option Nat × State :=
  match s.pickOf (s.allocBanks core) with
  | (none, s) => (none, s)
  | (some b, s) =>
    if !s.bankFull (idTid core) b then (some b, s)
    else match s.pickOf (s.linesIn (idTid core) b) with
      | (some pl, s) => (some b, s.l2Victim (idTid core) pl)
      | (none, s) => (some b, s)

/-- The line on its way to a core's L1: filled in L2 when it is there or may be allocated (R178, R179). -/
def l2Fill (s : State) (core pl : Nat) : BitVec 512 × State :=
  let tid := idTid core
  let s := (s.recallAt (.l2 tid) pl).combineIn (.l2 tid) pl
  let d := s.l2View tid pl
  match find pl (s.tile tid).l2 with
  | some l => (d, (if l.valid = BitVec.allOnes 64 then s else (s.recallAt .quarry pl).packet).setL2 tid pl (l.filled d s.seq))
  | none =>
    match (s.recallAt .quarry pl).packet.pickBank core with
    | (some b, s) => (d, s.setL2 tid pl { data := d, valid := BitVec.allOnes 64, bank := b, since := s.seq })
    | (none, s) => (d, s)

/-- Dirty bytes reach the tile's L2: from a core (which may allocate a line), or from an engine (none). -/
def l2Store (s : State) (tid : Nat) (core : Option Nat) (pl : Nat) (d : BitVec 512) (k : BitVec 64) : State :=
  if k = 0 then s
  else
    let s := (s.combineIn (.l2 tid) pl).noteWrite (.l2 tid) pl
    match find pl (s.tile tid).l2 with
    | some l => s.setL2 tid pl { l with data := mergeBytes l.data d k, valid := l.valid ||| k, dirty := l.dirty ||| k }
    | none =>
      match core with
      | none => s.homeStore pl d k
      | some c =>
        match s.pickBank c with
        | (some b, s) => s.setL2 tid pl { data := d, valid := k, dirty := k, bank := b, since := s.seq }
        | (none, s) => s.homeStore pl d k

/-! ### L1D (R178) -/

def setL1 (s : State) (core pl : Nat) (l : CLine) : State := s.modCore core fun c => { c with l1d := put pl l c.l1d }

/-- The dirty bytes of a line of the core's L1D go to the tile's L2; the line stays, clean. -/
def l1Clean (s : State) (core pl : Nat) : State :=
  match find pl (s.core core).l1d with
  | some l => (s.setL1 core pl { l with dirty := 0 }).l2Store (idTid core) (some core) pl l.data l.owed
  | none => s

/-- A line leaves the core's L1D, its dirty bytes written back (R178). -/
def l1Evict (s : State) (core pl : Nat) : State :=
  ((s.combineIn (.l1 core) pl).l1Clean core pl).modCore core fun c => { c with l1d := del pl c.l1d }

/-- A line of code with an error that flips a bit of its first slot. -/
def badLine (d : BitVec 512) : BitVec 512 := d ^^^ BitVec.twoPow 512 480

/-- Room for a line in the core's L1D: a full cache loses one (R178). -/
def l1Room (s : State) (core pl : Nat) : State :=
  let l := (s.core core).l1d
  if (find pl l).isSome || l.length < l1Lines then s
  else match s.pickOf (l.map (·.1)) with
    | (some v, s) => s.l1Evict core v
    | (none, s) => s

/-- The line in the core's L1D with the bytes of k valid (R178). -/
def l1Line (s : State) (core pl : Nat) (k : BitVec 64) : BitVec 512 × State :=
  let l := getD {} (s.core core).l1d pl
  let s := s.combineIn (.l1 core) pl
  if k &&& ~~~l.valid = 0 then (l.data, s)
  else
    let s := s.l1Room core pl
    let (d, s) := s.l2Fill core pl
    let d := mergeBytes d l.data l.valid
    let t := match find pl (s.tile (idTid core)).l2 with
      | some e => e.since
      | none => s.seq
    (d, s.setL1 core pl (l.filled d t))

/-- A store of the bytes k of d (R178). -/
def l1Store (s : State) (core pl : Nat) (d : BitVec 512) (k : BitVec 64) : State :=
  let s := (s.combineIn (.l1 core) pl).l1Room core pl
  let l := getD {} (s.core core).l1d pl
  (s.setL1 core pl { l with data := mergeBytes l.data d k, valid := l.valid ||| k, dirty := l.dirty ||| k }).noteWrite
    (.l1 core) pl

/-! ### Release and acquire (R180) -/

/-- Keys of a list. -/
def keysOf {α : Type} (l : List (Nat × α)) : List Nat := l.map (·.1)

/-- Does a release or acquire at the scope go past the tile's L2 for this line (R180)? -/
def pastL2 (sc : Scope) (pl : Nat) : Bool :=
  match sc with
  | .co | .ti => false
  | .mo => !hostLine pl
  | .sy => true

/-- A release at a scope by a context of a core (R180). -/
def release (s : State) (core : Nat) (sc : Scope) : State :=
  match sc with
  | .co => s
  | _ =>
    let s := s.gathered fun _ q => q.holder == .l1 core || (sc != .ti && q.holder == .l2 (idTid core))
    let s := (keysOf (s.core core).l1d).foldl (fun s pl => s.l1Clean core pl) s
    (keysOf (s.tile (idTid core)).l2).foldl (fun s pl => if pastL2 sc pl then s.l2Clean (idTid core) pl else s) s

/-- The clean bytes of a cache are dropped; a line without dirty bytes goes. -/
def dropClean (p : Nat → Bool) (l : List (Nat × CLine)) : List (Nat × CLine) :=
  l.filterMap fun e => if p e.1 then (if e.2.owed = 0 then none else some (e.1, { e.2 with valid := e.2.owed })) else some e

/-- An acquire at a scope by a context of a core (R180). -/
def acquire (s : State) (core : Nat) (sc : Scope) : State :=
  match sc with
  | .co => s
  | _ =>
    let s := s.modCore core fun c => { c with l1d := dropClean (fun _ => true) c.l1d }
    s.modTile (idTid core) fun t => { t with l2 := dropClean (pastL2 sc) t.l2 }

/-- Release and acquire of an engine of a tile, which uses no L1 (R207). -/
def engRelease (s : State) (tid : Nat) (sc : Scope) : State :=
  (keysOf (s.tile tid).l2).foldl (fun s pl => if pastL2 sc pl then s.l2Clean tid pl else s) s
def engAcquire (s : State) (tid : Nat) (sc : Scope) : State :=
  s.modTile tid fun t => { t with l2 := dropClean (pastL2 sc) t.l2 }

/-- CWB and CINV of a line at a scope (R193). -/
def lineBack (s : State) (core pl : Nat) (sc : Scope) (drop : Bool) : State :=
  match sc with
  | .co => s
  | _ =>
    let s := (s.combineIn (.l1 core) pl).l1Clean core pl
    let s := if pastL2 sc pl then (s.combineIn (.l2 (idTid core)) pl).l2Clean (idTid core) pl else s
    if drop then
      let s := s.modCore core fun c => { c with l1d := del pl c.l1d, l1i := del pl c.l1i }
      if pastL2 sc pl then s.modTile (idTid core) fun t => { t with l2 := del pl t.l2 } else s
    else s

/-! ### Plain accesses to module and host lines, within one line -/

/-- A clean copy that is older than the load which the instruction's address depends on is no value for it (R203 case 7,
R204). -/
def staleLine (t : Nat) (l : List (Nat × CLine)) (pl : Nat) : List (Nat × CLine) :=
  match find pl l with
  | some e => if e.since < t then dropClean (· == pl) l else l
  | none => l

/-- An access whose address depends on an earlier load reads no older clean copy of the line (R203 case 7). -/
def freshen (s : State) (core pl : Nat) : State :=
  if s.cur.adep = 0 then s
  else (s.modCore core fun c => { c with l1d := staleLine s.cur.adep c.l1d pl }).modTile (idTid core) fun t =>
    { t with l2 := staleLine s.cur.adep t.l2 pl }

/-- The executing instruction loads: its results depend on it (R204). -/
def loaded (s : State) : State := { s with cur := { s.cur with dep := Nat.max s.cur.dep s.seq } }

/-- Is one of the bytes k of a line not written back by the core or its tile? -/
def owedAt (s : State) (core pl : Nat) (k : BitVec 64) : Bool :=
  ((getD {} (s.core core).l1d pl).owed ||| (getD {} (s.tile (idTid core)).l2 pl).owed) &&& k != 0

/-- The executing context loads the bytes k of a line.  Of bytes that are not yet written back it is noted: what follows
the load in the order of an agent follows the store too, for every agent (R203, R206). -/
def noteSeen (s : State) (core pl : Nat) (k : BitVec 64) : State :=
  if s.owedAt core pl k then
    s.modMe fun c => { c with seen := (pl, s.seq) :: c.seen.filter fun e => s.owedAt core e.1 (BitVec.allOnes 64) }
  else s

/-- The bytes that loads of the executing context with certain counts returned are written back to the coherence point of a
scope (R206). -/
def reveal (s : State) (p : Nat → Bool) (sc : Scope) : State :=
  (s.me.seen.filter fun e => p e.2).foldl (fun s e => s.lineBack s.myCore e.1 sc false) s

/-- n bytes at pa as a context of the core loads them (R178). -/
def l1Load (s : State) (core pa n : Nat) : Nat × State :=
  let s := ((s.freshen core (pa / 64)).noteSeen core (pa / 64) (maskAt (pa % 64) n)).loaded
  let (d, s) := s.l1Line core (pa / 64) (maskAt (pa % 64) n)
  (d.toNat / 2 ^ (8 * (pa % 64)) % 2 ^ (8 * n), s)

/-- n bytes at pa as a context of the core stores them (R178). -/
def l1Write (s : State) (core pa n v : Nat) : State :=
  s.l1Store core (pa / 64) (BitVec.ofNat 512 (v % 2 ^ (8 * n) * 2 ^ (8 * (pa % 64)))) (maskAt (pa % 64) n)

/-- n bytes at pa as an engine of the tile loads them (R207). -/
def l2Load (s : State) (tid pa n : Nat) : Nat := (s.l2View tid (pa / 64)).toNat / 2 ^ (8 * (pa % 64)) % 2 ^ (8 * n)

/-- Such a load recalls the partials of the line (R225), and sends a packet unless the tile's L2 has the bytes (R344). -/
def l2Packet (s : State) (tid pa n : Nat) : State :=
  let s := (s.recallAt (.l2 tid) (pa / 64)).combineIn (.l2 tid) (pa / 64)
  if maskAt (pa % 64) n &&& ~~~(getD {} (s.tile tid).l2 (pa / 64)).valid = 0 then s
  else (s.recallAt .quarry (pa / 64)).packet

/-- n bytes at pa as an engine of the tile stores them (R207). -/
def l2Write (s : State) (tid pa n v : Nat) : State :=
  s.l2Store tid none (pa / 64) (BitVec.ofNat 512 (v % 2 ^ (8 * n) * 2 ^ (8 * (pa % 64)))) (maskAt (pa % 64) n)

/-- The context's own dirty copies of a line go home and its clean copies are dropped, so that an atomic at the home
follows its agent's earlier accesses (R203 case 1, R218). -/
def pushHome (s : State) (core pl : Nat) : State :=
  ((s.recallAt .quarry pl).l1Evict core pl).l2Evict (idTid core) pl

/-! ### Bank bytes (R184, R200) -/

/-- A bank that has lost power powers up at its next access (R183). -/
def bankOn (s : State) (tid off : Nat) : State :=
  let b := off / 2 ^ 17
  if ((s.tile tid).bank b).on then s else s.modTile tid fun t => t.setBank b { t.bank b with on := true }

def bankLoad (s : State) (tid off n : Nat) : Nat := loadLE (s.tile tid).sram off n
def bankStore (s : State) (tid off n v : Nat) : State :=
  let b := off / 2 ^ 17
  (s.modTile tid fun t =>
    let k := t.bank b
    let t := if k.on then t else t.setBank b { k with on := true }
    { t with sram := storeLE t.sram off n v }).noteWrite (.ni tid) (off / 64)

end State
end Sys2Proof.Machine
end

