-- ==== Sys2Proof/Machine/Image.lean ====
section
/-! DEFINITION. The context image (R441) by 64-bit words, and results on their way (R78-R82). -/

namespace Sys2Proof.Machine

/-! ### Register values of a context -/

/-- Writes a register or predicate; x0, p0 and k0 are not written (R7, R123). -/
def Ctx.put (c : Ctx) (w : RegWrite) : Ctx :=
  match w with
  | .x r v => if r.val = 0 then c else { c with x := c.x.set r.val v r.isLt }
  | .p r b => if r.val = 0 then c else { c with p := c.p.set r.val b r.isLt }
  | .v r v => { c with v := c.v.set r.val v r.isLt }
  | .k r v => if r.val = 0 then c else { c with k := c.k.set r.val v r.isLt }
  | .h r v => { c with h := c.h.set r.val v r.isLt }

/-- Do two writes name one register? -/
def RegWrite.same : RegWrite → RegWrite → Bool
  | .x a _, .x b _ => a == b
  | .p a _, .p b _ => a == b
  | .v a _, .v b _ => a == b
  | .k a _, .k b _ => a == b
  | .h a _, .h b _ => a == b
  | _, _ => false

/-- A write of a register has taken effect over older results on their way (R80): those of fixed latency are gone, those
of long latency are discarded when they arrive, and the faults and statuses that they bring remain (R82, R212). -/
def supersede (w : RegWrite) (l : List Pend) : List Pend :=
  l.filterMap fun o => if !o.wr.same w then some o else if o.due.isSome then none else some { o with dead := true }

/-- Entry n of a list of results arrives: it is written, unless a later write has taken effect, and older results for its
register will be discarded (R80). A fault that it carries is kept instead, and the register stays unwritten (R82).  A value
that bank accesses or a bank's change still have to bring does not arrive. -/
def Ctx.arrive (c : Ctx) (n : Nat) : Ctx :=
  match c.pend[n]? with
  | none => c
  | some e =>
    if e.grp ≠ 0 || e.cfg.isSome then c else
    match e.flt with
    | some f => { c with pend := dropNth c.pend n, late := some (c.late.getD { flt := f, pc := e.pc, home := e.atom }) }
    | none =>
      if e.dead then { c with pend := dropNth c.pend n }
      else { c.put e.wr with pend := supersede e.wr (c.pend.take n) ++ c.pend.drop (n + 1) }

/-- Results whose time has come are written, in order of issue (R78). -/
def Ctx.settle (c : Ctx) (now : Nat) : Nat → Ctx
  | 0 => c
  | fuel + 1 =>
    match c.pend.findIdx? (fun e => match e.due with | some t => t ≤ now | none => false) with
    | some n => (c.arrive n).settle now fuel
    | none => c

/-- Every result of fixed latency is written, in order of issue (R81). -/
def Ctx.land (c : Ctx) : Ctx := c.settle (c.pend.foldl (fun m e => Nat.max m (e.due.getD 0)) 0) c.pend.length

/-- Does the context with an incomplete image wait for something still (R81)? -/
def Ctx.whole (c : Ctx) : Bool := !(c.pend.any fun e => e.due.isNone) && c.accs.isEmpty && c.status.isEmpty

/-- Is a long-latency result outstanding (R79)? -/
def Ctx.owes (c : Ctx) : Bool := c.pend.any fun e => e.due.isNone

/-- What an instruction of the context reads, if it issues now (R51, R78). -/
def Ctx.reads (c : Ctx) (pick : Nat) : Reads :=
  { x := c.x, p := c.p, v := c.v, k := c.k, h := c.h, ft := c.ft, nfm := c.nfm, rm := c.rm, pend := c.pend, pick := pick }

/-- The context as an instruction that issued earlier reads it. -/
def Ctx.asRead (c : Ctx) (r : Reads) : Ctx :=
  { c with x := r.x, p := r.p, v := r.v, k := r.k, h := r.h, ft := r.ft, nfm := r.nfm, rm := r.rm, pend := r.pend }

/-- An instruction that waits is unexecuted: it will be fetched and executed again (R440).  The second of a pair still reads
what both read (R51). -/
def Ctx.unissued (c : Ctx) : Ctx :=
  { c with st := .ready, wait := .none, answer := .none, held := none, before := if c.alone then c.before else none,
           capt := false, taken := false }

/-- The image words that hold a register (R441). -/
def RegWrite.words : RegWrite → List Nat
  | .x r _ => [8 + r.val]
  | .p _ _ => [80]
  | .v r _ => (List.range 16).map (256 + 16 * r.val + ·)
  | .k r _ => [79 + 2 * r.val, 80 + 2 * r.val]
  | .h r _ => (List.range 8).map (192 + 8 * r.val + ·)

/-! ### Fault codes (R430) -/

/-- The 8-bit value of a fault code (R430). -/
def Code.num : Code → Nat
  | .illegalOpcode => 0x01 | .illegalEncoding => 0x02 | .illegalLine => 0x03 | .illegalPair => 0x04
  | .illegalTarget => 0x05 | .instrParity => 0x06 | .privilege => 0x07 | .trap => 0x08 | .loopRange => 0x09
  | .sysreg => 0x0A | .ctxState => 0x0B | .debugStep => 0x0C | .debugBrk => 0x0D | .badPath => 0x10
  | .misaligned => 0x11 | .xlateMiss => 0x12 | .xlatePerm => 0x13 | .xlateFormat => 0x14 | .tileDark => 0x15
  | .tilePerm => 0x16 | .dataUncorr => 0x17 | .bankMode => 0x18 | .bankAsid => 0x19 | .bankOwner => 0x1A
  | .ringAddr => 0x1B | .ringBusy => 0x1C | .fwinAtomic => 0x1D | .illegalEntry => 0x20 | .entryKind => 0x21
  | .formatMismatch => 0x22 | .futureAddr => 0x28 | .futureOwned => 0x29 | .doubleResolve => 0x2A
  | .joinUnderflow => 0x2B | .barOutsideGang => 0x2C | .barNotMember => 0x2D | .barNoval => 0x2E
  | .barMismatch => 0x2F | .barState => 0x30 | .barAsid => 0x31 | .barOwner => 0x32 | .barTree => 0x33
  | .taskMsg => 0x38 | .taskTarget => 0x39 | .taskPerm => 0x3A | .regionClosed => 0x3B | .asidUnbound => 0x3C
  | .asidProfile => 0x3D | .colourPerm => 0x3E | .jobKind => 0x40 | .jobDesc => 0x41 | .jobMem => 0x42
  | .jobDep => 0x43 | .jobCap => 0x44 | .jobTarget => 0x45 | .jobId => 0x46 | .jobCancelled => 0x47
  | .jobRecord => 0x48 | .topkState => 0x49 | .handleDesc => 0x50 | .handleRange => 0x51 | .binFull => 0x52
  | .binSlot => 0x53 | .binDesc => 0x54 | .binIndex => 0x55 | .winFault => 0x58 | .winBusy => 0x59
  | .winDesc => 0x5A | .chainDesc => 0x60 | .chainId => 0x61 | .claimDesc => 0x62 | .arcEntry => 0x63
  | .arcDesc => 0x64 | .tokenArg => 0x65 | .tokenTarget => 0x66 | .softCorr => 0x7E

/-- Every fault code. -/
def Code.all : List Code :=
  [.illegalOpcode, .illegalEncoding, .illegalLine, .illegalPair, .illegalTarget, .instrParity, .privilege, .trap,
   .loopRange, .sysreg, .ctxState, .debugStep, .debugBrk, .badPath, .misaligned, .xlateMiss, .xlatePerm, .xlateFormat,
   .tileDark, .tilePerm, .dataUncorr, .bankMode, .bankAsid, .bankOwner, .ringAddr, .ringBusy, .fwinAtomic,
   .illegalEntry, .entryKind, .formatMismatch, .futureAddr, .futureOwned, .doubleResolve, .joinUnderflow,
   .barOutsideGang, .barNotMember, .barNoval, .barMismatch, .barState, .barAsid, .barOwner, .barTree, .taskMsg,
   .taskTarget, .taskPerm, .regionClosed, .asidUnbound, .asidProfile, .colourPerm, .jobKind, .jobDesc, .jobMem,
   .jobDep, .jobCap, .jobTarget, .jobId, .jobCancelled, .jobRecord, .topkState, .handleDesc, .handleRange, .binFull,
   .binSlot, .binDesc, .binIndex, .winFault, .winBusy, .winDesc, .chainDesc, .chainId, .claimDesc, .arcEntry,
   .arcDesc, .tokenArg, .tokenTarget, .softCorr]

/-- The fault code of a number. -/
def Code.ofNum (n : Nat) : Code := (Code.all.find? (fun c => c.num == n)).getD .trap

/-! ### Image words (R441) -/

/-- CSTAT of a context (R426). -/
def Ctx.cstat (c : Ctx) (priv : Bool) : Word :=
  W (c.rm.toNat + b2n c.nfm * 8 + c.colour.toNat * 16 + c.cls.toNat * 256 + b2n priv * 1024 + b2n c.gang.isSome * 2048)

/-- The CHILD register: bits [10:1]. -/
def Ctx.childWord (c : Ctx) : Word := W (c.child.toNat / 2 * 2 % 2048)

/-- The bits of a list, bit i for element i. -/
def bitsOf : List Bool → Nat
  | [] => 0
  | b :: r => b2n b + 2 * bitsOf r

/-- STATE of word 0. -/
def Ctx.imageState (c : Ctx) : Nat :=
  match c.st, c.wait with
  | .faulted, _ => 2
  | .parked, .line _ => 0
  | .parked, _ => if c.susp then 0 else 1
  | _, _ => 0

/-- WAIT of word 0. -/
def Ctx.imageWait (c : Ctx) : Nat :=
  if c.susp then 4
  else match c.st, c.wait with
    | .parked, .switch => 1
    | _, .barrier _ => 3
    | .parked, .none | .parked, .line _ => 0
    | .parked, _ => 2
    | _, _ => 0

/-- EVT: the result of a barrier release that the context has not consumed (R440). -/
def Ctx.imageEvt (c : Ctx) : Bool :=
  match c.wait, c.answer with
  | .barrier _, .val _ => true
  | _, _ => false

/-- Is a result for the register on its way? -/
def Ctx.pendX (c : Ctx) (i : Nat) : Bool := c.pend.any fun e => match e.wr with | .x r _ => i != 0 && r.val == i | _ => false
def Ctx.pendP (c : Ctx) : Bool := c.pend.any fun e => match e.wr with | .p _ _ => true | _ => false
def Ctx.pendV (c : Ctx) (i : Nat) : Bool := c.pend.any fun e => match e.wr with | .v r _ => r.val == i | _ => false
def Ctx.pendK (c : Ctx) (i : Nat) : Bool := c.pend.any fun e => match e.wr with | .k r _ => r.val == i | _ => false
def Ctx.pendH (c : Ctx) (i : Nat) : Bool := c.pend.any fun e => match e.wr with | .h r _ => r.val == i | _ => false

/-- 64-bit word i of a wide value. -/
def wordOf {n : Nat} (v : BitVec n) (i : Nat) : Word := W (v.toNat / 2 ^ (64 * i))

/-- A wide value with its 64-bit word i replaced. -/
def withWord {n : Nat} (v : BitVec n) (i : Nat) (w : Word) : BitVec n :=
  BitVec.ofNat n (v.toNat - v.toNat / 2 ^ (64 * i) % 2 ^ 64 * 2 ^ (64 * i) + w.toNat * 2 ^ (64 * i))

/-- Word n of the image of a context with the identity id (R441). -/
def imageWord (priv : Bool) (id : Nat) (c : Ctx) (n : Nat) : Word :=
  if n = 0 then
    W (1 + c.imageState * 2 ^ 4 + c.imageWait * 2 ^ 8 + c.asid.toNat * 2 ^ 16 + idTid id * 2 ^ 32 +
      idCore id * 2 ^ 45 + idCtx id * 2 ^ 48 + b2n (!c.pend.isEmpty || !c.accs.isEmpty) * 2 ^ 52 + b2n c.imageEvt * 2 ^ 53)
  else if n = 1 then c.pc
  else if n = 2 then W (bitsOf ((List.range 64).map c.pendX))
  else if n = 3 then W (bitsOf ((List.range 32).map c.pendV) + bitsOf ((List.range 7).map fun i => c.pendK (i + 1)) * 2 ^ 32
    + b2n c.pendP * 2 ^ 39 + bitsOf ((List.range 8).map c.pendH) * 2 ^ 40)
  else if n = 4 then (match c.late with | some l => W (l.flt.code.num + 256) | none => 0)
  else if n = 5 then (match c.late with | some l => l.flt.info | none => 0)
  else if n = 6 then (match c.wait, c.answer with | .barrier _, .val w => w | _, _ => 0)
  else if n = 7 then
    (match c.gang with
    | some (_, r) => W (r + 2 ^ 32 + 15 * 2 ^ 33)
    | none => W (c.parent.getD 15 * 2 ^ 33))
  else if n < 72 then c.x.toList.getD (n - 8) 0
  else if n < 79 then
    [c.l0.lc, c.l0.ls, c.l0.le, c.l1.lc, c.l1.ls, c.l1.le, W (b2n c.l0.armed + 2 * b2n c.l1.armed)].getD (n - 72) 0
  else if n = 80 then W (bitsOf (true :: c.p.toList.drop 1))
  else if 81 ≤ n && n < 95 then wordOf (c.k.toList.getD ((n - 81) / 2 + 1) 0) ((n - 81) % 2)
  else if n = 96 then c.cstat priv
  else if n = 97 then c.srkey
  else if n = 98 then wordOf c.srctr 0
  else if n = 99 then wordOf c.srctr 1
  else if n = 100 then c.childWord
  else if n = 101 then c.retain.getD (getD 0 c.idle 101)
  else if n = 102 then W (b2n c.retain.isSome)
  else if 103 ≤ n && n < 110 then
    (match c.bind with
    | none => getD 0 c.idle n
    | some b =>
      if n < 107 then wordAt b.desc (n - 103)
      else if n = 107 then W (b.ent + 256)
      else wordOf b.tft (n - 108))
  else if n = 110 then c.brk.getD (getD 0 c.idle 110)
  else if n = 111 then W (b2n c.brk.isSome)
  else if n = 112 then (match c.late with | some l => l.pc | none => getD 0 c.idle 112)
  else if 128 ≤ n && n < 176 then wordOf (c.ft.toList.getD ((n - 128) / 2) 0) ((n - 128) % 2)
  else if 192 ≤ n && n < 256 then wordOf (c.h.toList.getD ((n - 192) / 8) 0) ((n - 192) % 8)
  else if 256 ≤ n && n < 768 then wordOf (c.v.toList.getD ((n - 256) / 16) 0) ((n - 256) % 16)
  else 0

/-- An element of a vector is replaced. -/
def setV {α : Type} {n : Nat} (v : Vector α n) (i : Nat) (a : α) : Vector α n := v.setIfInBounds i a

/-- An image word whose valid bit is 0 keeps what is written to it (R434). -/
def Ctx.keepIdle (c : Ctx) (n : Nat) (w : Word) : Ctx := { c with idle := if w = 0 then del n c.idle else Machine.put n w c.idle }

/-- Word n of the image is written into a context: what CTXWR and a restore set (R434, R441).  Words that the image
does not let be written leave it. -/
def Ctx.setImageWord (c : Ctx) (n : Nat) (w : Word) : Ctx :=
  if n = 1 then { c with pc := w, alone := c.alone && w == c.pc, before := if w == c.pc then c.before else none }
  else if 9 ≤ n && n < 72 then { c with x := setV c.x (n - 8) w }
  else if n = 72 then { c with l0 := { c.l0 with lc := w } }
  else if n = 73 then { c with l0 := { c.l0 with ls := w } }
  else if n = 74 then { c with l0 := { c.l0 with le := w } }
  else if n = 75 then { c with l1 := { c.l1 with lc := w } }
  else if n = 76 then { c with l1 := { c.l1 with ls := w } }
  else if n = 77 then { c with l1 := { c.l1 with le := w } }
  else if n = 78 then { c with l0 := { c.l0 with armed := Bit w 0 }, l1 := { c.l1 with armed := Bit w 1 } }
  else if n = 80 then { c with p := Vector.ofFn fun i => if i.val = 0 then false else Bit w i.val }
  else if 81 ≤ n && n < 95 then
    let i := (n - 81) / 2 + 1
    { c with k := setV c.k i (withWord (c.k.toList.getD i 0) ((n - 81) % 2) w) }
  else if n = 96 then { c with rm := BitVec.ofNat 3 w.toNat }
  else if n = 97 then { c with srkey := w }
  else if n = 98 then { c with srctr := withWord c.srctr 0 w }
  else if n = 99 then { c with srctr := withWord c.srctr 1 w }
  else if n = 101 then
    (match c.retain with
    | some _ => { c with retain := some w }
    | none => c.keepIdle 101 w)
  else if n = 102 then
    (match Bit w 0, c.retain with
    | true, none => { c with retain := some (getD 0 c.idle 101) }
    | false, some v => { c with retain := none }.keepIdle 101 v
    | _, _ => c)
  else if 103 ≤ n && n < 110 then
    (match c.bind with
    | none => c.keepIdle n w
    | some b =>
      if n < 107 then { c with bind := some { b with desc := setNth b.desc (n - 103) w } }
      else if n = 107 then { c with bind := some { b with ent := w.toNat % 32 } }
      else { c with bind := some { b with tft := withWord b.tft (n - 108) w } })
  else if n = 110 then
    (match c.brk with
    | some _ => { c with brk := some w }
    | none => c.keepIdle 110 w)
  else if n = 111 then
    (match Bit w 0, c.brk with
    | true, none => { c with brk := some (getD 0 c.idle 110) }
    | false, some v => { c with brk := none }.keepIdle 110 v
    | _, _ => c)
  else if n = 112 then
    (match c.late with
    | some l => { c with late := some { l with pc := w } }
    | none => c.keepIdle 112 w)
  else if 128 ≤ n && n < 176 then
    let i := (n - 128) / 2
    { c with ft := setV c.ft i (withWord (c.ft.toList.getD i 0) ((n - 128) % 2) w) }
  else if 192 ≤ n && n < 256 then
    let i := (n - 192) / 8
    { c with h := setV c.h i (withWord (c.h.toList.getD i 0) ((n - 192) % 8) w) }
  else if 256 ≤ n && n < 768 then
    let i := (n - 256) / 16
    { c with v := setV c.v i (withWord (c.v.toList.getD i 0) ((n - 256) % 16) w) }
  else c

/-- An image of a context that a quota suspension held in place at a barrier (R447): it shows READY and WAIT 4, and the
context still waits for the release of the barrier (R440). -/
def Ctx.heldAtBar (base : Ctx) (w : Word) : Bool :=
  match base.wait with
  | .barrier _ => base.susp && w.toNat / 256 % 256 == 4
  | _ => false

/-- A context as its image in memory has it now, over what the image does not show (R446). -/
def Ctx.ofImage (base : Ctx) (word : Nat → Word) : Ctx :=
  -- the valid bits come before the values that they make valid
  let c := ((List.range 768).foldl (fun c n => if n = 102 || n = 111 then c.setImageWord n (word n) else c) base)
  let c := (List.range 768).foldl (fun c n => if n = 102 || n = 111 then c else c.setImageWord n (word n)) c
  let st := (word 96).toNat
  let go : CtxSt := match (word 0).toNat / 16 % 16 with
    | 2 => .faulted
    | 1 => .parked
    | _ => .ready
  let wait := match base.wait with
    | .ending => .ending
    | w => if (word 0).toNat / 256 % 256 = 3 || base.heldAtBar (word 0) then w else .none
  { c with st := if base.heldAtBar (word 0) then base.st else go, wait := wait, nfm := st / 8 % 2 == 1, colour := BitVec.ofNat 4 (st / 16), cls := BitVec.ofNat 2 (st / 256),
           child := BitVec.ofNat 11 ((word 100).toNat / 2 * 2), asid := BitVec.ofNat 10 ((word 0).toNat / 2 ^ 16),
           late := if (word 4).toNat / 256 % 2 = 1 then
               some { flt := { code := Code.ofNum ((word 4).toNat % 256), info := word 5 }, pc := word 112 } else none,
           answer := if (word 0).toNat / 2 ^ 53 % 2 = 1 then .val (word 6) else .none }

namespace State

/-- The image of a context is written at a physical address (R441). -/
def writeImage (s : State) (pa id : Nat) (c : Ctx) : State :=
  (List.range 768).foldl (fun s n => s.rawStore (pa + 8 * n) 8 (imageWord (s.isSuper (coreOf id)) id c n).toNat) s

/-- A context from its image at a physical address. -/
def readImage (s : State) (pa : Nat) (base : Ctx) : Ctx := base.ofImage fun n => W (s.rawLoad (pa + 8 * n) 8)

end State
end Sys2Proof.Machine
end

