-- ==== Sys2Proof/Machine/Translate.lean ====
section
/-! DEFINITION. Address spaces and translation (R184, R407-R419), guarded bytes (R211, R335, R339), and accesses of
contexts and engines by effective address. -/

namespace Sys2Proof.Machine

/-- Who makes an access: its tile, its core if it is a context (R207), its ASID, and the ENG condition (R413). -/
structure Agent where
  tid  : Nat
  core : Option Nat
  asid : BitVec 10
  eng  : Bool := false
  /-- Identity of a context, and its colour (R339, R343). -/
  sub  : Nat := 0
  colour : BitVec 4 := 0
deriving DecidableEq, Repr

/-- Where an access lands (R184, R456). -/
inductive Loc where
  | mem (pa : Nat)
  | bank (tid off : Nat)
  | sys (sel : Nat)
  | peer (p off : Nat)
deriving DecidableEq, Repr

/-- Why an instruction does not complete: it raises a fault, or its context waits with the state as it then stands. -/
inductive Stop where
  | flt (f : Flt)
  | wait (w : Wait) (s : State)
  /-- A late fault is raised at the held instruction (R212). -/
  | late (l : Late)

/-- A computation that may stop. -/
abbrev M := Except Stop

/-- Raises a fault. -/
def fail {α : Type} (c : Code) (info : Word) : M α := .error (.flt { code := c, info := info })

/-- A fault raised when a condition holds. -/
def failIf (b : Bool) (c : Code) (info : Word) : M Unit := if b then fail c info else .ok ()

/-- AK of R414. -/
def accCode : AccKind → Nat
  | .load | .line => 0
  | .store => 1
  | .fetch => 2
  | .rdwr => 3

/-- Does the access write? -/
def accWrites : AccKind → Bool
  | .store | .rdwr => true
  | _ => false

/-- Does a leaf grant the access (R413)? -/
def leafGrants (leaf : Word) (k : AccKind) (eng : Bool) : Bool :=
  (match k with
    | .load => Bit leaf 1
    | .store => Bit leaf 2
    | .rdwr => Bit leaf 1 && Bit leaf 2
    | .fetch => Bit leaf 3
    | .line => Bit leaf 1 || Bit leaf 2 || Bit leaf 3) && (!eng || Bit leaf 4)

/-- Does a leaf's HOST admit the path of an access?  A fetch is on path 0 alone (R46, R413). -/
def leafOnPath (leaf : Word) (path : Nat) (k : AccKind) : Bool :=
  if Bit leaf 8 then path == 4 && k != .fetch else path == 0

/-- The information word of R414. -/
def xlateInfo (va lvl : Nat) (k : AccKind) : Word := W (va % 2 ^ 57 + lvl * 2 ^ 57 + accCode k * 2 ^ 60)

/-- Bytes that a leaf maps, by level (R410). -/
def leafSize (lvl : Nat) : Nat := if lvl = 2 then 2 ^ 30 else if lvl = 3 then 2 ^ 21 else 2 ^ 16

/-- Level of a leaf, by its bytes. -/
def sizeLevel (size : Nat) : Nat := if size = 2 ^ 30 then 2 else if size = 2 ^ 21 then 3 else 4

/-- Index of a VA at a level (R410). -/
def levelIndex (lvl va : Nat) : Nat := if lvl = 4 then va / 2 ^ 16 % 32 else va / 2 ^ (48 - 9 * lvl) % 512

/-- Does an entry break R411 at its level? -/
def entryBad (lvl : Nat) (e : Word) : Bool :=
  let leaf := Bit e 7
  Bits e 9 3 != 0 || Bits e 57 7 != 0 || (lvl == 4 && !leaf) || (lvl < 2 && leaf) ||
  (!leaf && (Bits e 1 6 != 0 || Bit e 8)) ||
  (leaf && (Bits e 12 45 * 2 ^ 12 % leafSize lvl != 0 ||
    (!Bit e 8 && decide (Config.moduleBytes ≤ Bits e 12 45 * 2 ^ 12))))

namespace State

/-- ROOT of an ASID as a physical address (R408). -/
def root (s : State) (a : BitVec 10) : Nat := s.profField a 12 45 * 2 ^ 12

/-- Does a 4 KiB table lie under a format window (R165, R412)? -/
def tableUnderFwin (s : State) (t : Nat) : Bool := (s.fwinAt t).isSome

/-- The walk of R412 from level `lvl` on: the leaf, its level and its address. -/
def walkFrom (s : State) (va : Nat) (k : AccKind) : Nat → Nat → Nat → M (Word × Nat × Nat)
  | 0, lvl, _ => fail .xlateFormat (xlateInfo va lvl k)
  | fuel + 1, lvl, t =>
    let pa := t + 8 * levelIndex lvl va
    let e := W (s.rawLoad pa 8)
    if !Bit e 0 then fail .xlateMiss (xlateInfo va lvl k)
    else if entryBad lvl e || s.tableUnderFwin t then fail .xlateFormat (xlateInfo va lvl k)
    else if Bit e 7 then .ok (e, lvl, pa)
    else
      let t' := Bits e 12 45 * 2 ^ 12
      if Config.moduleBytes ≤ t' then fail .xlateFormat (xlateInfo va lvl k)
      else s.walkFrom va k fuel (lvl + 1) t'

/-- Does a table, of a level, map a byte of module memory for stores (R410, R413)? -/
def mapsFrom (s : State) (pa : Nat) : Nat → Nat → Nat → Bool
  | 0, _, _ => false
  | fuel + 1, lvl, t =>
    (List.range (if lvl = 4 then 32 else 512)).any fun i =>
      let e := W (s.rawLoad (t + 8 * i) 8)
      let dst := Bits e 12 45 * 2 ^ 12
      Bit e 0 && !entryBad lvl e &&
        (if Bit e 7 then Bit e 2 && !Bit e 8 && decide (dst ≤ pa) && decide (pa < dst + leafSize lvl)
         else decide (dst < Config.moduleBytes) && s.mapsFrom pa fuel (lvl + 1) dst)

/-- Does an ASID map a byte of module memory for stores (R10)? -/
def maps (s : State) (a : BitVec 10) (pa : Nat) : Bool := (s.profile a).isSome && s.mapsFrom pa 5 0 (s.root a)

/-- Bits are set at the home by an atomic OR (R416). -/
def orAt (s : State) (pa bits : Nat) : State := s.rawStore pa 8 (s.rawLoad pa 8 ||| bits)

/-- The dirty bitmap bits of the pages that a leaf covers (R417). -/
def logDirty (s : State) (asid : BitVec 10) (va size : Nat) : State :=
  if s.profField asid 1 1 = 0 then s
  else
    let base := s.profField asid (24 * 8 + 16) 41 * 2 ^ 16
    let n := s.profField asid (32 * 8) 32
    let map := s.profField asid (40 * 8 + 6) 51 * 2 ^ 6
    let v0 := va / size * size
    (List.range (size / 2 ^ 16)).foldl (fun s j =>
      let p := v0 + j * 2 ^ 16
      if base ≤ p && p < base + n * 2 ^ 16 then
        let i := (p - base) / 2 ^ 16
        s.rawStore (map + i / 8) 1 (s.rawLoad (map + i / 8) 1 ||| 2 ^ (i % 8))
      else s) s

/-- The TLB entry that translates a VA, in a list. -/
def tlbFind (l : List TlbE) (asid : BitVec 10) (va : Nat) : Option TlbE :=
  l.find? fun e => e.asid == asid && decide (e.va ≤ va) && decide (va < e.va + e.size)

/-- An entry is added to a TLB of `cap` entries; a full one loses an entry (R415). -/
def tlbAdd (l : List TlbE) (cap pick : Nat) (e : TlbE) : List TlbE :=
  let l := l.filter fun o => !(o.asid == e.asid && o.va == e.va && o.size == e.size)
  if l.length < cap then l ++ [e] else dropNth l (pick % cap) ++ [e]

/-- Translations that leave a TLB: those that a store went through are noted until their page is invalidated (R423). -/
def keepPast (s : State) (l : List TlbE) : State :=
  { s with past := (l.filter fun e => Bit e.leaf 6).foldl (fun p e => if p.contains e then p else p ++ [e]) s.past }

/-- Fills the TLBs of an agent (R415). -/
def tlbFill (s : State) (a : Agent) (e : TlbE) : State :=
  let (p, s) := s.choose 1024
  let t := tlbAdd (s.tile a.tid).tlb 1024 p e
  let gone (old new : List TlbE) : List TlbE := old.filter fun o => !new.contains o
  let s := (s.keepPast (gone (s.tile a.tid).tlb t)).modTile a.tid fun k => { k with tlb := t }
  match a.core with
  | some c =>
    let t := tlbAdd (s.core c).tlb 32 p e
    (s.keepPast (gone (s.core c).tlb t)).modCore c fun k => { k with tlb := t }
  | none => s

/-- A leaf grants an access of a path, or the fault that R413 gives. -/
def leafCheck (a : Agent) (ea : Word) (k : AccKind) (leaf : Word) (lvl : Nat) : M Unit := do
  failIf (!leafGrants leaf k a.eng) .xlatePerm (xlateInfo (Bits ea 0 57) lvl k)
  failIf (!leafOnPath leaf (Bits ea 60 4) k) .badPath ea

/-- The leaf for an access, from the agent's own TLB, the tile's or a walk, with A set (R412, R413, R415, R416). -/
def leafFor (s : State) (a : Agent) (ea : Word) (k : AccKind) : M (TlbE × State) :=
  let va := Bits ea 0 57
  let mine := match a.core with
    | some c => tlbFind (s.core c).tlb a.asid va
    | none => none
  match mine, tlbFind (s.tile a.tid).tlb a.asid va with
  | some e, _ => do
    leafCheck a ea k e.leaf (sizeLevel e.size)
    .ok (e, s)
  | none, some e => do
    leafCheck a ea k e.leaf (sizeLevel e.size)
    .ok (e, if a.core.isSome then s.packet.tlbFill a e else s)
  | none, none => do
    let (leaf, lvl, pte) ← s.walkFrom va k 5 0 (s.root a.asid)
    leafCheck a ea k leaf lvl
    let s := s.orAt pte 0x20
    let size := leafSize lvl
    let e : TlbE := { asid := a.asid, va := va / size * size, size := size, leaf := leaf ||| 0x20, pte := pte }
    .ok (e, s.packet.tlbFill a e)

/-- D is set when a store is translated through an entry whose D is 0: the walker rereads the leaf, which may have changed
(R411, R416, R417). -/
def setDirty (s : State) (a : Agent) (e : TlbE) (ea : Word) (k : AccKind) : M (TlbE × State) :=
  if !accWrites k || Bit e.leaf 6 then .ok (e, s)
  else do
    let leaf := W (s.rawLoad e.pte 8)
    let info := xlateInfo (Bits ea 0 57) (sizeLevel e.size) k
    failIf (!(Bit leaf 0 && Bit leaf 7 && Bit leaf 2)) .xlatePerm info
    failIf (entryBad (sizeLevel e.size) leaf) .xlateFormat info
    failIf (Bit leaf 8 != (Bits ea 60 4 == 4)) .badPath ea
    let s := if Bit leaf 6 then s else (s.logDirty a.asid e.va e.size).orAt e.pte 0x40
    let e' := { e with leaf := leaf ||| 0x60 }
    .ok (e', s.packet.tlbFill a e')

/-- Translation of paths 0 and 4 (R410-R416): the address in the model's physical address space. -/
def xlate (s : State) (a : Agent) (ea : Word) (k : AccKind) : M (Nat × State) := do
  let (e, s) ← s.leafFor a ea k
  let (e, s) ← s.setDirty a e ea k
  .ok (Bits e.leaf 12 45 * 2 ^ 12 + Bits ea 0 57 % e.size + (if Bit e.leaf 8 then Config.hostBase else 0), s)

/-- The peer port whose aperture holds a host address (R456). -/
def peerOf (s : State) (pa : Nat) : Option (Nat × Nat) :=
  if pa < Config.hostBase then none
  else
    let h := pa - Config.hostBase
    (List.range 24).findSome? fun p =>
      let r := (getD {} s.peers p).reg
      let base := Bits r 30 27 * 2 ^ 30
      if Bit r 0 && base ≤ h && h < base + (Bits r 2 12 + 1) * 2 ^ 30 then some (p, h - base) else none

/-- Bytes of a ring slot (R186). -/
def slotBytes (r : Ring) : Nat := 64 * 2 ^ r.slotsz

/-- The checks of path 1 at a tile, for n bytes at an offset (R177, R184). -/
def bankCheck (s : State) (asid : BitVec 10) (tid off n : Nat) (ea : Word) : M Unit :=
  let k := (s.tile tid).bank (off / 2 ^ 17)
  let ok := match k.mode with
    | .cache => false
    | .scratch => true
    | .ring => decide (off % 2 ^ 17 + n ≤ k.ring.count * slotBytes k.ring)
  if !ok then fail .bankMode ea else if k.asid ≠ asid then fail .bankAsid ea else .ok ()

/-- Is a right (26 RD, 27 WR, 28 TK, 29 EX) granted on a tile (R419)? -/
def tileRight (s : State) (asid : BitVec 10) (own tid bit : Nat) : Bool :=
  own == tid || (List.range 8).any fun i =>
    let w := s.profField asid (512 + 64 * i) 64
    w / 2 ^ bit % 2 == 1 && decide (w % 128 ≤ tileX tid) && decide (tileX tid ≤ w / 2 ^ 13 % 128) &&
      decide (w / 2 ^ 7 % 64 ≤ tileY tid) && decide (tileY tid ≤ w / 2 ^ 20 % 64)

/-- The tile of a path 2 address, with the checks made before those of path 1 (R184, R419). -/
def meshTile (s : State) (a : Agent) (k : AccKind) (ea : Word) : M Nat :=
  let tid := tidOf (Bits ea 22 7) (Bits ea 29 6)
  if Bits ea 35 25 ≠ 0 || 111 < Bits ea 22 7 then fail .badPath ea
  else if !s.live tid then fail .tileDark ea
  else if (k != .store && !s.tileRight a.asid a.tid tid 26) || (accWrites k && !s.tileRight a.asid a.tid tid 27) then
    fail .tilePerm ea
  else .ok tid

/-- Checks of R184 for n bytes at an effective address, in their order, and where the access lands. -/
def resolve (s : State) (a : Agent) (k : AccKind) (ea : Word) (n : Nat) : M (Loc × State) :=
  if ea.toNat % n ≠ 0 then fail .misaligned ea
  else match Bits ea 60 4 with
    | 0 | 4 =>
      if Bits ea 57 3 ≠ 0 then fail .badPath ea
      else do
        let (pa, s) ← s.xlate a ea k
        match s.peerOf pa with
        | some (p, o) => .ok (.peer p o, s)
        | none => .ok (.mem pa, s)
    | 1 =>
      if Bits ea 22 38 ≠ 0 then fail .badPath ea
      else do
        s.bankCheck a.asid a.tid (Bits ea 0 22) n ea
        .ok (.bank a.tid (Bits ea 0 22), s)
    | 2 => do
      let tid ← s.meshTile a k ea
      s.bankCheck a.asid tid (Bits ea 0 22) n ea
      .ok (.bank tid (Bits ea 0 22), s)
    | 3 => if Bits ea 19 41 ≠ 0 || Bits ea 0 3 ≠ 0 || n ≠ 8 then fail .badPath ea else .ok (.sys (Bits ea 3 16), s)
    | _ => fail .badPath ea

/-- Does an address of path 4 lie in a peer's aperture, where future, bin and ring instructions raise BAD_PATH (R457; log 84)? -/
def atPeer (s : State) (a : Agent) (k : AccKind) (ea : Word) : Bool :=
  Bits ea 60 4 == 4 && match s.resolve a k ea 1 with
    | .ok (.peer _ _, _) => true
    | _ => false

/-! ### Releases (R212) -/

/-- An access or FENCE is held until the earlier atomics of the executing context have their status; a fault among them is
raised at it (R212). -/
def statusGate (s : State) : M Unit :=
  if !s.me.status.isEmpty || s.me.pend.any (·.atom) then .error (.wait .status s)
  else match s.me.late with
    | some l => if l.home then .error (.late l) else .ok ()
    | none => .ok ()

/-- A release, or an access with ORD ar, is held besides until every earlier access has performed at its bank (R203 case 3,
R212). -/
def relGate (s : State) : M Unit := do
  s.statusGate
  if s.me.accs.isEmpty then .ok () else .error (.wait (.accs s.me.accs.length) s)

/-! ### Guarded bytes (R211, R335, R337-R339) -/

/-- Fields of a copy descriptor (R331). -/
def cpF (d : BitVec 512) (w lo n : Nat) : Nat := d.toNat / 2 ^ (64 * w + lo) % 2 ^ n
/-- A stride, signed. -/
def cpS (d : BitVec 512) (w lo : Nat) : Int := sextN (cpF d w lo 32) 32

/-- Run and byte of a copy's position (R332): i2, i1, b. -/
def copyAt (d : BitVec 512) (pos : Nat) : Nat × Nat × Nat :=
  let l := cpF d 2 0 24 + 1
  let n1 := cpF d 2 24 16 + 1
  (pos / l / n1, pos / l % n1, pos % l)

/-- Bytes that a copy moves. -/
def copyTotal (d : BitVec 512) : Nat := (cpF d 2 0 24 + 1) * (cpF d 2 24 16 + 1) * (cpF d 2 40 16 + 1)

/-- Destination address of the byte at a position (R332). -/
def copyDst (d : BitVec 512) (pos : Nat) : Word :=
  let (i2, i1, b) := copyAt d pos
  W (cpF d 1 0 64) + Wi (i2 * cpS d 4 32 + i1 * cpS d 4 0 + b)

/-- Source address of the byte at a position (R332). -/
def copySrc (d : BitVec 512) (pos : Nat) : Word :=
  let (i2, i1, b) := copyAt d pos
  W (cpF d 0 0 64) + Wi (i2 * cpS d 3 32 + i1 * cpS d 3 0 + b)

/-- Tile on which a bank address of a unit of tile `own` lies. -/
def bankTile (own : Nat) (ea : Word) : Nat := if Bits ea 60 4 = 2 then tidOf (Bits ea 22 7) (Bits ea 29 6) else own

/-- Is the byte range guarded by this copy and above its watermark (R335)? -/
def copyGuards (own : Nat) (c : Copy) (tid off n : Nat) : Bool :=
  cpF c.desc 7 0 1 == 1 && bankTile own (copyDst c.desc 0) == tid &&
    decide (Bits (copyDst c.desc c.pos) 0 22 < off + n) &&
    decide (off ≤ Bits (copyDst c.desc (copyTotal c.desc - 1)) 0 22) && decide (c.pos < copyTotal c.desc)

/-- First and last offset of a window's range (R338). -/
def winRange (w : Window) : Nat × Nat :=
  let d := w.desc.toNat
  let rb := d / 2 ^ 128 % 2 ^ 10
  let nr := d / 2 ^ 138 % 2 ^ 12
  (d % 2 ^ 22, d % 2 ^ 22 + (nr + 1) * (rb + 1) * 64 - 1)

/-- The windows of a tile in a state that meets p and whose range meets n bytes at an offset. -/
def winsAt (s : State) (tid off n : Nat) (p : WinSt → Bool) : List Nat :=
  ((s.tile tid).eng.wins.filter fun e =>
    p e.2.st && decide ((winRange e.2).1 < off + n) && decide (off ≤ (winRange e.2).2)).map (·.1)

/-- The lowest queue entry of a channel that is free (R330). -/
def freeCopyEnt (c : Channel) : Option Nat := (List.range 8).find? fun i => !(getD ({} : CopyDone) c.ents i).live

/-- A copy enters the queue of a channel at a free entry: its generation steps (R282, R330). -/
def pushCopy (c : Channel) (y : Copy) : Channel :=
  let e := getD ({} : CopyDone) c.ents y.ent
  { queue := c.queue ++ [y], ents := put y.ent { e with gen := e.gen % 1023 + 1, live := true } c.ents }

def chan (s : State) (tid ch : Nat) : Channel := getD {} (s.tile tid).eng.chans ch
def modChan (s : State) (tid ch : Nat) (f : Channel → Channel) : State :=
  s.modEng tid fun e => { e with chans := put ch (f (getD {} e.chans ch)) e.chans }

/-- The copy that fills a window (R339), as a descriptor of R331. -/
def winCopy (w : Window) : BitVec 512 :=
  let d := w.desc.toNat
  let rb := (d / 2 ^ 128 % 2 ^ 10 + 1) * 64
  let nr := d / 2 ^ 138 % 2 ^ 12
  BitVec.ofNat 512 (d / 2 ^ 64 % 2 ^ 64 + d % 2 ^ 64 * 2 ^ 64 + (rb - 1 + nr * 2 ^ 24) * 2 ^ 128 +
    d / 2 ^ 192 % 2 ^ 32 * 2 ^ 192 + rb * 2 ^ 256 + 2 ^ 448)

/-- Channel of a window (R338). -/
def winChan (w : Window) : Nat := w.desc.toNat / 2 ^ 150 % 8

/-- The copy of a FILLING window is queued if its channel has a free entry, or stays due (R339). -/
def queueWin (s : State) (tid n : Nat) : State :=
  let w := getD {} (s.tile tid).eng.wins n
  if w.st ≠ .filling || !w.due then s
  else match freeCopyEnt (s.chan tid (winChan w)) with
    | none => s
    | some e =>
      let y : Copy := { ent := e, desc := winCopy w, asid := w.asid, colour := w.colour, sub := w.sub, far := w.far, win := some n }
      let s := s.modEng tid fun e => { e with wins := put n { w with due := false } e.wins }
      s.modChan tid (winChan w) fun c => pushCopy c y

/-- An ABSENT window is touched for a context, whose colour its copy takes, from another tile or not: it fills, and its
copy is due (R209, R339, R343). -/
def touchWin (s : State) (sub : Nat) (colour : BitVec 4) (far : Bool) (tid n : Nat) : State :=
  let w := getD {} (s.tile tid).eng.wins n
  if w.st ≠ .absent then s
  else
    let w := { w with st := .filling, due := true, sub := sub, colour := colour, far := far }
    ((s.modEng tid fun e => { e with wins := put n w e.wins }).kick tid (1 + winChan w) (winCopy w).toNat).queueWin tid n

/-- The windows of a tile whose copies are due are queued as entries free up (R339). -/
def queueDue (s : State) (tid : Nat) : State :=
  (((s.tile tid).eng.wins.filter fun e => e.2.due).map (·.1)).foldl (fun s n => s.queueWin tid n) s

/-- Does a copy that was saved with its engine guard a byte of n bytes, on a tile that was not captured with it (R336)? -/
def savedGuards (s : State) (p : Nat → Bool) (tid off n : Nat) : Bool :=
  s.saved.any fun u => !u.2.tiles.contains tid && u.2.parts.any fun q => match q with
    | .chans t l => p t && l.any fun c => c.2.queue.any fun y => copyGuards t y tid off n
    | _ => false

/-- Is a byte of n bytes above the watermark of a copy that guards it, of a channel of certain tiles, or in a window whose
copy is due (R335, R336, R339)? -/
def guardBy (s : State) (p : Nat → Bool) (tid off n : Nat) : Bool :=
  let due := ((s.tile tid).eng.wins.filter fun e => e.2.due).map (·.1)
  (p tid && (s.winsAt tid off n fun st => st == .filling).any due.contains) ||
    (s.tiles.any fun t => p t.1 && t.2.eng.chans.any fun c => c.2.queue.any fun y => copyGuards t.1 y tid off n) ||
    s.savedGuards p tid off n

/-- Is a byte of n bytes guarded, and not yet covered (R335, R339)? -/
def underGuard (s : State) (tid off n : Nat) : Bool := s.guardBy (fun _ => true) tid off n

/-- The ABSENT windows that n bytes lie in are touched, by a context, or by an engine at work for a submitter (R339, R343). -/
def touchBytes (s : State) (a : Agent) (tid off n : Nat) : State :=
  let (sub, colour) := if a.core.isSome then (a.sub, a.colour) else (s.cur.sub, s.cur.colour)
  (s.winsAt tid off n (· == .absent)).foldl (fun s w => s.touchWin sub colour (tid != a.tid) tid w) s

/-- An access of an agent touches the ABSENT windows of its bytes: a submission, which releases at ti, or at mo to the NI
of another tile (R209, R212, R339). -/
def touchFor (s : State) (a : Agent) (tid off n : Nat) : M State :=
  if (s.winsAt tid off n (· == .absent)).isEmpty then .ok s
  else
    let sc : Scope := if tid = a.tid then .ti else .mo
    match a.core with
    | none => .ok ((s.engRelease a.tid sc).touchBytes a tid off n)
    | some c => do
      s.relGate
      .ok ((s.release c sc).touchBytes a tid off n)

/-- n bytes of a bank that must be waited for make their access wait.  A first touch starts its window (R211, R335, R339). -/
def guardBytes (s : State) (a : Agent) (tid off n : Nat) : M State := do
  let t ← s.touchFor a tid off n
  if t.underGuard tid off n then .error (.wait (.bytes tid off n (t.guardBy (· == a.tid) tid off n)) t) else .ok t

/-- The late fault of bytes under a FAILED window (R339). -/
def winFault (s : State) (tid off n : Nat) : Option Flt :=
  match s.winsAt tid off n (· == .failed) with
  | w :: _ => some { code := .winFault, info := W w }
  | [] => none

/-! ### Loads and stores -/

/-- At most 64 bytes of module or host memory, within a line, as an agent loads them. -/
def lineLoad (s : State) (a : Agent) (pa n : Nat) : Nat × State :=
  match a.core with
  | some c => s.l1Load c pa n
  | none => (s.l2Load a.tid pa n, s.l2Packet a.tid pa n)

/-- At most 64 bytes of module or host memory, within a line, as an agent stores them. -/
def lineStore (s : State) (a : Agent) (pa n v : Nat) : State :=
  match a.core with
  | some c => s.l1Write c pa n v
  | none => s.l2Write a.tid pa n v

/-- n bytes of module or host memory by lines of 64 bytes: the low part first. -/
def memLoad (s : State) (a : Agent) (pa n : Nat) : Nat × State :=
  if n ≤ 64 then s.lineLoad a pa n
  else
    let (lo, s) := s.lineLoad a pa 64
    let (hi, s) := s.lineLoad a (pa + 64) (n - 64)
    (lo + 2 ^ 512 * hi, s)

/-- n bytes are stored to module or host memory. -/
def memStore (s : State) (a : Agent) (pa n v : Nat) : State :=
  if n ≤ 64 then s.lineStore a pa n v
  else (s.lineStore a pa 64 (v % 2 ^ 512)).lineStore a (pa + 64) (n - 64) (v / 2 ^ 512)

/-- Offsets of an aperture that read as 0 at the peer module: launch slots 0 to 62, and what lies past the windows (R452,
R454, R456). -/
def peerZero (o : Nat) : Bool :=
  decide (0x30000E00000 ≤ o) || (decide (0x30000000000 ≤ o) && decide (o / 64 % 64 < 63))

/-- Bytes that a peer answers, from an offset whose bits from 60 on number the answer (R456; log 21). -/
def peerBytes (p off : Nat) : Nat → Nat
  | 0 => 0
  | n + 1 => (if peerZero (off % 2 ^ 60) then 0 else (Config.peerByte p off).toNat) + 256 * peerBytes p (off + 1) n

/-- Is a peer port's link up (R457)? -/
def peerUp (s : State) (p : Nat) : Bool := Bit (getD {} s.peers p).reg 1

/-- A store goes out through a peer port, as one whole line or not (R456-R458). -/
def peerStore (s : State) (p off n v : Nat) (line : Bool := false) : State :=
  let r := getD {} s.peers p
  { s with peers := put p { r with sent := r.sent ++ [{ off := off, n := n, value := v % 2 ^ (8 * n), line := line }] } s.peers }

/-- A load of n bytes at a place: the value, a late fault, and the state after it. -/
def loadAt (s : State) (a : Agent) (l : Loc) (ea : Word) (n : Nat) : M (Nat × Option Flt × State) :=
  match l with
  | .mem pa => let (v, s) := s.memLoad a pa n; .ok (v, none, s)
  | .bank t o => do
    let s ← s.guardBytes a t o n
    let s := if t = a.tid then s else s.packet
    .ok (s.bankLoad t o n, s.winFault t o n, (s.bankOn t o).loaded)
  | .peer p o =>
    if s.peerUp p then .ok (peerBytes p (o + s.seq * 2 ^ 60) n, none, s.loaded)
    else .ok (0, some { code := .badPath, info := ea }, s)
  | .sys _ => fail .badPath ea

/-- A store of n bytes at a place: a late fault, and the state after it. -/
def storeAt (s : State) (a : Agent) (l : Loc) (ea : Word) (n v : Nat) : M (Option Flt × State) :=
  match l with
  | .mem pa => .ok (none, s.memStore a pa n v)
  | .bank t o => do
    let s ← s.guardBytes a t o n
    let s := if t = a.tid then s else s.packet
    match s.winFault t o n with
    | some f => .ok (some f, s)
    | none => .ok (none, s.bankStore t o n v)
  | .peer p o =>
    if s.peerUp p then .ok (none, s.peerStore p o n v) else .ok (some { code := .badPath, info := ea }, s)
  | .sys _ => fail .badPath ea

/-- An instruction that is held for its access follows every access of the executing context to its bytes under their name, the
mesh name or not (R200, R203 case 1); one of path 3 follows every access (R201). -/
def accGate (s : State) (mesh : Bool) (l : Loc) (n : Nat) : M Unit :=
  let share (a b : Nat) (m : Nat) : Bool := decide (a < b + n) && decide (b < a + m)
  let wait : Bool := match l with
    | .bank t o => s.me.accs.any fun e => e.mem.isNone && e.mesh == mesh && e.tid == t && share e.off o e.n
    | .mem pa => s.me.accs.any fun e => e.mem.any fun q => share q pa e.n
    | .sys _ => !s.me.accs.isEmpty
    | .peer _ _ => false
  if wait then .error (.wait (.accs s.me.accs.length) s) else .ok ()

/-- Resolve and load; a context's load follows its earlier bank accesses. -/
def load (s : State) (a : Agent) (ea : Word) (n : Nat) : M (Nat × Option Flt × State) := do
  let (l, s) ← s.resolve a .load ea n
  if a.core.isSome then s.accGate (Bits ea 60 4 == 2) l n
  s.loadAt a l ea n

/-- Resolve and store; a context's store follows its earlier bank accesses. -/
def store (s : State) (a : Agent) (ea : Word) (n v : Nat) : M (Option Flt × State) := do
  let (l, s) ← s.resolve a .store ea n
  if a.core.isSome then s.accGate (Bits ea 60 4 == 2) l n
  s.storeAt a l ea n v

/-! ### Accesses of a context that perform later than they issue (R182, R185, R201, R203, R211) -/

end State

/-- Does an access with an ORD acquire (R199)? -/
def acquires (o : MemOrd) : Bool := o == .acq || o == .ar

/-- Does an access with an ORD release (R199)? -/
def releases (o : MemOrd) : Bool := o == .rel || o == .ar

/-- Where the bytes of an access begin. -/
def BankAcc.at (e : BankAcc) : Nat := e.mem.getD e.off

/-- Do two accesses of a context share a byte under one name (R200, R203 case 1)? -/
def BankAcc.meets (a b : BankAcc) : Bool :=
  a.mem.isSome == b.mem.isSome && (a.mem.isSome || (a.mesh == b.mesh && a.tid == b.tid)) &&
    decide (a.at < b.at + b.n) && decide (b.at < a.at + a.n)

/-- Is an access ordered before every later one of other bytes that releases or not, and depends on the loads up to count
`dep`: it acquires, that one releases, or it is one of those loads (R203 cases 2, 3 and 7)? -/
def BankAcc.before (o : BankAcc) (rel : Bool) (dep : Nat) : Bool := o.acq || rel || (o.store.isNone && decide (o.num ≤ dep))

/-- Is an access ordered after an earlier one of its context: they share a byte under one name, or two instructions make
them and R203 orders those (R200, R203)? -/
def BankAcc.follows (e o : BankAcc) : Bool := e.meets o || (o.grp != e.grp && o.before e.rel e.dep)

/-- A value of the group of accesses enters a register at its place. -/
def RegWrite.orBits (w : RegWrite) (lo begins v : Nat) : RegWrite :=
  let x := v * 2 ^ lo / 2 ^ begins
  match w with
  | .x r y => .x r (y ||| W x)
  | .v r y => .v r (y ||| BitVec.ofNat _ x)
  | w => w

/-- An access of a context returned v: when it was the last of its group, the registers' results can arrive. -/
def Ctx.accGives (c : Ctx) (e : BankAcc) (v : Nat) : Ctx :=
  let more := c.accs.any fun o => o.grp == e.grp
  { c with pend := c.pend.map fun p =>
      if p.grp = e.grp then { p with wr := p.wr.orBits e.lo p.lo v, grp := if more then p.grp else 0 } else p }

/-- An access of a context fails late: the registers of its instruction stay unwritten (R82). -/
def Ctx.accFails (c : Ctx) (e : BankAcc) (f : Flt) : Ctx :=
  match c.pend.findIdx? fun p => p.grp == e.grp with
  | none => { c with late := some (c.late.getD { flt := f, pc := e.pc }) }
  | some i =>
    let first := (c.pend.getD i default)
    { c with pend := (c.pend.take i).filter (·.grp != e.grp) ++ [{ first with grp := 0, flt := some f }] ++
                     (c.pend.drop (i + 1)).filter (·.grp != e.grp) }

namespace State

/-- The executing context as an agent (R198). -/
def agent (s : State) : Agent :=
  { tid := s.myTid, core := some s.myCore, asid := s.myAsid, sub := s.cur.id, colour := s.me.colour }

/-- The group of the executing instruction's accesses. -/
def group (s : State) : Nat := 2 * s.cur.pick + b2n s.cur.snd + 1

/-- The access of the executing context to n bytes of memory, at an effective address; a store's value, and where in the
instruction's value a load begins. -/
def memAcc (s : State) (pa n : Nat) (ea : Word) (store : Option Nat) (lo : Nat) (ord : MemOrd) (sc : Scope) : BankAcc :=
  { mesh := false, tid := s.myTid, off := 0, n := n, ea := ea, pc := s.cur.pc, store := store, grp := s.group, lo := lo,
    num := s.seq, acq := acquires ord, rel := releases ord, sc := sc, dep := s.cur.odep, colour := s.cur.colour, old := none,
    mem := some pa }

/-- The access of the executing context to n bytes of a bank, at an effective address. -/
def bankAcc (s : State) (tid off n : Nat) (ea : Word) (store : Option Nat) (lo : Nat) (ord : MemOrd) (sc : Scope) : BankAcc :=
  let guard := s.guardBy (· == s.myTid) tid off n
  let e : BankAcc := { s.memAcc 0 n ea store lo ord sc with
    mem := none, mesh := Bits ea 60 4 == 2, tid := tid, off := off, acq := acquires ord || guard,
    sc := if ord = .plain || (guard && sc = .co) then .ti else sc }
  if tid ≠ s.myTid && store.isNone && !s.me.accs.any e.follows then { e with old := some (s.bankLoad tid off n) } else e

/-- Must an access wait when it issues: behind an earlier one (R203), behind all of them if it would touch an ABSENT window,
which is a release (R209), or on a guarded byte (R335)? -/
def heldBack (s : State) (e : BankAcc) : Bool :=
  s.me.accs.any e.follows ||
    (e.mem.isNone && ((!s.me.accs.isEmpty && !(s.winsAt e.tid e.off e.n (· == .absent)).isEmpty) || s.underGuard e.tid e.off e.n))

/-- Does an access perform later than it issues: it must wait, or accesses through its bank's name lag (R185; log 68)? -/
def delayed (s : State) (e : BankAcc) : Bool :=
  (e.mem.isNone && (if e.mesh then s.me.lagM else s.me.lagP)) || s.heldBack e

/-- An access issues and performs later. -/
def issueAcc (s : State) (e : BankAcc) : State :=
  (if e.tid = s.myTid then s else s.inject s.myTid e.colour).modMe fun c => { c with accs := c.accs ++ [e] }

/-- The access of the executing context at a place, if that is a byte of a bank or of memory. -/
def accOf (s : State) (l : Loc) (ea : Word) (n : Nat) (store : Option Nat) (lo : Nat) (ord : MemOrd) (sc : Scope) :
    Option BankAcc :=
  match l with
  | .bank t o => some (s.bankAcc t o n ea store lo ord sc)
  | .mem pa => some (s.memAcc pa n ea store lo ord sc)
  | _ => none

/-- An access touches the ABSENT windows of its bytes when it issues, unless it waits behind earlier ones (R209, R339). -/
def touchNow (s : State) (l : Loc) (n : Nat) : M State :=
  match l with
  | .bank t o => if s.me.accs.isEmpty then s.touchFor s.agent t o n else .ok s
  | _ => .ok s

/-- An access to a peer waits for what it follows (R203, R457). -/
def peerGate (s : State) (l : Loc) (ord : MemOrd) : M Unit :=
  match l with
  | .peer _ _ =>
    if s.me.accs.any fun o => o.before (releases ord) s.cur.odep then .error (.wait (.accs s.me.accs.length) s) else .ok ()
  | _ => .ok ()

/-- A load of the executing context of n bytes at a place: the value, a late fault, and whether it is still to come; `lo` is
the bit of the instruction's value at which it begins. -/
def issueLoad (s : State) (l : Loc) (ea : Word) (n lo : Nat) (ord : MemOrd) (sc : Scope) :
    M (Nat × Option Flt × Bool × State) := do
  s.peerGate l ord
  let s ← s.touchNow l n
  match (s.accOf l ea n none lo ord sc).filter s.delayed with
  | some e => .ok (0, none, true, (s.issueAcc e).loaded)
  | none => do
    let (v, f, s) ← s.loadAt s.agent l ea n
    .ok (v, f, false, s)

/-- Does a store of the executing context perform later than it issues? -/
def storeLate (s : State) (l : Loc) (ea : Word) (n v : Nat) (ord : MemOrd) (sc : Scope) : Bool :=
  (s.accOf l ea n (some v) 0 ord sc).any s.delayed

/-- A store of the executing context of n bytes at a place, now or later: a late fault. -/
def issueStore (s : State) (l : Loc) (ea : Word) (n v : Nat) (ord : MemOrd) (sc : Scope) (later : Bool) :
    M (Option Flt × State) := do
  s.peerGate l ord
  match later, s.accOf l ea n (some v) 0 ord sc with
  | true, some e => .ok (none, s.issueAcc e)
  | _, _ => s.storeAt s.agent l ea n v

/-- Dependencies on an access that performs now are as late as now (R204; log 6). -/
def depsNow (s : State) (id num : Nat) : State :=
  let late (d : Nat) : Nat := if num ≤ d then Nat.max d s.seq else d
  s.modCtx id fun c => { c with deps := c.deps.map fun (d : Nat × Nat) => (d.1, late d.2), cdep := late c.cdep,
                                accs := c.accs.map fun e => { e with dep := late e.dep } }

/-- The accesses that perform in one step with access n: the stores of one instruction to one aligned 4-byte word of a bank,
which no engine reads part old and part new (R143, R207, R216). -/
def accGroup (l : List BankAcc) (n : Nat) : List Nat :=
  match l[n]? with
  | none => []
  | some e =>
    if e.store.isNone || e.mem.isSome then [n]
    else (List.range l.length).filter fun m => match l[m]? with
      | some o => o.store.isSome && o.mem.isNone && o.grp == e.grp && o.mesh == e.mesh && o.tid == e.tid && o.off / 4 == e.off / 4
      | none => false

/-- May access n of a list perform: no guard holds it, its windows are touched, and it follows no earlier access but those
of `g`, which perform with it (R203, R335, R339)? -/
def accReady (s : State) (l : List BankAcc) (g : List Nat) (n : Nat) : Bool :=
  match l[n]? with
  | none => false
  | some e =>
    !((List.range n).any fun m => !g.contains m && (l[m]?).any e.follows) &&
      (e.mem.isSome || (!s.underGuard e.tid e.off e.n && (s.winsAt e.tid e.off e.n (· == .absent)).isEmpty))

/-- The windows that an access touches only when it performs, ABSENT ones, begin to fill: a submission, which releases, and
is held for the earlier accesses and atomics of its context (R209, R212, R339). -/
def accTouch (s : State) (id n : Nat) (e : BankAcc) : State :=
  let c := s.ctx id
  if e.mem.isSome || (s.winsAt e.tid e.off e.n (· == .absent)).isEmpty || n ≠ 0 || !c.status.isEmpty || c.pend.any (·.atom) then s
  else
    let a : Agent := { tid := idTid id, core := some (coreOf id), asid := c.asid, sub := id, colour := c.colour }
    (s.release (coreOf id) (if e.tid = idTid id then .ti else .mo)).touchBytes a e.tid e.off e.n

/-- The order of an access that performs now (R199, R203, R204, R206, R211). -/
def accOrder (s : State) (e : BankAcc) : State :=
  let s := if s.me.seen.any fun k => decide (k.2 ≤ e.dep) then s.reveal (fun k => decide (k ≤ e.dep)) .sy else s
  let s := if e.rel then s.release s.myCore e.sc else s
  let s := if e.acq then s.acquire s.myCore e.sc else s
  { s with cur := { s.cur with adep := if e.store.isNone then e.dep else 0 } }

/-- The value of a load of a context arrives; what it read from precedes what follows an acquire (R204, R206). -/
def accValue (s : State) (e : BankAcc) (v : Nat) : State :=
  let s := if e.acq then s.reveal (fun k => decide (s.seq ≤ k)) e.sc else s
  ({ s with seq := s.seq + 1 }.modMe fun c => c.accGives e v).depsNow s.cur.id e.num

/-- An access of the context at the cursor, which is no longer on its way, performs: at its bank, under the setting that the
bank has then (R182, R184), or in the caches. -/
def performAcc (s : State) (e : BankAcc) : State :=
  let s := if e.tid = s.myTid then s else (s.uninject s.myTid e.colour).dlv e.tid e.colour
  let s := s.accOrder e
  match e.mem, e.store with
  | some pa, some v => s.memStore s.agent pa e.n v
  | some pa, none => let (v, s) := s.memLoad s.agent pa e.n; s.accValue e v
  | none, w =>
    let fault : Option Flt := match s.bankCheck s.myAsid e.tid e.off e.n e.ea with
      | .error (.flt f) => some f
      | _ => s.winFault e.tid e.off e.n
    match fault, w with
    | some f, _ => s.modMe fun c => c.accFails e f
    | none, some v => s.bankStore e.tid e.off e.n v
    | none, none =>
      let now := s.bankLoad e.tid e.off e.n
      let v := match e.old with
        | some w => if Config.pickNew s.seq 0 then now else w
        | none => now
      (s.bankOn e.tid e.off).accValue e v

/-- Access n of a context performs, with those of its word, unless a guard or an earlier access holds one of them (R143,
R203, R335). -/
def serveAcc (s : State) (id n : Nat) : State :=
  match (s.ctx id).accs[n]? with
  | none => s
  | some e =>
    let s := s.accTouch id n e
    let l := (s.ctx id).accs
    let g := accGroup l n
    if !g.all (s.accReady l g) then s
    else
      let s := { s with cur := { s.cur with id := id } }.modCtx id fun c => { c with accs := ((List.range l.length).filter fun m => !g.contains m).filterMap fun m => l[m]? }
      (g.filterMap fun m => l[m]?).foldl (fun s e =>
        let s := s.performAcc e
        if e.rel && e.store.isSome then s.release s.myCore e.sc else s) s

/-- The accesses of a context that nothing holds perform, in their order (R213). -/
def drainAccs (s : State) (id : Nat) : State :=
  (List.range (s.ctx id).accs.length).foldl (fun (p : State × Nat) _ =>
    let t := p.1.serveAcc id p.2
    (t, if (t.ctx id).accs.length < (p.1.ctx id).accs.length then p.2 else p.2 + 1)) (s, 0) |>.1

end State
end Sys2Proof.Machine
end

