-- ==== Sys2Proof/Machine/Ops.lean ====
section
/-! DEFINITION. What every meaning is written over: reading and writing registers (R7, R77-R80), completing an
instruction (R45, R86, R87), target legality (R46), raising a fault (R427-R429, R437) and resuming a faulted context
(R435). -/

namespace Sys2Proof.Machine

/-! ### Reading registers -/

/-- Can a result on its way be read as New (R78, R79)?  Its value is known, it brings no fault, and no later write discards
it (R80). -/
def Pend.shows (e : Pend) : Bool := e.flt.isNone && !e.dead && e.grp == 0 && e.cfg.isNone

/-- The value of a register with the results on their way, each Old or New (R78, R79). -/
def pendVal {α : Type} (pick : Nat → Bool) (get : RegWrite → Option α) : Nat → List Pend → α → α
  | _, [], v => v
  | i, e :: r, v =>
    match get e.wr, e.shows with
    | some w, true => pendVal pick get (i + 1) r (if pick i then w else v)
    | _, _ => pendVal pick get (i + 1) r v

namespace State

/-- Pick of the operand k for entry i of the results on their way (log 7). -/
def pickAt (s : State) (k i : Nat) : Bool := Config.pickNew s.cur.pick (64 * k + i + b2n s.cur.snd * 2 ^ 20)

/-- X[r] as operand k reads it (R7, R51, R78). -/
def rx (s : State) (r : XReg) (k : Nat) : Word :=
  if r.val = 0 then 0
  else pendVal (s.pickAt k) (fun w => match w with | .x q v => if q = r then some v else none | _ => none) 0
    s.src.pend (s.src.x.get r)

/-- P[r] as operand k reads it. -/
def rp (s : State) (r : PReg) (k : Nat) : Bool :=
  if r.val = 0 then true
  else pendVal (s.pickAt k) (fun w => match w with | .p q v => if q = r then some v else none | _ => none) 0
    s.src.pend (s.src.p.get r)

/-- V[r] as operand k reads it. -/
def rv (s : State) (r : VReg) (k : Nat) : VWord :=
  pendVal (s.pickAt k) (fun w => match w with | .v q v => if q = r then some v else none | _ => none) 0
    s.src.pend (s.src.v.get r)

/-- Lane mask r as operand k reads it; k0 has every bit set (R123). -/
def rk (s : State) (r : PReg) (k : Nat) : KWord :=
  if r.val = 0 then BitVec.allOnes 128
  else pendVal (s.pickAt k) (fun w => match w with | .k q v => if q = r then some v else none | _ => none) 0
    s.src.pend (s.src.k.get r)

/-- Format table entry r of the executing context, as it was before the pair (R51, R149, R159; log 67). -/
def ftAt (s : State) (r : Nat) : EntryBits := if r < 8 then fixedEntry r else s.src.ft.toList.getD (r - 8) 0

/-- Tensor handle r (R310). -/
def rh (s : State) (r : PReg) : HWord :=
  pendVal (s.pickAt 60) (fun w => match w with | .h q v => if q = r then some v else none | _ => none) 0
    s.src.pend (s.src.h.get r)

/-! ### Writing registers -/

/-- Core cycles of the executing core (R75). -/
def cyc (s : State) : Nat := (s.core s.myCore).cyc

/-- A result depends on what its instruction read (R204). -/
def depends (s : State) (w : RegWrite) (c : Ctx) : Ctx :=
  if w.key = 0 then c
  else { c with deps := if s.cur.dep = 0 then del w.key c.deps else put w.key s.cur.dep c.deps }

/-- A result visible at distance 1: it is written, and older results for its register will be discarded (R77, R80). -/
def wr (s : State) (w : RegWrite) : State :=
  s.modMe fun c => s.depends w ({ c with pend := supersede w c.pend }.put w)

/-- X[d] of an ALU instruction (R77). -/
def wx (s : State) (d : XReg) (v : Word) : State := s.wr (.x d v)

/-- A long-latency result that bank accesses of the instruction still bring: it begins at a bit of their value (R77). -/
def wgrp (s : State) (w : RegWrite) (lo : Nat) : State :=
  if w.key = 0 then s
  else s.modMe fun c => s.depends w
    { c with pend := c.pend ++ [{ wr := w, due := none, pc := s.cur.pc, flt := none, grp := s.group, lo := lo }] }

/-- The status of an instruction without a register result is owed (R221). -/
def owe (s : State) (f : Option Flt) : State :=
  s.modMe fun c => { c with status := c.status ++ [{ pc := s.cur.pc, flt := f }] }

/-- A late fault of an access without a register result (R82). -/
def addLate (s : State) (f : Option Flt) : State :=
  match f with
  | none => s
  | some f => s.modMe fun c => { c with late := some (c.late.getD { flt := f, pc := s.cur.pc }) }

/-- A result of latency l (R77); a register that reads as a constant takes none (R101). -/
def wlat (s : State) (l : Nat) (w : RegWrite) : State :=
  if w.key = 0 then s
  else s.modMe fun c =>
    s.depends w { c with pend := c.pend ++ [{ wr := w, due := some (s.cyc + l), pc := s.cur.pc, flt := none }] }

/-- A long-latency result, with the late fault that it may carry (R79, R82); a register that reads as a constant takes
none, and its fault remains (R101). -/
def wlong (s : State) (w : RegWrite) (f : Option Flt := none) : State :=
  if w.key = 0 then s.addLate f
  else s.modMe fun c => s.depends w { c with pend := c.pend ++ [{ wr := w, due := none, pc := s.cur.pc, flt := f }] }

/-- The result of an atomic, which brings its status (R212, R221); without a result, the status is owed. -/
def watom (s : State) (w : RegWrite) (f : Option Flt := none) : State :=
  if w.key = 0 then s.owe f
  else s.modMe fun c =>
    s.depends w { c with pend := c.pend ++ [{ wr := w, due := none, pc := s.cur.pc, flt := f, atom := true }] }

/-- What a store or another access without a register result leaves: a late fault (R82), or for a peer the status that
the port owes (R457). -/
def stored (s : State) (l : Loc) (f : Option Flt) : State :=
  match l with
  | .peer _ _ => s.owe f
  | _ => s.addLate f

/-- An engine of a tile as an agent, in an ASID (R207, R413). -/
def engAgent (tid : Nat) (asid : BitVec 10) : Agent := { tid := tid, core := none, asid := asid, eng := true }

/-- The information word of R65 for the slot that executes. -/
def encInfo (s : State) (pos : Nat) (lw : Bool) : Word :=
  W (s.cur.op + pos * 2 ^ 8 + b2n lw * 2 ^ 15 + s.cur.pc.toNat % 8 * 2 ^ 16 + b2n s.cur.sec * 2 ^ 19)

/-! ### Targets (R46) -/

/-- A code line as fetch reads it: the L1I copy, or what a fill brings (R178). -/
def codeLine (s : State) (core pl : Nat) : BitVec 512 :=
  match find pl (s.core core).l1i with
  | some d => d
  | none => s.l2View (idTid core) pl

/-- The line at a PC for a context of an ASID on a core: translation for fetch (R46 step 2). -/
def fetchLine (s : State) (core : Nat) (asid : BitVec 10) (pc : Word) : M (Nat × State) := do
  let (pa, s) ← s.xlate { tid := idTid core, core := some core, asid := asid } (linePc pc) .fetch
  .ok (pa / 64, s)

/-- `legal(t)` of R46 for a context of an ASID on a core: faults at the first failing step.  `info` is the rest of the
information word of R65. -/
def legal (s : State) (core : Nat) (asid : BitVec 10) (t : Word) (info : Word) : M State :=
  let pos := W (t.toNat % 128 * 2 ^ 8)
  if Bits t 60 4 ≠ 0 || Bits t 3 3 ≠ 0 || 4 < Bits t 0 3 then fail .illegalTarget (info + pos)
  else if Bits t 57 3 ≠ 0 then fail .badPath (linePc t)
  else do
    let (pl, s) ← s.fetchLine core asid t
    if Bit (W ((s.codeLine core pl).toNat / 2 ^ 480)) (Bits t 0 3) then .ok s
    else fail .illegalTarget (info + pos + W (2 ^ 15))

/-- `legal(t)` for the executing context. -/
def legalHere (s : State) (t : Word) : M State := s.legal s.myCore s.myAsid t (s.encInfo 0 false)

end State

/-! ### Loops and the next PC (R45, R85-R87) -/

/-- End processing of one set: none if the set does not end here; otherwise the set and the loop-back. -/
def LoopSet.ended (l : LoopSet) (pcs : List Word) : Option (LoopSet × Option Word) :=
  if l.armed && pcs.contains l.le then
    let lc := l.lc - 1
    if lc = 0 then some ({ l with lc := 0, armed := false }, none) else some ({ l with lc := lc }, some l.ls)
  else none

/-- End processing after the instructions at `pcs`, with the PC that follows them otherwise (R86).  Where a pair ends both sets,
set 1 comes first and a loop back of set 1 leaves set 0 as it is, at whichever slots the two end (log 75). -/
def Ctx.endProc (c : Ctx) (pcs : List Word) (nxt : Word) : Ctx × Word :=
  let set0 (c : Ctx) : Ctx × Word :=
    match c.l0.ended pcs with
    | none => (c, nxt)
    | some (l, b) => ({ c with l0 := l }, b.getD nxt)
  match c.l1.ended pcs with
  | none => set0 c
  | some (l, some b) => ({ c with l1 := l }, b)
  | some (l, none) => set0 { c with l1 := l }

/-- A taken transfer from a PC to a target: a set whose body it leaves disarms (R87). -/
def LoopSet.leave (l : LoopSet) (pcs : List Word) (t : Word) : LoopSet :=
  let inside (p : Word) : Bool := l.ls.ule p && p.ule l.le
  if l.armed && pcs.any inside && !inside t then { l with armed := false } else l

/-- The slots that the completing instruction stands for: its own, and the first of its pair (R86). -/
def Ctx.slotsDone (c : Ctx) (pc : Word) : List Word := if c.alone then [pc - 1, pc] else [pc]

/-- The context after it completes the instruction at pc (R45, R86). -/
def Ctx.after (c : Ctx) (pc : Word) : Ctx :=
  let (c', nxt) := c.endProc (c.slotsDone pc) (seqPc pc)
  { c' with pc := nxt, alone := false, before := none, held := none, wait := .none, answer := .none }

/-- The context after a transfer from pc to t (R87); one by the second of a pair whose first ends a set wins over that end
(log 75). -/
def Ctx.jumped (c : Ctx) (pc t : Word) : Ctx :=
  let ps := c.slotsDone pc
  { c with pc := t, l0 := c.l0.leave ps t, l1 := c.l1.leave ps t, alone := false, before := none, held := none,
           wait := .none, answer := .none }

/-! ### Fault messages (R428, R429) -/

/-- Where a fault comes from: its source code, place and ASID (R428 word 2). -/
structure FaultSrc where
  src  : Nat
  tid  : Nat := 0
  core : Nat := 0
  ctx  : Nat := 15
  asid : BitVec 10 := 0
deriving DecidableEq, Repr

namespace State

/-- The chiplet that takes a fault message: the given one, or the live chiplet of lowest number (R263). -/
def faultChip (s : State) (ci : Nat) : Nat :=
  match s.superTile ci with
  | some _ => ci
  | none => ((List.range 448).find? fun c => (s.superTile c).isSome).getD ci

/-- A fault message enters the chiplet's fault queue, which is a packet of its colour, or waits at its origin (R344, R429). -/
def postFault (s : State) (ci : Nat) (m : Msg) : State :=
  let c := s.chip ci
  let s := { s with packets := if c.fq.length < 64 && c.fwait.isEmpty then (s.packetOf m.colour).packets else s.packets }
  s.modChip ci fun c =>
    if c.fq.length < 64 && c.fwait.isEmpty then { c with fq := c.fq ++ [m] }
    else { c with fwait := c.fwait ++ [(m, s.fab + 256)] }

/-- How many fault messages that wait at their origins are such (R344, R429)? -/
def faultsHeld (s : State) (p : Msg → Bool) : Nat :=
  s.chips.foldl (fun n e => n + (e.2.fwait.filter fun w => p w.1).length) 0

/-- The fault message of R428 is sent to a chiplet's supervisor core. -/
def sendFault (s : State) (ci : Nat) (f : Flt) (o : FaultSrc) (late pager : Bool) (pc w5 w7 : Word) : State :=
  let ci := s.faultChip ci
  let c := s.chip ci
  let w2 := f.code.num + o.src * 2 ^ 8 + b2n late * 2 ^ 11 + b2n pager * 2 ^ 12 + o.asid.toNat * 2 ^ 16 +
    o.tid * 2 ^ 32 + o.core * 2 ^ 45 + o.ctx * 2 ^ 48
  let m : Msg := { w := #v[c.fvec, W ((s.superTile ci).getD 0), W w2, f.info, pc, w5, W c.fseq, w7], asid := 0,
                   nfm := s.profNfm 0, sender := o.tid, colour := 0, kind := .fault }
  (s.modChip ci fun c => { c with fseq := (c.fseq + 1) % 2 ^ 64 }).postFault ci m

/-- Sends a fault whose message carries 64 bytes: they go to the fault log first (R429). -/
def sendCarry (s : State) (ci : Nat) (f : Flt) (o : FaultSrc) (carried : Vector Word 8) : State :=
  let ci := s.faultChip ci
  let c := s.chip ci
  if c.flog = 0 then s.sendFault ci f o false false 0 0 0
  else
    let pa := Bits c.flog 12 45 * 2 ^ 12 + 64 * c.flogN
    let s := s.modChip ci fun c => { c with flogN := (c.flogN + 1) % (Bits c.flog 0 12 + 1) }
    (s.rawStore pa 64 (unwords carried)).sendFault ci f o false false 0 (W pa) 0

/-- The context as the source of a fault. -/
def ctxSrc (s : State) (id : Nat) : FaultSrc :=
  { src := 0, tid := idTid id, core := idCore id, ctx := idCtx id, asid := (s.ctx id).asid }

/-! ### Raising a fault (R9, R26, R427, R437) -/

/-- Slots of a tile's pager area, and the address of slot i (R436). -/
def pagerSlots (s : State) (tid : Nat) : Nat := Bits (s.tile tid).pgarea 0 8
def pagerSlot (s : State) (tid i : Nat) : Nat := Bits (s.tile tid).pgarea 13 44 * 2 ^ 13 + 2 ^ 13 * i

/-- The lowest free pager slot of a tile (R437). -/
def freePager (s : State) (tid : Nat) : Option Nat :=
  (List.range (s.pagerSlots tid)).find? fun i => !((s.tile tid).pgused.any fun e => e.1 == i)

/-- Does a precise fault of a context take the pager path (R31, R414, R437)? -/
def pagerFor (s : State) (id : Nat) (f : Flt) : Option Nat :=
  let c := s.ctx id
  if (f.code == .xlateMiss || f.code == .xlatePerm) && s.profField c.asid 0 1 == 1 && idCtx id == 0 && c.child == 0
  then s.freePager (idTid id) else none

/-- A context is saved into an image at a physical address, beside what the image does not show (R81, R213). -/
def saveCtx (s : State) (pa id : Nat) (c : Ctx) : State :=
  let c := c.land
  let s := s.release (coreOf id) .sy
  let s := s.writeImage pa id c
  { s with saved := put pa { asid := c.asid, parts := [.ctx id c] } s.saved }

/-- The pager path (R31, R81, R437): the saved task is free of a capture that was wished for, and executes the
instruction again. -/
def toPager (s : State) (id slot : Nat) (f : Flt) : State :=
  let tid := idTid id
  let s := s.drainAccs id
  let c := s.ctx id
  let base := s.pagerSlot tid slot
  let s := s.saveCtx (base + 0x800) id c.unissued
  let s := s.rawStore base 32
    (2 ^ 62 + 2 ^ 48 + (2 ^ 31 + tid * 2 ^ 8 + slot) + 2 ^ 128 * (base + 0x20))
  let s := s.rawStore (base + 0x20) 16 (base + 0x40)
  let s := s.noteListed base (base + 0x20) { word0 := base + 0x40, next := 0, asid := c.asid, own := true }
  let s := s.rawStore (base + 0x40) 64 ((base + 0x800) + 2 ^ 64 * (tid + idCore id * 2 ^ 13 + 2 ^ 48))
  let r : FaultRec := { flt := f, late := false, sec := c.alone, prod := 0 }
  let s := s.modTile tid fun t => { t with pgused := t.pgused ++ [(slot, some r)] }
  let s := s.setCtx id {}
  s.sendFault (chipOf tid) f { (ctxSrc s id) with asid := c.asid } false true c.pc (W base) 0

/-- A context enters FAULTED, its PC as it stands, and the message goes to its supervisor (R26, R427, R428). -/
def halted (s : State) (id : Nat) (f : Flt) (late : Bool) (prod : Word) : State :=
  let c := s.ctx id
  let r : FaultRec := { flt := f, late := late, sec := c.alone, prod := prod }
  let s := s.setCtx id { c with st := .faulted, wait := .none, answer := .none, held := none, before := none, refet := none,
                                step := false, frec := some r }
  s.sendFault (chipOf (idTid id)) f (s.ctxSrc id) late false c.pc 0 prod

/-- A precise fault of a context (R9, R31, R427): its PC designates the faulting instruction. -/
def raiseAt (s : State) (id : Nat) (f : Flt) : State :=
  match s.pagerFor id f with
  | some slot => s.toPager id slot f
  | none => s.halted id f false 0

/-- A late fault of a context is raised at a switch point (R82). -/
def raiseLate (s : State) (id : Nat) (l : Late) : State :=
  (s.modCtx id fun c => { c with late := none }).halted id l.flt true l.pc

/-- A fault of the executing instruction: its context has the PC of the instruction (R9, R427). -/
def raise (s : State) (f : Flt) : State := (s.modMe fun c => { c with pc := s.cur.pc }).raiseAt s.cur.id f

/-! ### Completing an instruction -/

/-- The executing instruction completes without a transfer (R45, R51, R86). -/
def complete (s : State) : State :=
  let s := { s with cur := { s.cur with done := true } }
  if s.cur.fst then
    s.modMe fun c => { c with pc := s.cur.pc + 1, alone := true, before := none, held := none, wait := .none, answer := .none }
  else s.modMe fun c => c.after s.cur.pc

/-- The executing instruction transfers to t (`xfer` of R88). -/
def xfer (s : State) (t : Word) : State :=
  let s := s.modMe fun c => c.jumped s.cur.pc t
  { s with cur := { s.cur with done := true } }

/-- The executing instruction goes on at a without a transfer (R99): where it ends or lies in the body of the other armed set,
that set neither ends nor is disarmed (log 75). -/
def goto (s : State) (a : Word) : State :=
  let s := s.modMe fun c => { c with pc := a, alone := false, before := none, held := none, wait := .none, answer := .none }
  { s with cur := { s.cur with done := true } }

/-- Does a context that waits for this stay READY, held at issue (R27)? -/
def waitHolds : Wait → Bool
  | .status | .broker | .held | .topk _ | .bytes _ _ _ _ | .accs _ => true
  | _ => false

/-- The executing context waits; its PC stays at the instruction, which issued if it has its line (R26, R27). -/
def park (s : State) (w : Wait) : State :=
  let r := s.src.reads s.cur.pick
  s.modMe fun c =>
    let c := { c with st := if waitHolds w then .ready else .parked, wait := w, pc := s.cur.pc }
    match w with
    | .line _ => c
    | _ =>
      let h : Held := { word := s.cur.word, next := s.cur.next, fst := s.cur.fst, sec := s.cur.sec, free := s.cur.free }
      { c with before := some r, held := some h }

end State

/-- How an instruction ends when it does not stop. -/
inductive Res where
  /-- It completes without a transfer. -/
  | done (s : State)
  /-- It transfers to a legal target. -/
  | jump (s : State) (t : Word)
  /-- The state is as it stands: the context is parked, freed or moved by the meaning itself. -/
  | keep (s : State)

/-- What a meaning computes. -/
abbrev Act := M Res

/-- Outcomes of this machine. -/
abbrev Out := Host.Outcome State Fault Refusal

/-- The outcome of an instruction: a fault leaves everything as it was before (R9). -/
def State.finish (s : State) (a : Act) : Out :=
  match a with
  | .ok (.done t) => .next t.complete
  | .ok (.jump t pc) => .next (t.xfer pc)
  | .ok (.keep t) => .next t
  | .error (.flt f) => .next (s.raise f)
  | .error (.wait w t) => .next (t.park w)
  | .error (.late l) => .next ((s.modMe fun c => { c with pc := s.cur.pc }).raiseLate s.cur.id l)

/-- An instruction whose pseudocode only computes a next state. -/
def State.run (s : State) (a : M State) : Out :=
  s.finish (match a with
    | .ok t => .ok (.done t)
    | .error e => .error e)

/-- A fault of the slot under check (R64, R65). -/
def State.slotFault (s : State) (c : Code) (pos : Nat) (lw : Bool) : Out :=
  .next (s.raise { code := c, info := s.encInfo pos lw })

/-! ### Returning from a fault (R435) -/

namespace State

/-- The ASID and core of a context acquire at sy, after the supervisor's release (R435). -/
def resumeSync (s : State) (id : Nat) : State := (s.release s.myCore .sy).acquire (coreOf id) .sy

/-- A stopped context runs on from what f makes of it (R435): no breakpoint or step stops its first issue (R450). -/
def runOn (s : State) (id : Nat) (f : Ctx → Ctx) (step : Bool) : State :=
  s.modCtx id fun c => { f c with st := .ready, frec := none, exempt := true, step := step, before := none, held := none,
                                  pcset := false }

/-- TRET `.next`: the context goes on after the slot that its PC designates (R51, R87, R435; log 23); `step` of R450. -/
def resumeNext (s : State) (id : Nat) (step : Bool) : State :=
  let s := s.resumeSync id
  let c := s.ctx id
  let first := ((s.fetchLine (coreOf id) c.asid c.pc).toOption.map fun r => s.codeLine (coreOf id) r.1).getD 0
  let pair := first.toNat / 2 ^ 485 % 16
  let isFirst := !c.alone && (match pair, Bits c.pc 0 3 with
    | 1, 0 | 2, 1 | 3, 2 | 4, 3 | 5, 0 | 5, 2 | 6, 0 | 6, 3 | 7, 1 | 7, 3 => true
    | _, _ => false)
  s.runOn id (fun c => if isFirst then { c with pc := seqPc c.pc, alone := true } else c.after c.pc) step

/-- TRET `.at`: the context goes on at a legal target (R435). -/
def resumeAt (s : State) (id : Nat) (t : Word) : M State := do
  let c := s.ctx id
  let s ← s.legal (coreOf id) c.asid t (s.encInfo 0 false)
  .ok ((s.resumeSync id).runOn id (fun c => { c with pc := t, alone := false }) false)

end State
end Sys2Proof.Machine
end

