-- ==== Sys2Proof/Machine/Scalar.lean ====
section
/-! DEFINITION. Meanings of the scalar family (R105-R121). None of them faults in execution (R106). -/

namespace Sys2Proof.Machine

namespace State

/-- rd(X[r]) of R105, as operand k. -/
def rdx (s : State) (ty : Ty) (r : XReg) (k : Nat) : Int := rdN ty (s.rx r k).toNat

/-- The low n bits of X[r], as operand k. -/
def zx (s : State) (ty : Ty) (r : XReg) (k : Nat) : Nat := (s.rx r k).toNat % 2 ^ tyBits ty

/-- `put(r)` into X[d] with the ALU latency (R77, R105). -/
def putAlu (s : State) (d : XReg) (ty : Ty) (sat : Bool) (r : Int) : Out := s.run (.ok (s.wx d (Wi (putN ty sat r))))

/-- `put(r)` into X[d] with a latency above 1 (R77, R105). -/
def putLat (s : State) (l : Nat) (d : XReg) (ty : Ty) (sat : Bool) (r : Int) : Out :=
  s.run (.ok (s.wlat l (.x d (Wi (putN ty sat r)))))

/-- The second operand of the logic family, complemented under `.nb` (R111). -/
def nbOf (ty : Ty) (nb : Bool) (w : Nat) : Nat := if nb then 2 ^ tyBits ty - 1 - w else w

/-- The immediate of the logic family (R111). -/
def logImm (ty : Ty) (imm : BitVec 58) : Nat := wrapN (tyBits ty) (sextN imm.toNat 58)

/-- A compare writes its predicate (R119). -/
def putCmp (s : State) (pd : PReg) (ty : Ty) (op : CmpOp) (cb : Comb) (a b : Int) : Out :=
  s.run (.ok (s.wr (.p pd (combine cb (s.rp pd 3) (cmpHolds ty op a b)))))

end State

/-- ADD (R108). -/
def execAdd (d a b : XReg) (ty : Ty) (sat : Bool) (s : State) : Out :=
  s.putAlu d ty sat (s.rdx ty a 0 + s.rdx ty b 1)

/-- SUB (R108). -/
def execSub (d a b : XReg) (ty : Ty) (sat : Bool) (s : State) : Out :=
  s.putAlu d ty sat (s.rdx ty a 0 - s.rdx ty b 1)

/-- MUL (R108). -/
def execMul (d a b : XReg) (ty : Ty) (sat : Bool) (s : State) : Out :=
  s.putLat 4 d ty sat (s.rdx ty a 0 * s.rdx ty b 1)

/-- MULH (R109). -/
def execMulh (d a b : XReg) (ty : Ty) (s : State) : Out :=
  s.putLat 4 d ty false ((s.rdx ty a 0 * s.rdx ty b 1) / (2 ^ tyBits ty : Nat))

/-- DIV (R110). -/
def execDiv (d a b : XReg) (ty : Ty) (s : State) : Out :=
  s.putLat 12 d ty false (divQ ty (s.rdx ty a 0) (s.rdx ty b 1))

/-- REM (R110). -/
def execRem (d a b : XReg) (ty : Ty) (s : State) : Out :=
  s.putLat 12 d ty false (divR (s.rdx ty a 0) (s.rdx ty b 1))

/-- AND (R111). -/
def execAnd (d a b : XReg) (ty : Ty) (nb : Bool) (s : State) : Out :=
  s.putAlu d ty false (s.zx ty a 0 &&& State.nbOf ty nb (s.zx ty b 1) : Nat)

/-- OR (R111). -/
def execOr (d a b : XReg) (ty : Ty) (nb : Bool) (s : State) : Out :=
  s.putAlu d ty false (s.zx ty a 0 ||| State.nbOf ty nb (s.zx ty b 1) : Nat)

/-- XOR (R111). -/
def execXor (d a b : XReg) (ty : Ty) (nb : Bool) (s : State) : Out :=
  s.putAlu d ty false (s.zx ty a 0 ^^^ State.nbOf ty nb (s.zx ty b 1) : Nat)

/-- SHL (R112). -/
def execShl (d a b : XReg) (ty : Ty) (sat : Bool) (s : State) : Out :=
  s.putAlu d ty sat (shlZ (s.rdx ty a 0) (tyBits ty) (s.rx b 1).toNat)

/-- SHR (R112). -/
def execShr (d a b : XReg) (ty : Ty) (s : State) : Out :=
  s.putAlu d ty false (shrZ (s.zx ty a 0) (s.rx b 1).toNat)

/-- SHA (R112). -/
def execSha (d a b : XReg) (ty : Ty) (s : State) : Out :=
  s.putAlu d ty false (shaZ (sextN (s.zx ty a 0) (tyBits ty)) (s.rx b 1).toNat)

/-- ROT (R112). -/
def execRot (d a b : XReg) (ty : Ty) (r : Bool) (s : State) : Out :=
  s.putAlu d ty false (rotZ (tyBits ty) (s.zx ty a 0) (s.rx b 1).toNat r)

/-- MIN (R113). -/
def execMin (d a b : XReg) (ty : Ty) (s : State) : Out :=
  s.putAlu d ty false (min (s.rdx ty a 0) (s.rdx ty b 1))

/-- MAX (R113). -/
def execMax (d a b : XReg) (ty : Ty) (s : State) : Out :=
  s.putAlu d ty false (max (s.rdx ty a 0) (s.rdx ty b 1))

/-- MADD (R108). -/
def execMadd (d a b c : XReg) (ty : Ty) (sat : Bool) (s : State) : Out :=
  s.putLat 4 d ty sat (s.rdx ty a 0 * s.rdx ty b 1 + s.rdx ty c 2)

/-- ADDI (R114). -/
def execAddi (d a : XReg) (ty : Ty) (sat : Bool) (imm : BitVec 58) (s : State) : Out :=
  s.putAlu d ty sat (s.rdx ty a 0 + sextN imm.toNat 58)

/-- ANDI (R111). -/
def execAndi (d a : XReg) (ty : Ty) (imm : BitVec 58) (s : State) : Out :=
  s.putAlu d ty false (s.zx ty a 0 &&& State.logImm ty imm : Nat)

/-- ORI (R111). -/
def execOri (d a : XReg) (ty : Ty) (imm : BitVec 58) (s : State) : Out :=
  s.putAlu d ty false (s.zx ty a 0 ||| State.logImm ty imm : Nat)

/-- XORI (R111). -/
def execXori (d a : XReg) (ty : Ty) (imm : BitVec 58) (s : State) : Out :=
  s.putAlu d ty false (s.zx ty a 0 ^^^ State.logImm ty imm : Nat)

/-- SHLI (R112). -/
def execShli (d a : XReg) (ty : Ty) (sat : Bool) (n : Fin 64) (s : State) : Out :=
  s.putAlu d ty sat (shlZ (s.rdx ty a 0) (tyBits ty) n.val)

/-- SHRI (R112). -/
def execShri (d a : XReg) (ty : Ty) (n : Fin 64) (s : State) : Out :=
  s.putAlu d ty false (shrZ (s.zx ty a 0) n.val)

/-- SHAI (R112). -/
def execShai (d a : XReg) (ty : Ty) (n : Fin 64) (s : State) : Out :=
  s.putAlu d ty false (shaZ (sextN (s.zx ty a 0) (tyBits ty)) n.val)

/-- BCNT (R115): the count is zero-extended. -/
def execBcnt (d a : XReg) (ty : Ty) (op : CntOp) (s : State) : Out :=
  s.run (.ok (s.wx d (W (countN op (tyBits ty) (s.zx ty a 0)))))

/-- EXT (R116). -/
def execExt (d a : XReg) (signed : Bool) (pos len1 : Fin 64) (s : State) : Out :=
  s.run (.ok (s.wx d (Wi (extField (s.rx a 0).toNat pos.val (len1.val + 1) signed))))

/-- INS (R116). -/
def execIns (d a : XReg) (pos len1 : Fin 64) (s : State) : Out :=
  s.run (.ok (s.wx d (W (insField (s.rx d 3).toNat (s.rx a 0).toNat pos.val (len1.val + 1)))))

/-- LEA (R56, R117). -/
def execLea (d : XReg) (m : MemOp) (s : State) : Out :=
  s.run (.ok (s.wx d (effAddr (s.rx m.base 0) (s.rx m.idx 1) m)))

/-- SEL (R118). -/
def execSel (d a b : XReg) (c : PReg) (neg : Bool) (s : State) : Out :=
  s.run (.ok (s.wx d (if xor (s.rp c 2) neg then s.rx a 0 else s.rx b 1)))

/-- CMP (R119). -/
def execCmp (pd : PReg) (a b : XReg) (ty : Ty) (op : CmpOp) (cb : Comb) (s : State) : Out :=
  s.putCmp pd ty op cb (s.rdx ty a 0) (s.rdx ty b 1)

/-- CMPI (R119). -/
def execCmpi (pd : PReg) (a : XReg) (ty : Ty) (op : CmpOp) (cb : Comb) (imm : BitVec 58) (s : State) : Out :=
  s.putCmp pd ty op cb (s.rdx ty a 0) (sextN imm.toNat 58)

/-- PLOG (R120). -/
def execPlog (pd pa pb : PReg) (lut : BitVec 4) (s : State) : Out :=
  s.run (.ok (s.wr (.p pd (lut.getLsbD (2 * b2n (s.rp pa 0) + b2n (s.rp pb 1))))))

/-- MOVP (R121). -/
def execMovp (op : MovpOp) (s : State) : Out :=
  match op with
  | .all d => s.run (.ok (s.wx d (W (bitsOf ((List.finRange 8).map fun i => s.rp i (8 + i.val))))))
  | .spread a =>
    let v := s.rx a 0
    s.run (.ok ((List.finRange 8).foldl (fun t i => t.wr (.p i (Bit v i.val))) s))
  | .nz pd a => s.run (.ok (s.wr (.p pd (s.rx a 0 != 0))))
  | .bit d pa => s.run (.ok (s.wx d (W (b2n (s.rp pa 0)))))

end Sys2Proof.Machine
end

