-- ==== Sys2Proof/Machine/Lanes.lean ====
section
/-! DEFINITION. Elements and masks of vector registers (R122-R129), entries in use (R152, R479), rounding modes (R58) and
draws (R148). -/

namespace Sys2Proof.Machine

/-- Element e at width n (R122). -/
def el {w : Nat} (v : BitVec w) (n e : Nat) : Nat := v.toNat / 2 ^ (n * e) % 2 ^ n

/-- The number whose k elements of width n are given, the first lowest. -/
def packEls (n : Nat) : List Nat → Nat
  | [] => 0
  | x :: r => x % 2 ^ n + 2 ^ n * packEls n r

/-- A vector from its elements. -/
def ofEls (n : Nat) (l : List Nat) : VWord := BitVec.ofNat 1024 (packEls n l)

/-- Number of elements at width n (R122). -/
def lanes (n : Nat) : Nat := 1024 / n

/-- `put` of R105 per element: the n-bit pattern (R128). -/
def putEl (ty : Ty) (sat : Bool) (r : Int) : Nat := wrapN (tyBits ty) (if sat then tyClamp ty r else r)

namespace State

/-- Is element e active (R127)? -/
def active (s : State) (mk : PReg) (e : Nat) : Bool := (s.rk mk 4).getLsbD e

/-- The value of VD after the elements that are active got their results (R127). -/
def maskedEls (s : State) (d : VReg) (mk : PReg) (z : Bool) (n : Nat) (f : Nat → Nat) : VWord :=
  let old := s.rv d 3
  ofEls n ((List.range (lanes n)).map fun e => if s.active mk e then f e else if z then 0 else el old n e)

/-- Element e of the second operand (R126). -/
def elB (s : State) (b : VSrc) (n e : Nat) : Nat :=
  match b with
  | .vec vb => el (s.rv vb 1) n e
  | .sca xa => (s.rx xa 1).toNat % 2 ^ n

/-- A write at a latency: 1 is the ALU class (R77). -/
def wl (s : State) (l : Nat) (w : RegWrite) : State := if l = 1 then s.wr w else s.wlat l w

/-- A lane mask and its predicate are written together (R123). -/
def wk (s : State) (l : Nat) (n : PReg) (v : KWord) : State := (s.wl l (.k n v)).wl l (.p n (v != 0))

/-- An integer operation per element (R131). -/
def vint (s : State) (l : Nat) (d a : VReg) (b : VSrc) (mk : PReg) (ty : Ty) (z : Bool) (f : Nat → Nat → Nat) : Out :=
  let n := tyBits ty
  s.run (.ok (s.wl l (.v d (s.maskedEls d mk z n fun e => f (el (s.rv a 0) n e) (s.elB b n e)))))

/-- An arithmetic operation per element, read and put by type (R128, R131). -/
def vari (s : State) (l : Nat) (d a : VReg) (b : VSrc) (mk : PReg) (ty : Ty) (sat z : Bool) (f : Int → Int → Int) : Out :=
  s.vint l d a b mk ty z fun x y => putEl ty sat (f (rdN ty x) (rdN ty y))

/-! ### Rounding modes and entries in use -/

/-- The rounding mode of an RM field at slot bit `pos` (R58). -/
def rmOf (s : State) (rm : Rm) (pos : Nat) : M Nat :=
  match rm with
  | .rne => .ok 0 | .rtz => .ok 1 | .rdn => .ok 2 | .rup => .ok 3 | .rna => .ok 4 | .rsr => .ok 5
  | .dyn => if 6 ≤ s.src.rm.toNat then fail .illegalEncoding (s.encInfo pos false) else .ok s.src.rm.toNat

/-- The rounding mode of an entry's DRM, reached through the field at `pos` (R58). -/
def drmOf (s : State) (f : Fmt) (pos : Nat) : M Nat :=
  if f.drm = 7 then s.rmOf .dyn pos else .ok f.drm

/-- Entry k is used: it must be legal (R152). -/
def useEntry (s : State) (k : Nat) : M Fmt :=
  match entryCheck s.ftAt k with
  | some (c, scl) => fail .illegalEntry (W (k + c * 2 ^ 8 + b2n scl * 2 ^ 13))
  | none => .ok (fmtOf s.src.nfm (s.ftAt k))

/-- An entry is refused (R479). -/
def refuseEntry {α : Type} (k : Nat) : M α := fail .entryKind (W k)

/-- Entry k for a floating instruction (R129). -/
def floatEntry (s : State) (k : Nat) : M Fmt := do
  let f ← s.useEntry k
  if f.kind ≠ 0 || f.blk ≠ 0 then refuseEntry k else .ok f

/-- The draw of element e under RM 5 (R148). -/
def draw (s : State) (rm e : Nat) : Nat :=
  if rm = 5 then icg s.me.srkey.toNat ((s.me.srctr.toNat + e) % 2 ^ 128) 0 else 0

/-- SRCTR advances by n (R146, R148). -/
def advance (s : State) (n : Nat) : State := s.modMe fun c => { c with srctr := c.srctr + BitVec.ofNat 128 n }

/-- SRCTR advances after an instruction that used RM 5 (R148). -/
def advanceRm (s : State) (rm n : Nat) : State := if rm = 5 then s.advance n else s

/-- A rounded operation per element of VA (R129, R137), RM checked before the entry (R58, R152; log 76): `f` gives the exact value from the entry, a and the element. -/
def vflt (s : State) (l : Nat) (d a : VReg) (mk : PReg) (ft : FReg) (rm : Rm) (z : Bool)
    (f : Fmt → Nat → Num → Nat → Num) : Out :=
  s.run (do
    let r ← s.rmOf rm 48
    let t ← s.floatEntry ft.val
    let n := t.cbits
    let v := s.maskedEls d mk z n fun e => t.round r (s.draw r e) (f t r (t.decode (el (s.rv a 0) n e)) e)
    .ok ((s.wl l (.v d v)).advanceRm r (lanes n)))

/-- The decoded second operand. -/
def numB (s : State) (b : VSrc) (t : Fmt) (e : Nat) : Num := t.decode (s.elB b t.cbits e)

/-- VFMIN and VFMAX (R138). -/
def vfmm (s : State) (d a : VReg) (b : VSrc) (mk : PReg) (ft : FReg) (z : Bool) (max : Bool) : Out :=
  s.run (do
    let t ← s.floatEntry ft.val
    let n := t.cbits
    let v := s.maskedEls d mk z n fun e => t.round 1 0 (Num.minMax max (t.decode (el (s.rv a 0) n e)) (s.numB b t e))
    .ok (s.wl 4 (.v d v)))

/-- A lane mask from a condition per element (R133). -/
def cmpMask (s : State) (kd mk : PReg) (n : Nat) (cb : Comb) (f : Nat → Bool) : KWord :=
  BitVec.ofNat 128 (bitsOf ((List.range (lanes n)).map fun e =>
    s.active mk e && combine cb ((s.rk kd 3).getLsbD e) (f e)))

end State

/-! ### Reduction trees (R141) -/

/-- One level of the tree: pairs from the left; `comb x y step`. -/
def redLevel (comb : Nat → Nat → Nat → Nat) : List (Option Nat) → Nat → List (Option Nat) × Nat
  | x :: y :: r, k =>
    let (v, k) := match x, y with
      | none, y => (y, k)
      | x, none => (x, k)
      | some x, some y => (some (comb x y k), k + 1)
    let (l, k) := redLevel comb r k
    (v :: l, k)
  | l, k => (l, k)

/-- The tree over a list: its root. -/
def redTree (comb : Nat → Nat → Nat → Nat) : Nat → List (Option Nat) → Nat → Option Nat
  | 0, l, _ => (l.head?).join
  | fuel + 1, l, k =>
    if l.length ≤ 1 then (l.head?).join
    else
      let (l, k) := redLevel comb l k
      redTree comb fuel l k

namespace State

/-- The elements of VA that take part: the low w bits of their containers of n bits (R128, R141). -/
def presentEls (s : State) (a : VReg) (mk : PReg) (n w : Nat) : List (Option Nat) :=
  (List.range (lanes n)).map fun e => if s.active mk e then some (el (s.rv a 0) n e % 2 ^ w) else none

end State
end Sys2Proof.Machine
end

