-- ==== Sys2Proof/Machine/Formats.lean ====
section
/-! DEFINITION. Meanings of the format family (R149-R174, R379). -/

namespace Sys2Proof.Machine

/-- The register after an even one. -/
def xnext (r : XReg) : XReg := ⟨(r.val + 1) % 64, Nat.mod_lt _ (by decide)⟩

/-- The 128-bit value of an even pair: X[r] + X[r+1] x 2^64. -/
def State.pairX (s : State) (r : XReg) (k : Nat) : Nat := (s.rx r k).toNat + (s.rx (xnext r) (k + 1)).toNat * 2 ^ 64

namespace State

/-- Reuse entries of the executing ASID on its tile become STALE when p holds of the names and the SPEC 3 mark of what
they hold or of a job bound to them (R379). -/
def markStale (s : State) (p : List Nat → Bool → Bool) : State :=
  s.modTile s.myTid fun t =>
    let bound (k : Nat) : Bool := t.jobs.any fun j => match j.2.job.bind (·.arc) with
      | some a => a.ent == k && p a.names a.ctx
      | none => false
    { t with eng := { t.eng with arcs := t.eng.arcs.map fun x =>
      if x.2.held && x.2.asid == s.myAsid && (p x.2.names x.2.ctx || bound x.1) then
        (x.1, { x.2 with stale := true, mark := s.jseq }) else x } }

/-- Entry n is written (R149, R168), and reuse entries that name it become STALE (R379). -/
def setFt (s : State) (n : Nat) (e : EntryBits) : State :=
  (s.modMe fun c => { c with ft := setV c.ft (n - 8) e }).markStale fun l _ => l.contains n

end State

/-- The fields of a family entry (R160, R169). -/
def genEntry (p : Nat) (u noinf ctx sat : Bool) : EntryBits :=
  let ew := if u then 9 - p else 8 - p
  let bias : Int := (2 ^ (if u then 8 - p else 7 - p) : Nat)
  mkEntry 0 (b2n !u) 8 ew (p - 1) bias (if ctx then 3 else if noinf then 2 else 1) (b2n !(sat || noinf)) 1

/-- FTSET (R168); an earlier MJOB of the context holds its context until it is answered, so it has been admitted (R164). -/
def execFtset (f : FReg) (a : XReg) (s : State) : Out :=
  s.run (.ok (s.setFt f.val (BitVec.ofNat 128 (s.pairX a 0))))

/-- FTGET (R168). -/
def execFtget (d : XReg) (f : FReg) (s : State) : Out :=
  s.run (.ok ((s.wx d (wordOf (s.ftAt f.val) 0)).wx (xnext d) (wordOf (s.ftAt f.val) 1)))

/-- FTGEN (R169). -/
def execFtgen (f : FReg) (p : Fin 8) (u noinf ctx sat : Bool) (s : State) : Out :=
  s.run (.ok (s.setFt f.val (genEntry p.val u noinf ctx sat)))

/-- NFMSET (R170, R379). -/
def execNfmset (n : Bool) (s : State) : Out :=
  s.run (.ok ((s.modMe fun c => { c with nfm := n }).markStale fun _ c => c))

namespace State

/-- An entry that a scalar conversion names: not scaled (R171). -/
def plainEntry (s : State) (k : Nat) : M Fmt := do
  let f ← s.useEntry k
  if f.blk ≠ 0 then refuseEntry k else .ok f

end State

/-- CVT (R171): RM is checked first, then the destination entry wholly, then the source entry (log 76). -/
def execCvt (d a : XReg) (op : CvtOp) (rm : Rm) (s : State) : Out :=
  s.run (do
    let r ← s.rmOf rm 10
    let u := s.draw r 0
    match op with
    | .fmt dst src => do
      let fd ← s.plainEntry dst.val
      let fs ← s.plainEntry src.val
      .ok ((s.wlat 4 (.x d (W (fd.round r u (fs.decode (s.rx a 0).toNat))))).advanceRm r 1)
    | .xi ty dst => do
      let fd ← s.plainEntry dst.val
      .ok ((s.wlat 4 (.x d (W (fd.round r u (.fin (Dy.ofInt (s.rdx ty a 0))))))).advanceRm r 1)
    | .xo ty src => do
      let fs ← s.plainEntry src.val
      let v := roundToInt r u (tyLo ty) (tyHi ty) (fs.decode (s.rx a 0).toNat)
      .ok ((s.wlat 4 (.x d (Wi v))).advanceRm r 1))

/-! ### VCVT (R172, R173) -/

/-- Greatest finite value of an entry. -/
def Fmt.maxValue (f : Fmt) : Dy :=
  if f.kind ≠ 0 then { Dy.ofInt f.hi with e := if f.kind = 2 then -f.bias else 0 }
  else match f.decode f.maxCode with
    | .fin v => v
    | _ => { neg := false, m := 0, e := 0 }

/-- log2 of the largest power of two not above the greatest finite value (R173). -/
def Fmt.log2Max (f : Fmt) : Int := f.maxValue.log2

/-- The larger of two magnitudes. -/
def maxMag (a b : Dy) : Dy :=
  let a := { a with neg := false }
  let b := { b with neg := false }
  if a.cmp b == .lt then b else a

/-- The scale code of a block of source values (R173). -/
def blockScale (fd sc : Fmt) (l : List Num) : Nat :=
  let m := l.foldl (fun acc x => match x with
    | .fin v => maxMag acc v
    | _ => acc) { neg := false, m := 0, e := 0 }
  if fd.kind ≠ 0 && l.any Num.isNan then sc.nanCode
  else if m.m = 0 then sc.round 3 0 (.fin { neg := false, m := 1, e := 0 })
  else sc.round 3 0 (.fin { neg := false, m := 1, e := m.log2 - fd.log2Max })

/-- VCVT (R172, R173): RM is checked first, then the destination entry, then the source entry (log 76); where VC is VD, the
scale codes are written over VD, beside the old bytes of VC (log 77). -/
def execVcvt (d a c : VReg) (mk : PReg) (ft : FReg) (rm : Rm) (src : FReg) (part : Fin 8) (s : State) : Out :=
  s.run (do
    let r ← s.rmOf rm 48
    let fd ← s.useEntry ft.val
    let fs ← s.useEntry src.val
    let ns := fs.cbits
    let nd := fd.cbits
    let hi := if ns < nd then nd else ns
    let lo := if ns < nd then ns else nd
    let E := 1024 / hi
    let g := part.val
    if hi / lo ≤ g || E < fd.blk then State.refuseEntry ft.val
    else
      let sS := fmtOf s.src.nfm (s.ftAt fs.scent)
      let sD := fmtOf s.src.nfm (s.ftAt fd.scent)
      let srcIx (e : Nat) : Nat := if ns < nd then e + g * E else e
      let dstIx (e : Nat) : Nat := if nd < ns then e + g * E else e
      let vc := s.rv c 2
      let val (e : Nat) : Num :=
        let i := srcIx e
        let x := fs.decode (el (s.rv a 0) ns i)
        if fs.blk = 0 then x else scaled x (sS.decode (el vc 8 (i / fs.blk)))
      let es := (List.range E).filter (s.active mk)
      let blocks : List (Nat × Nat) :=
        if fd.blk = 0 then []
        else (List.range (dstIx (E - 1) / fd.blk + 1)).filterMap fun b =>
          let l := es.filter fun e => dstIx e / fd.blk == b
          if l.isEmpty then none else some (b, blockScale fd sD (l.map val))
      let code (e : Nat) : Nat :=
        let x := val e
        let x := if fd.blk = 0 then x else x.div (sD.decode (getD 0 blocks (dstIx e / fd.blk)))
        fd.round r (s.draw r e) x
      let old := s.rv d 3
      let new := (List.range (1024 / nd)).map fun o =>
        match es.find? fun e => dstIx e == o with
        | some e => code e
        | none => el old nd o
      let s := s.wlat 4 (.v d (ofEls nd new))
      let s := if fd.blk = 0 then s
        else s.wlat 4 (.v c (ofEls 8 ((List.range 128).map fun b => (find b blocks).getD (el vc 8 b))))
      .ok (s.advanceRm r E))

/-! ### VPACK, VUNPK (R174) -/

/-- VPACK (R174). -/
def execVpack (d a : VReg) (ft : FReg) (part : Fin 8) (s : State) : Out :=
  s.run (do
    let f ← s.useEntry ft.val
    let E := 1024 / f.cbits
    let w := f.width
    if 1024 < (part.val + 1) * E * w then State.refuseEntry ft.val
    else
      let lo := w * part.val * E
      let old := (s.rv d 3).toNat
      let new := packEls w ((List.range E).map fun e => el (s.rv a 0) f.cbits e)
      .ok (s.wr (.v d (BitVec.ofNat 1024 (old - old / 2 ^ lo % 2 ^ (w * E) * 2 ^ lo + new * 2 ^ lo)))))

/-- VUNPK (R174). -/
def execVunpk (d a : VReg) (ft : FReg) (part : Fin 8) (s : State) : Out :=
  s.run (do
    let f ← s.useEntry ft.val
    let E := 1024 / f.cbits
    let w := f.width
    if 1024 < (part.val + 1) * E * w then State.refuseEntry ft.val
    else .ok (s.wr (.v d (ofEls f.cbits ((List.range E).map fun e => el (s.rv a 0) w (part.val * E + e))))))

end Sys2Proof.Machine
end

