-- ==== Sys2Proof/Machine/Dense.lean ====
section
/-! DEFINITION. The arithmetic of the dense engine (R289-R292, R297, R298): chunks, alignment, exact sums, top-k ranking. -/

namespace Sys2Proof.Machine

/-! ### Entries and planes (R289) -/

/-- Storage width of an operand. -/
def storeWidth (f : Fmt) : Nat := if f.width ≤ 4 then 4 else if f.width ≤ 8 then 8 else 16

/-- Elements of a 512-byte chunk. -/
def chunkLen (f : Fmt) : Nat := 4096 / storeWidth f

/-- Planes of an A operand, and of a sparse one (R289, R319). -/
def planesA (f : Fmt) : Nat := if f.kind = 0 then f.fw + 5 else f.width

/-- Planes of a B operand. -/
def planesB (f : Fmt) : Nat := if f.kind = 0 then Nat.min (f.fw + 5) (storeWidth f) else f.width

/-- May the entry be a B entry (R289)? -/
def bEntryOk (f : Fmt) : Bool := f.kind != 0 || decide (f.fw + 2 ≤ storeWidth f)

/-- ft0 as a format. -/
def f32 : Fmt := fmtOf false (fixedEntry 0)

/-- Rounding to ft0 with RNE, as a code and as a value. -/
def toF32 (v : Num) : Nat := f32.round 0 0 v
def ofF32 (c : Nat) : Num := f32.decode c
def rnd32 (v : Num) : Num := ofF32 (toF32 v)

/-! ### Alignment (R290) -/

/-- An aligned row or column of a chunk: integers, the exponent of q, the decoded values, and whether one is a NaN or an
infinity. -/
structure Chunk where
  xs   : List Int := []
  q    : Int := 0
  vals : List Num := []
  spec : Bool := false

/-- v / 2^e truncated toward zero. -/
def truncAt (v : Num) (e : Int) : Int :=
  match v with
  | .fin d =>
    let k := d.e - e
    let m : Nat := if 0 ≤ k then d.m * 2 ^ k.toNat else d.m / 2 ^ (-k).toNat
    if d.neg then -(m : Int) else m
  | _ => 0

/-- floor(log2) of the largest finite non-zero magnitude, if any. -/
def topExp (vals : List Num) : Option Int :=
  vals.foldl (fun acc v => match v with
    | .fin d =>
      if d.m = 0 then acc
      else match acc with
        | none => some d.log2
        | some e => some (if e < d.log2 then d.log2 else e)
    | _ => acc) none

/-- Is it a NaN or an infinity? -/
def Num.special : Num → Bool
  | .fin _ => false
  | _ => true

/-- The integer code of an element, read by SIGN. -/
def intCode (f : Fmt) (c : Nat) : Int := if f.sgn then sextN c f.width else (c % 2 ^ f.width : Nat)

/-- A row or column in P planes: the codes, and their decoded values (R290). -/
def alignChunk (f : Fmt) (p : Nat) (codes : List Nat) (vals : List Num) : Chunk :=
  let spec := vals.any Num.special
  if f.kind ≠ 0 then { xs := codes.map (intCode f), q := if f.kind = 2 then -f.bias else 0, vals := vals, spec := spec }
  else match topExp vals with
    | none => { xs := vals.map fun _ => 0, q := 0, vals := vals, spec := spec }
    | some e =>
      let q := e - ((p : Int) - 2)
      { xs := vals.map fun v => truncAt v q, q := q, vals := vals, spec := spec }

/-- Values of the elements of a chunk; `scale b` is the value of the scale code of block b (R158). -/
def chunkVals (f : Fmt) (codes : List Nat) (scale : Nat → Num) : List Num :=
  if f.blk = 0 then codes.map f.decode else (codes.zipIdx).map fun (c, k) => scaled (f.decode c) (scale (k / f.blk))

/-- Codes of a 512-byte chunk (R289). -/
def chunkCodes (f : Fmt) (data : Nat) : List Nat :=
  (List.range (chunkLen f)).map fun e => data / 2 ^ (storeWidth f * e) % 2 ^ storeWidth f

/-- A chunk read through an entry and its scale entry. -/
def readChunk (f sc : Fmt) (p data : Nat) (codes : Nat → Nat) : Chunk :=
  let c := chunkCodes f data
  alignChunk f p c (chunkVals f c fun b => sc.decode (codes b))

/-! ### Sums (R291, R292) -/

/-- special(i, j, c): a position past the shorter side counts as zero. -/
def specials : List Num → List Num → List Num
  | a :: as, b :: bs => Num.mul a b :: specials as bs
  | a :: as, [] => Num.mul a (.fin { neg := false, m := 0, e := 0 }) :: specials as []
  | [], b :: bs => Num.mul (.fin { neg := false, m := 0, e := 0 }) b :: specials [] bs
  | [], [] => []

/-- What the products of a chunk with a NaN or an infinity sum to (R292). -/
def specialSum (l : List Num) : Num :=
  let has (n : Num) : Bool := l.contains n
  if l.any Num.isNan || (has (.inf false) && has (.inf true)) then .nan
  else if has (.inf true) then .inf true
  else if has (.inf false) then .inf false
  else .fin { neg := false, m := 0, e := 0 }

/-- One chunk of one output element (R291). -/
def accStep (a b : Chunk) (acc : Num) : Num :=
  if a.spec || b.spec then rnd32 (acc.add false (specialSum (specials a.vals b.vals)))
  else
    let s : Int := (List.zipWith (· * ·) a.xs b.xs).foldl (· + ·) 0
    if s = 0 then acc
    else rnd32 (acc.add false (.fin { neg := decide (s < 0), m := s.natAbs, e := a.q + b.q }))

/-- +0. -/
def zeroNum : Num := .fin { neg := false, m := 0, e := 0 }

/-! ### Attention (R298) -/

/-- The maximum of a row, NaN if any is NaN. -/
def maxRow (z : List Num) : Num :=
  if z.any Num.isNan then .nan else z.foldl (Num.minMax true) (.inf true)

/-- The sum by the tree of R141 with RNE. -/
def sumTree (e : List Nat) : Nat :=
  (redTree (fun x y _ => toF32 ((ofF32 x).add false (ofF32 y))) 16 (e.map some) 0).getD 0

/-! ### Top-k ranking (R297) -/

/-- Does key a rank above key b?  none when neither does. -/
def keyAbove (a b : Num) : Option Bool :=
  match a.isNan, b.isNan with
  | true, true => none
  | true, false => some false
  | false, true => some true
  | false, false =>
    match a.cmp b with
    | .gt => some true
    | .lt => some false
    | .eq => none

/-- The strict ranking of R297. -/
def ranksAbove (a b : TopE) : Bool :=
  match keyAbove (ofF32 a.key.toNat) (ofF32 b.key.toNat) with
  | some r => r
  | none =>
    if a.col ≠ b.col then decide (a.col < b.col)
    else (keyAbove (ofF32 a.raw.toNat) (ofF32 b.raw.toNat)).getD false

/-- An entry is inserted into a row that keeps its k highest. -/
def topInsert (k : Nat) (e : TopE) (l : List TopE) : List TopE :=
  let above := l.takeWhile fun o => !ranksAbove e o
  (above ++ e :: l.drop above.length).take k

end Sys2Proof.Machine
end

