-- ==== Sys2Proof/Machine/Names.lean ====
section
/-! DEFINITION. Fields of job and copy descriptors (R283, R331, R341), and the banks that live jobs, copies and subscriptions
name (R183). -/

namespace Sys2Proof.Machine

/-- Field [lo+n-1:lo] of a descriptor, bits counted from its byte 0. -/
def jb (d : BitVec 512) (lo n : Nat) : Nat := d.toNat / 2 ^ lo % 2 ^ n

/-- Fields of a descriptor (R283). -/
def jSrc0 (d : BitVec 512) : Word := W (jb d 0 64)
def jSrc1 (d : BitVec 512) : Word := W (jb d 64 64)
def jDst (d : BitVec 512) : Word := W (jb d 128 64)
def jRec (d : BitVec 512) : Word := W (jb d 198 58 * 2 ^ 6)
def jCs (d : BitVec 512) : Nat := jb d 196 2
def jFut (d : BitVec 512) : Word := W (jb d 261 59 * 2 ^ 5)
def jM (d : BitVec 512) : Nat := jb d 320 9
def jN (d : BitVec 512) : Nat := jb d 329 8
def jBk (d : BitVec 512) : Nat := jb d 337 2
def jFa (d : BitVec 512) : Nat := jb d 339 5
def jFo (d : BitVec 512) : Nat := jb d 344 5
def jOrm (d : BitVec 512) : Nat := jb d 349 3
def jLda (d : BitVec 512) : Nat := jb d 352 16
def jLdo (d : BitVec 512) : Nat := jb d 368 16
def jX (d : BitVec 512) (lo n : Nat) : Nat := jb d (384 + lo) n
def jDep (d : BitVec 512) (i : Nat) : Nat := jb d (424 + 20 * i) 20

/-- Does the kind write an output as in R296? -/
def kindOut : JobKind → Bool
  | .bload | .opmul => false
  | _ => true

/-- REC of a copy or subscription descriptor (R331, R341). -/
def cRec (d : BitVec 512) : Word := W (State.cpF d 5 6 58 * 2 ^ 6)

namespace State

/-! ### Banks that addresses lie in -/

/-- Banks from one byte address to another, if they lie in banks: (tile, bank) pairs. -/
def banksBetween (own : Nat) (a b : Word) : List (Nat × Nat) :=
  if Bits a 60 4 = 1 || Bits a 60 4 = 2 then
    let t := bankTile own a
    let x := Bits a 17 5
    let y := Bits b 17 5
    let lo := if x ≤ y then x else y
    let hi := if x ≤ y then y else x
    (List.range (hi - lo + 1)).map fun i => (t, lo + i)
  else []

/-- Do bytes from an address on lie in a bank of a tile, through path 1 or path 2, for a unit of tile `own` (R184)? -/
def runIn (own tid b : Nat) (a : Word) (len : Nat) : Bool :=
  let meets (base : Nat) : Bool := decide (a.toNat < base + 2 ^ 17) && decide (base < a.toNat + len)
  (own == tid && meets (2 ^ 60 + b * 2 ^ 17)) ||
    meets (2 ^ 61 + tileY tid * 2 ^ 29 + tileX tid * 2 ^ 22 + b * 2 ^ 17)

/-- The banks that n bytes from an address on lie in, for a unit of a tile. -/
def rangeBanks (own : Nat) (a : Word) (n : Nat) : List (Nat × Nat) := if n = 0 then [] else banksBetween own a (a + W (n - 1))

/-- The banks of n rows of len bytes at a stride, for a unit of a tile. -/
def rowBanks (own : Nat) (a : Word) (stride len n : Nat) : List (Nat × Nat) :=
  (List.range n).foldl (fun l i =>
    l ++ (rangeBanks own (a + W (i * stride)) len).filter fun p => !l.contains p) []

/-- What an engine of a tile reads at an address, if it can, without a trace. -/
def peek (s : State) (tid : Nat) (asid : BitVec 10) (ea : Word) (n : Nat) : Nat :=
  match s.load (engAgent tid asid) ea n with
  | .ok (v, _, _) => v
  | .error _ => 0

/-! ### Names of jobs, copies and subscriptions (R183) -/

/-- Banks that the arrays of a handle lie in (R183, R311). -/
def handleBanks (tid h : Nat) (cb : Nat) : List (Nat × Nat) :=
  let w (i : Nat) : Nat := h / 2 ^ (64 * i) % 2 ^ 64
  let t := w 1 % 2 ^ 32
  let nout := w 0 / 2 ^ 32 % 2 ^ 16 + 1
  let nin := w 0 / 2 ^ 48 % 2 ^ 16 + 1
  let l1 := w 0 / 2 ^ 6 % 4
  let crd := if l1 = 2 then nout * ((nin + 63) / 64) * 8 else 2 * t
  rangeBanks tid (W (w 2)) 8 ++ rangeBanks tid (W (w 3)) (2 * Nat.max t nout) ++
    rangeBanks tid (W (w 4)) (4 * (nout + 1)) ++ rangeBanks tid (W (w 5)) crd ++ rangeBanks tid (W (w 6)) (cb * t)

/-- Banks of a handle image at an address, and of its arrays; `held`: the image as the job read it at its issue (R319). -/
def imageBanks (s : State) (tid : Nat) (asid : BitVec 10) (ea : Word) (cb : Nat) (held : Option Nat) : List (Nat × Nat) :=
  rangeBanks tid ea 64 ++ handleBanks tid (held.getD (s.peek tid asid ea 64)) cb

/-- Banks of a group table and of the columns that its groups from g on name (R300). -/
def groupBanks (s : State) (tid : Nat) (j : Job) (g : Nat) : List (Nat × Nat) :=
  let n := jX j.desc 0 8 + 1
  rangeBanks tid (jSrc1 j.desc) (16 * n) ++ (List.range n).flatMap fun i =>
    if i < g then []
    else
      let e := s.peek tid j.asid (jSrc1 j.desc + W (16 * i)) 16
      rowBanks tid (W e) (e / 2 ^ (64 + 19) % 2 ^ 16 * 64) 512 (jN j.desc + 1)

/-- Banks of the tiles' address space that a live job names: by its descriptor, by the handles and the group table that it
reads, by its stored input and output, and by its rings (R183). -/
def jobBanks (s : State) (tid : Nat) (j : Job) : List (Nat × Nat) :=
  let d := j.desc
  let fmt (i : Nat) : Fmt := fmtOf false (j.ents.getD i {}).e
  let rows := if j.kind == .grpmm then 512 else jM d + 1
  let n := jN d + 1
  let kc := if jBk d = 2 && (j.kind == .mma || j.kind == .mmab) then 2 else 1
  let width := if j.kind == .attn then (s.tile tid).b1.nb else n
  let src0 := match j.kind with
    | .bload => rowBanks tid (jSrc0 d) (jLda d * 64) 512 n
    | .epi => rowBanks tid (jSrc0 d) (jLda d * 64) (n * (fmt 0).cbytes) rows
    | .spmm | .opmul => s.imageBanks tid j.asid (jSrc0 d) (fmt 0).cbytes j.acc[0]?
    | .opmrg => rangeBanks tid (jSrc0 d) (rows * n * 64)
    | _ => rowBanks tid (jSrc0 d) (jLda d * 64) (kc * 512) rows
  let src1 := match j.kind with
    | .spmm | .opmul => s.imageBanks tid j.asid (jSrc1 d) (fmt 1).cbytes j.acc[1]?
    | .grpmm => match j.table with
      | some e => rowBanks tid (W e) (e / 2 ^ (64 + 19) % 2 ^ 16 * 64) 512 n
      | none => s.groupBanks tid j (j.acc.getD 0 0) ++
          rowBanks tid (W (j.acc.getD 6 0)) (j.acc.getD 5 0 * 64) 512 (if j.acc.isEmpty then 0 else n)
    | .opmrg => rangeBanks tid (jSrc1 d) (32 * rows)
    | .epi => rangeBanks tid (jSrc1 d) (4 * n)
    | .attn => rangeBanks tid (jSrc1 d) (8 * rows)
    | _ => if (fmt 0).blk = 0 then rangeBanks tid (jSrc1 d) (4 * n)
           else rangeBanks tid (jSrc1 d) (Nat.max rows n * kc * (chunkLen (fmt 0) / (fmt 0).blk))
  let dst := if kindOut j.kind then rowBanks tid (jDst d) (jLdo d * 16) (width * (fmt 3).cbytes) rows else []
  let rings := (List.range 4).filterMap fun i => if jDep d i / 2 ^ 18 = 3 then some (tid, jDep d i % 32) else none
  let arc := match j.arc.map (·.desc) with
    | none => []
    | some l => rangeBanks tid (wordAt l 1) (rows * (if j.kind == .epi then n * (fmt 0).cbytes else kc * 512)) ++
        rangeBanks tid (wordAt l 2) (rows * width * (fmt 3).cbytes)
  src0 ++ src1 ++ dst ++ rangeBanks tid (jRec d) 32 ++ rings ++ arc

/-- Does a copy of a tile name a bank: by a run at either end, by its guarded range, or by its record (R183, R331, R335)? -/
def copyNames (own : Nat) (d : BitVec 512) (tid b : Nat) : Bool :=
  let l := cpF d 2 0 24 + 1
  let runs := copyTotal d / l
  ((List.range runs).any fun r =>
    runIn own tid b (copySrc d (r * l)) l || runIn own tid b (copyDst d (r * l)) l) ||
  (cpF d 7 0 1 == 1 && runIn own tid b (copyDst d 0) ((copyDst d (copyTotal d - 1)).toNat - (copyDst d 0).toNat + 1)) ||
  runIn own tid b (cRec d) 32

/-- Does a subscription name a bank: by its ring, or by its record (R183, R341)? -/
def subNames (u : Sub) (tid b : Nat) : Bool :=
  (u.tid == tid && Bits (W (cpF u.desc 1 0 64)) 17 5 == b) || runIn (idTid u.sub) tid b (cRec u.desc) 32

/-- Does a live job, copy, window copy or subscription name the bank (R183)? -/
def bankNamed (s : State) (tid b : Nat) : Bool :=
  s.tiles.any (fun t =>
    t.2.jobs.any (fun j => match j.2.job with
      | some j => (s.jobBanks t.1 j).contains (tid, b)
      | none => false) ||
    t.2.eng.chans.any (fun c => c.2.queue.any fun y => copyNames t.1 y.desc tid b) ||
    (t.1 == tid && t.2.eng.wins.any fun w => w.2.st == .filling &&
      decide ((winRange w.2).1 / 2 ^ 17 ≤ b) && decide (b ≤ (winRange w.2).2 / 2 ^ 17))) ||
  s.quars.any fun q => q.2.subs.any fun u => u.2.live && subNames u.2 tid b

end State
end Sys2Proof.Machine
end

