-- ==== Sys2Proof/Machine/Records.lean ====
section
/-! DEFINITION. Futures, wait nodes and deliveries (R234-R241), and messages that units send (R258, R262, R263, R273). -/

namespace Sys2Proof.Machine

/-- Identity of a resolver (R234 RID). -/
structure Resolver where
  tid  : Nat
  core : Nat
  ctx  : Nat
  kind : Nat
  asid : BitVec 10
deriving DecidableEq, Repr

/-- RID (R234). -/
def Resolver.word (r : Resolver) : Nat :=
  r.tid + r.core * 2 ^ 13 + r.ctx * 2 ^ 16 + r.kind * 2 ^ 20 + r.asid.toNat * 2 ^ 23

/-- ST of a future's word 0 (R234). -/
def futSt (w0 : Nat) : Nat := w0 / 2 ^ 62 % 4
/-- WCNT, GEN and OWN. -/
def futWcnt (w0 : Nat) : Nat := w0 / 2 ^ 48 % 2 ^ 14
def futGen (w0 : Nat) : Nat := w0 / 2 ^ 32 % 2 ^ 16
def futOwn (w0 : Nat) : Nat := w0 % 2 ^ 32
/-- Word 0 of a future. -/
def futWord (st wcnt gen own : Nat) : Nat := own + gen % 2 ^ 16 * 2 ^ 32 + wcnt * 2 ^ 48 + st * 2 ^ 62

namespace State

/-- Arming at the home (R235): EMPTY becomes ARMED. -/
def armFut (s : State) (pa : Nat) : State :=
  let w := s.rawLoad pa 8
  if futSt w = 0 then s.rawStore pa 8 (w + 2 ^ 62) else s

/-- A submission arms its future: the request is on its way to the home (R235, R303, R346, R368, R468). -/
def sendArm (s : State) (fut : Option Nat) : State := { s with arms := s.arms ++ fut.toList }

/-- Request n reaches its home. -/
def serveArm (s : State) (n : Nat) : State :=
  match s.arms[n]? with
  | some pa => ({ s with arms := dropNth s.arms n }).armFut pa
  | none => s

/-- The requests for a future arrive before the resolution by its engine. -/
def armsOf (s : State) (pa : Nat) : State :=
  if s.arms.contains pa then ({ s with arms := s.arms.filter (· != pa) }).armFut pa else s

/-- The one ASID that can have written a byte of memory, if only one maps it for stores (R10; log 71). -/
def soleWriter (s : State) (pa : Nat) : Option (BitVec 10) :=
  match s.spaces.filter fun e => s.maps (BitVec.ofNat 10 e.1) pa with
  | [e] => some (BitVec.ofNat 10 e.1)
  | _ => none

/-- Who wrote the words that lead to a node: the homes, software of an ASID, or software of an ASID that is not known. -/
inductive Trail where
  | homes
  | soft (a : BitVec 10)
  | lost
deriving DecidableEq, Repr

/-- Software wrote a byte. -/
def trailOf (s : State) (pa : Nat) : Trail :=
  match s.soleWriter pa with
  | some a => .soft a
  | none => .lost

/-- The listed nodes of the future `fut`, from a node on: the word 0 of each, and the ASID of its record (R238, R258).  From a
node on that software wrote, or that a forged HEAD names, deliveries are not defined, in the ASID of that software only: what
the words there say may be followed, or not, as far as they name a slot of a record in memory of that ASID; where the ASID is
not known they are not followed (R10, R237, R238; log 71). -/
def nodesFrom (s : State) (fut : Nat) : Nat → Trail → Nat → List (Nat × BitVec 10)
  | 0, _, _ => []
  | n + 1, trail, node =>
    if node = 0 then []
    else
      let w := s.rawLoad node 8
      let nxt := s.rawLoad (node + 8) 8
      let forged (t : Trail) : List (Nat × BitVec 10) :=
        match t with
        | .soft a =>
          if Config.pickNew s.seq n && node % 16 == 0 && decide (w % 8 ≤ 5) && s.maps a node && s.maps a (w / 64 * 64) then
            (w, a) :: s.nodesFrom fut n (.soft a) nxt
          else []
        | _ => []
      match trail, find node s.listed with
      | .homes, some k =>
        if k.word0 = w && k.next = nxt then
          (w, k.asid) :: s.nodesFrom fut n (if k.own then .homes else s.trailOf fut) nxt
        else forged (s.trailOf node)
      | .homes, none => forged (s.trailOf fut)
      | t, _ => forged t

/-- Is the HEAD of a future the one that its home wrote, or 0 (R237)? -/
def headOwn (s : State) (pa head : Nat) : Bool := head = 0 || find pa s.heads == some head

/-- The home lists a node of an ASID on a future (R244). -/
def listNode (s : State) (pa node word0 : Nat) (a : BitVec 10) : State :=
  let head := s.rawLoad (pa + 16) 8
  let k : Listed := { word0 := word0, next := head, asid := a, own := s.headOwn pa head }
  let s := s.rawStore node 8 word0
  let s := s.rawStore (node + 8) 8 head
  let s := s.rawStore (pa + 16) 8 node
  let s := s.rawStore pa 8 (s.rawLoad pa 8 + 2 ^ 48)
  s.noteListed pa node k

/-- A delivery is on its way from a future's home to the home of a record (R239). -/
def deliver (s : State) (pa node0 : Nat) (v : Word) (asid : BitVec 10) (colour : BitVec 4) : State :=
  let t := attach (quarryOf pa)
  let d : Delivery := { home := node0 / 64 * 64, k := node0 % 8, value := v, asid := asid, colour := colour, sender := t }
  { s.inject t colour with delivs := s.delivs ++ [d] }

/-- The nodes that a resolution of the future delivers to (R237, R239). -/
def listedNodes (s : State) (pa : Nat) : List (Nat × BitVec 10) :=
  let head := s.rawLoad (pa + 16) 8
  s.nodesFrom pa (futWcnt (s.rawLoad pa 8)) (if s.headOwn pa head then .homes else s.trailOf pa) head

/-- A resolution at the home (R235, R239): false when the future was resolved already. -/
def resolveFut (s : State) (pa : Nat) (ok : Bool) (v : Word) (r : Resolver) (colour : BitVec 4) : Bool × State :=
  let w := s.rawLoad pa 8
  if 2 ≤ futSt w then (false, s)
  else
    let nodes := s.listedNodes pa
    let s := s.rawStore pa 8 (futWord (if ok then 2 else 3) 0 (futGen w) (futOwn w))
    let s := s.rawStore (pa + 8) 8 v.toNat
    let s := s.rawStore (pa + 16) 8 0
    let s := s.rawStore (pa + 24) 8 r.word
    let s := { s with heads := del pa s.heads, seq := s.seq + 1 }
    (true, nodes.foldl (fun s n => s.deliver pa n.1 v n.2 colour) s)

/-- A resolution by an engine, the gleaner, a quarry unit or an admission unit: a second one sends DOUBLE_RESOLVE to
the supervisor core of a chiplet, and a future with OWN not 0, which only PGDONE resolves, stays as it is (R236). -/
def unitResolve (s : State) (pa : Nat) (ok : Bool) (v : Word) (r : Resolver) (colour : BitVec 4) (ci : Nat)
    (o : FaultSrc) : State :=
  let s := s.armsOf pa
  let (fine, t) := s.resolveFut pa ok v r colour
  if futOwn (s.rawLoad pa 8) ≠ 0 then s
  else if fine then t else s.sendFault ci { code := .doubleResolve, info := W pa } o false false 0 0 0

/-! ### Messages -/

/-- Fields of a header word (R257). -/
def hdrTid (w : Word) : Nat := Bits w 0 13
def hdrCore (w : Word) : Nat := Bits w 13 3
def hdrClass (w : Word) : Nat := Bits w 16 2
def hdrRv (w : Word) : Bool := Bit w 18
def hdrRid (w : Word) : Nat := Bits w 19 8

/-- Is a region open, for a sender inside or outside it (R41)? A CLOSED region still takes its own tasks' messages. -/
def regionOpen (s : State) (asid : BitVec 10) (rid : Nat) : Bool := (find rid (s.space asid.toNat).regions).isSome

/-- A region counter of a tile grows by one (R38): SENT or RETIRED. -/
def countRegion (s : State) (tid : Nat) (asid : BitVec 10) (rid : Nat) (sent : Bool) : State :=
  s.modTile tid fun t =>
    let k := asid.toNat * 256 + rid
    let (a, b) := getD (0, 0) t.regs k
    { t with regs := put k (if sent then ((a + 1) % 2 ^ 32, b) else (a, (b + 1) % 2 ^ 32)) t.regs }

/-- A message is withdrawn at its origin: its packet is gone, and its region's SENT is one less (R38, R273). -/
def unsend (s : State) (m : Msg) : State :=
  let h := m.w[1]
  let s := (s.uninject m.sender m.colour).dlv m.sender m.colour
  if hdrRv h then
    s.modTile m.sender fun t =>
      let k := m.asid.toNat * 256 + hdrRid h
      let (a, b) := getD (0, 0) t.regs k
      { t with regs := put k ((a + 2 ^ 32 - 1) % 2 ^ 32, b) t.regs }
  else s

/-- A message leaves on its way to its target tile. -/
def launchMsg (s : State) (m : Msg) (o : Origin) : State :=
  let f : Flight := { msg := m, org := o, resend := none, tid := hdrTid m.w[1] }
  { (s.inject m.sender m.colour) with flights := s.flights ++ [f] }

/-- Is the target of a header a live tile (R259 check 4)? -/
def targetLive (s : State) (w : Word) : Bool := s.live (hdrTid w)

/-- Is the target the supervisor core of its chiplet (R259 check 5)? -/
def targetSuper (s : State) (w : Word) : Bool := s.isSuper (hdrTid w + hdrCore w * 2 ^ 13)

/-- A message of a sender that is not a context (R263): a home, an engine, the gleaner, an admission unit; `key` names
the origin, which counts at tile `m.sender`.  SRC and TID of its TASK_TARGET are the model's choice (log 81). -/
def unitSend (s : State) (m : Msg) (key : Nat) : State :=
  let h := m.w[1]
  let exempt := match m.kind with
    | .task => false
    | _ => true
  if !s.targetLive h || (s.targetSuper h && !exempt) then
    s.sendCarry (chipOf (hdrTid h)) { code := .taskTarget, info := h } { src := 5, tid := hdrTid h, asid := m.asid } m.w
  else if hdrRv h && !s.regionOpen m.asid (hdrRid h) then
    s.launchMsg { m with w := m.w.set 1 (h &&& ~~~(W (0x1FF * 2 ^ 18))) } (.unit key)
  else
    let s := if hdrRv h then s.countRegion m.sender m.asid (hdrRid h) true else s
    s.launchMsg m (.unit key)

end State
end Sys2Proof.Machine
end

