-- ==== Sys2Proof/Machine/Life.lean ====
section
/-! DEFINITION. Taking and returning contexts (R28, R70-R74), retirement (R25, R30, R33), bank power (R74, R183) and the
end of a gang (R271). -/

namespace Sys2Proof.Machine

/-- The default table of a profile (R28, R408). -/
def profileTable (s : State) (asid : BitVec 10) : Vector EntryBits 24 :=
  Vector.ofFn fun i => BitVec.ofNat 128 (s.profField asid (1024 + 128 * i.val) 128)

namespace State

/-! ### Helpers (R70-R72) -/

/-- Is a context number of a core promised to a quota restart (R447)? -/
def promised (s : State) (core h : Nat) : Bool :=
  (s.core core).qrest.any fun m => match m.kind with
    | .quota _ _ c => c == h
    | _ => false

/-- Helpers of a core that are free, and neither reserved nor promised, in ascending order (R70). -/
def freeHelpers (s : State) (core : Nat) : List Nat :=
  ((List.range 10).map (· + 1)).filter fun h =>
    (s.ctx (ctxOn core h)).st == .free && !(s.core core).rsv.contains h && !s.promised core h

/-- Lowest free helper of a core (R70). -/
def freeHelper (s : State) (core : Nat) : Option Nat := (s.freeHelpers core).head?

/-- A helper starts (R72, R426): x1 is the argument; SPAWN as the second of a pair passes on the table, NFM and RM as both read
them (log 67). -/
def startHelper (s : State) (h : Nat) (pc arg : Word) : State :=
  let p := { s.me with ft := s.src.ft, nfm := s.src.nfm, rm := s.src.rm }
  let x := (Vector.replicate 64 (0 : Word)).set 1 arg |>.set 2 (W (idCtx s.cur.id))
  let c : Ctx :=
    { st := .ready, pc := pc, x := x, ft := p.ft, nfm := p.nfm, rm := p.rm, colour := p.colour, cls := p.cls,
      srkey := p.srkey, srctr := BitVec.ofNat 128 (p.srctr.toNat % 2 ^ 120 + h * 2 ^ 120), asid := p.asid,
      parent := some (idCtx s.cur.id), region := p.region, gap := s.cyc + 1 }
  (s.setCtx (ctxOn s.myCore h) c).modMe fun c => { c with child := c.child ||| BitVec.ofNat 11 (2 ^ h) }

/-! ### Banks at retirement (R33, R74, R183) -/

/-- Is a context of the core live? -/
def coreLive (s : State) (core : Nat) : Bool :=
  (List.range 11).any fun c => (s.ctx (ctxOn core c)).st != .free

/-- Banks whose loss of power is due lose it when both conditions of R183 hold. -/
def sweepTile (s : State) (tid : Nat) : State :=
  (List.range 32).foldl (fun s b =>
    let k := (s.tile tid).bank b
    if k.lose && !s.coreLive (tid + b / 4 * 2 ^ 13) && !s.bankNamed tid b then
      s.modTile tid fun t => (t.zeroBank b).setBank b { k with lose := false, on := false }
    else s) s

/-- The same for every tile. -/
def sweepBanks (s : State) : State := (s.tiles.map (·.1)).foldl (fun s t => s.sweepTile t) s

/-- The SCRATCH banks of a core are marked (R33, R74). -/
def markBanks (s : State) (core : Nat) (f : Bank → Bank) : State :=
  s.modTile (idTid core) fun t =>
    (List.range 4).foldl (fun t i =>
      let b := 4 * idCore core + i
      if (t.bank b).mode = .scratch then t.setBank b (f (t.bank b)) else t) t

/-- Every bank mark of a core is changed, whatever the mode. -/
def unmarkBanks (s : State) (core : Nat) (f : Bank → Bank) : State :=
  s.modTile (idTid core) fun t =>
    (List.range 4).foldl (fun t i =>
      let b := 4 * idCore core + i
      match find b t.banks with
      | some k => t.setBank b (f k)
      | none => t) t

/-- A task retires on a core: its banks lose power under R183, or are retained (R33, R74). -/
def retireBanks (s : State) (core : Nat) (retain : Option Word) : State :=
  match retain with
  | some pc => (s.markBanks core fun k => { k with kept := true }).modCore core fun c => { c with keep := some pc }
  | none => (s.markBanks core fun k => { k with lose := true }).sweepTile (idTid core)

/-- A task starts on a core's control context: retention ends, and deferred losses end with it (R74, R183), those of a
cancelled retention among them (log 74). -/
def startBanks (s : State) (core : Nat) (pc : Word) : State :=
  let s := match (s.core core).keep with
    | some w =>
      if w = pc then s
      else (s.unmarkBanks core fun k => if k.kept then { k with lose := true, kept := false } else k).sweepTile (idTid core)
    | none => s
  (s.unmarkBanks core fun k => { k with lose := false, kept := false }).modCore core fun c => { c with keep := none }

/-- Retention of a core is cancelled (R74). -/
def cancelRetain (s : State) (core : Nat) : State :=
  match (s.core core).keep with
  | none => s
  | some _ =>
    let s := s.modCore core fun c => { c with keep := none }
    (s.unmarkBanks core fun k => if k.kept then { k with lose := true, kept := false } else k).sweepTile (idTid core)

/-! ### The end of a context (R25, R73) -/

/-- The saved context with an identity that meets p, if any: the address of its image (R441). -/
def savedAt (s : State) (id : Nat) (p : Ctx → Bool) : Option (Nat × Ctx) :=
  s.saved.findSome? fun e => match e.2.parts with
    | [.ctx i c] => if i = id && p c then some (e.1, c) else none
    | _ => none

/-- A saved context and the named words of its image change together. -/
def setSaved (s : State) (pa id : Nat) (c : Ctx) (ws : List Nat) : State :=
  let s := match find pa s.saved with
    | some u => { s with saved := put pa { u with parts := [.ctx id c] } s.saved }
    | none => s
  ws.foldl (fun s n => s.rawStore (pa + 8 * n) 8 (imageWord (s.isSuper (coreOf id)) id c n).toNat) s

/-- The bit of a helper clears in its parent's CHILD (R71). -/
def clearChild (s : State) (pid h : Nat) : State :=
  let drop (c : Ctx) : Ctx := { c with child := c.child &&& ~~~(BitVec.ofNat 11 (2 ^ h)) }
  if (s.ctx pid).child.getLsbD h then s.modCtx pid drop
  else match s.savedAt pid fun c => c.child.getLsbD h with
    | some (pa, c) => s.setSaved pa pid (drop c) [100]
    | none => s

/-- A member of a gang ends; the gang completes with its last member (R271).  SRC of a DOUBLE_RESOLVE is the model's choice
(log 81). -/
def memberEnds (s : State) (id g : Nat) : State :=
  match find g s.gangs with
  | none => s
  | some k =>
    let live := k.live.filter (· != id)
    let s := { s with gangs := put g { k with live := live } s.gangs }
    if !live.isEmpty then s
    else
      let s := { s with gangs := del g s.gangs }
      match k.fut with
      | none => s
      | some fut =>
        let o := Bits k.w[1] 0 13
        s.unitResolve fut true (W k.total) { tid := o, core := 0, ctx := 15, kind := 5, asid := k.asid } k.colour
          (chipOf o) { src := 1, tid := o, asid := k.asid }

/-- A helper that frees up on a draining core is reserved for the gang, unless a quota restart waits for it (R36, R269,
R447). -/
def keepHelper (s : State) (core h : Nat) : State :=
  match (s.core core).drain with
  | none => s
  | some g =>
    if h = 0 || s.promised core h then s
    else
    let hlp := match find g s.gangs with
      | some k => Bits k.w[1] 29 4
      | none => 0
    if (s.core core).rsv.length < hlp then s.modCore core fun c => { c with rsv := c.rsv ++ [h] } else s

/-- A context leaves the hardware with its image: a helper of a draining core goes to the gang (R36, R443, R447). -/
def vacate (s : State) (id : Nat) : State := (s.setCtx id {}).keepHelper (coreOf id) (idCtx id)

/-- A context becomes FREE, and what it was retires (R73 step 3, R25, R33, R38). -/
def freeCtx (s : State) (id : Nat) : State :=
  let c := s.ctx id
  let core := coreOf id
  let s := s.setCtx id {}
  if idCtx id = 0 then
    let s := match c.region with
      | some r => s.countRegion (idTid id) c.asid r.toNat false
      | none => s
    s.retireBanks core c.retain
  else
    let s := match c.gang, c.parent with
      | some (g, _), _ => s.memberEnds id g
      | none, some p => s.clearChild (ctxOn core p) (idCtx id)
      | none, none => s
    (s.keepHelper core (idCtx id)).sweepTile (idTid id)

/-- Has HALT's first step been done: no long-latency result outstanding, no live helper, no status owed, every access
performed (R73, R203, R212)? -/
def haltReady (c : Ctx) : Bool := !c.owes && c.child == 0 && c.status.isEmpty && c.accs.isEmpty

/-- The parent of a helper, if the helper's end ends its parent's HALT (R30, R73). -/
def endsNext (s : State) (core : Nat) (c : Ctx) : Option Nat :=
  match c.gang, c.parent with
  | none, some p =>
    let pid := ctxOn core p
    let k := s.ctx pid
    if k.st = .parked && (k.wait == .halt || k.wait == .ending) && haltReady k && !k.susp && !k.taken then some pid else none
  | _, _ => none

/-- A late fault stops a HALT, which has not completed: nothing is retained for it (R33, R73, R82). -/
def stopHalt (s : State) (id : Nat) (l : Late) : State := (s.modCtx id fun c => { c with retain := none }).raiseLate id l

/-- A context ends, and with it each ancestor whose HALT waited for it alone: they retire in the same cycle (R30). -/
def endChain (s : State) (id : Nat) : Nat → State
  | 0 => s.freeCtx id
  | n + 1 =>
    let c := s.ctx id
    let s := s.freeCtx id
    match s.endsNext (coreOf id) c with
    | none => s
    | some pid => match (s.ctx pid).late with
      | some l => s.stopHalt pid l
      | none => (s.release (coreOf pid) .co).endChain pid n

/-- A context becomes FREE (R30, R73 step 3). -/
def endCtx (s : State) (id : Nat) : State := s.endChain id 10

/-- HALT when its first step is done or a late fault stops it (R73, R82). -/
def haltEnd (s : State) (id : Nat) : State :=
  match (s.ctx id).late with
  | some l => s.stopHalt id l
  | none => (s.release (coreOf id) .co).endCtx id

/-! ### The start of a task (R28, R163, R265) -/

/-- The control context of a core as a message starts it (R28, R426). -/
def taskCtx (s : State) (core : Nat) (m : Msg) : Ctx :=
  let h := m.w[1]
  let x := (List.range 6).foldl (fun (x : Vector Word 64) i => setV x (i + 1) (m.w.toList.getD (i + 2) 0))
    ((Vector.replicate 64 (0 : Word)).set 7 h)
  { st := .ready, pc := m.w[0], x := x, ft := profileTable s m.asid, nfm := s.profNfm m.asid, colour := m.colour,
    cls := BitVec.ofNat 2 (hdrClass h), asid := m.asid,
    region := if hdrRv h then some (BitVec.ofNat 8 (hdrRid h)) else none, gap := (s.core core).cyc + 1 }

/-- A task message starts on the core's control context, or faults it before its first issue (R163, R264, R265). -/
def startTask (s : State) (core : Nat) (m : Msg) : State :=
  let id := ctxOn core 0
  let s := s.startBanks core m.w[0]
  let s := s.setCtx id (s.taskCtx core m)
  let s := s.acquire core .mo
  if m.nfm != s.profNfm m.asid then
    s.halted id { code := .formatMismatch, info := W (m.sender + b2n m.nfm * 2 ^ 13 + b2n (s.profNfm m.asid) * 2 ^ 14) }
      false 0
  else match s.legal core m.asid m.w[0] 0 with
    | .ok t => t
    | .error (.flt f) => s.raiseAt id f
    | .error (.wait _ t) => t
    | .error (.late _) => s

end State
end Sys2Proof.Machine
end

