-- ==== Sys2Proof/Machine/RingOps.lean ====
section
/-! DEFINITION. Rings: claim, publish, take and release (R186-R189), for contexts, jobs, streams and MSEND. -/

namespace Sys2Proof.Machine

/-- Slot i of a ring; a slot that is not listed is FREE (R187). -/
def Ring.slot (r : Ring) (i : Nat) : RSlot := getD {} r.slots i

/-- The ring is empty (R187). -/
def Ring.empty (r : Ring) : Bool := r.count == 0 || r.freeN == r.count

/-- The slot at the claim index is claimed (R187): its index and the ring. -/
def Ring.claimOne (r : Ring) : Nat × Ring :=
  (r.claimI, { r with slots := put r.claimI { st := .claimed } r.slots, freeN := r.freeN - 1,
                      claimI := (r.claimI + 1) % r.count })

/-- The slot at the take index is taken (R187): its index and the ring. -/
def Ring.takeOne (r : Ring) : Nat × Ring :=
  (r.takeI, { r with slots := put r.takeI { r.slot r.takeI with st := .taken, mark := false } r.slots,
                     filled := r.filled - 1, takeI := (r.takeI + 1) % r.count })

/-- Ready slots at the publish index become FILLED, in order (R187). -/
def Ring.fillReady (r : Ring) : Nat → Ring
  | 0 => r
  | n + 1 =>
    let k := r.slot r.pubI
    if k.st = .claimed && k.mark then
      { r with slots := put r.pubI { k with st := .filled, mark := false } r.slots, filled := r.filled + 1,
               pubI := (r.pubI + 1) % r.count }.fillReady n
    else r

/-- Done slots at the release index become FREE, in order (R187). -/
def Ring.freeDone (r : Ring) : Nat → Ring
  | 0 => r
  | n + 1 =>
    let k := r.slot r.relI
    if k.st = .taken && k.mark then
      { r with slots := del r.relI r.slots, freeN := r.freeN + 1, relI := (r.relI + 1) % r.count }.freeDone n
    else r

/-- Claimed slot i is published, with the record of R188. -/
def Ring.publishSlot (r : Ring) (i : Nat) (nfm : Bool) (tid : Nat) (data : Bool) : Ring :=
  { r with slots := put i { st := .claimed, mark := true, nfm := nfm, tid := tid, data := data } r.slots }.fillReady
    r.count

/-- Taken slot i is released. -/
def Ring.releaseSlot (r : Ring) (i : Nat) : Ring :=
  { r with slots := put i { r.slot i with mark := true } r.slots }.freeDone r.count

namespace State

def ring (s : State) (tid b : Nat) : Ring := ((s.tile tid).bank b).ring

def modRing (s : State) (tid b : Nat) (f : Ring → Ring) : State :=
  s.modTile tid fun t => t.setBank b { t.bank b with ring := f (t.bank b).ring }

/-- The slot at the take index was published under another NFM than the taker's profile has (R163, R188). -/
def takeFault (s : State) (tid b : Nat) (asid : BitVec 10) : Option Flt :=
  let r := s.ring tid b
  let k := r.slot r.takeI
  let pn := s.profNfm asid
  if k.nfm = pn then none
  else some { code := .formatMismatch,
              info := W (k.tid + b2n k.nfm * 2 ^ 13 + b2n pn * 2 ^ 14 + (if k.data then 1 else 2) * 2 ^ 15) }

/-- A claim at once, if a slot is FREE and no claim waits (R187). -/
def claimNow (s : State) (tid b : Nat) : Option (Nat × State) :=
  let r := s.ring tid b
  if r.freeN = 0 || !r.claims.isEmpty then none
  else
    let (i, r) := r.claimOne
    some (i, s.modRing tid b fun _ => r)

/-- A take at once, if a slot is FILLED and no take waits (R187, R188). -/
def takeNow (s : State) (tid b : Nat) (asid : BitVec 10) : Option (Except Flt (Nat × State)) :=
  let r := s.ring tid b
  if r.filled = 0 || !r.takes.isEmpty then none
  else match s.takeFault tid b asid with
    | some f => some (.error f)
    | none =>
      let (i, r) := r.takeOne
      some (.ok (i, s.modRing tid b fun _ => r))

/-- The answer that a waiting context gets, which makes it READY (R26). -/
def answer (s : State) (id : Nat) (a : Answer) : State :=
  s.modCtx id fun c => { c with st := if c.st = .parked then .ready else c.st, answer := a }

/-- Address of slot i of a ring (R195). -/
def slotAddr (s : State) (tid b i : Nat) (base : Word) : Word := base + W (i * slotBytes (s.ring tid b))

/-- Path 1 address of slot i of the ring of a bank (R184, R186). -/
def ownSlot (s : State) (tid b i : Nat) : Word := s.slotAddr tid b i (W (2 ^ 60 + b * 2 ^ 17))

/-- A ring input of a job is answered (R284): the slot's address replaces the field that the specifier names. -/
def jobServed (s : State) (tid b slot dep : Nat) (a : Except Flt Nat) : State :=
  s.modTile tid fun t =>
    let k := t.slot slot
    match k.job with
    | none => t
    | some j =>
      let o := j.deps.getD dep { spec := 0, ready := true, slot := none, fail := none }
      let j := match a with
        | .error f => { j with deps := setNth j.deps dep { o with fail := some f } }
        | .ok i =>
          { j with deps := setNth j.deps dep { o with ready := true, slot := some i },
                   desc := withWord j.desc (o.spec / 2 ^ 5 % 4) (s.ownSlot tid b i) }
      { t with jobs := put slot { k with job := some j } t.jobs }

/-- A stream's claim or take is answered (R342). -/
def streamServed (s : State) (q entry : Nat) (a : Except Flt Nat) : State :=
  s.modQuarry q fun k =>
    let u := getD {} k.subs entry
    let u := { u with asked := false }
    let u := match a with
      | .ok i => { u with slot := some i }
      | .error f => { u with fault := some f }
    { k with subs := put entry u k.subs }

/-- A request at a ring is answered with a slot, or a fault (R187, R188). -/
def ringAnswer (s : State) (tid b : Nat) (q : RingReq) (a : Except Flt Nat) : State :=
  let ans (v : Nat → Word) : Answer := match a with
    | .ok i => .val (v i)
    | .error f => .flt f
  match q with
  | .claim id base | .take id base => s.answer id (ans fun i => s.slotAddr tid b i base)
  | .msend id => s.answer id (ans fun i => W i)
  | .jclaim slot dep | .jtake slot dep => s.jobServed tid b slot dep a
  | .sclaim q e | .stake q e => s.streamServed q e a

/-- ASID of a requester. -/
def ringAsid (s : State) (tid : Nat) : RingReq → BitVec 10
  | .claim id _ | .take id _ | .msend id => (s.ctx id).asid
  | .jclaim slot _ | .jtake slot _ => ((((s.tile tid).slot slot).job).map (·.asid)).getD 0
  | .sclaim q e | .stake q e => (getD {} (s.quarry q).subs e).asid

/-- A request that has outlasted a change of its bank finds a ring of another ASID (R177; log 69). -/
def ringFault (s : State) (tid b : Nat) (q : RingReq) : Option Flt :=
  if ((s.tile tid).bank b).asid = s.ringAsid tid q then none else some { code := .bankAsid, info := s.openWord }

/-- The oldest waiting claim is served (R187). -/
def serveClaim (s : State) (tid b : Nat) : State :=
  let r := s.ring tid b
  match r.claims with
  | [] => s
  | q :: rest =>
    if r.freeN = 0 then s
    else match s.ringFault tid b q with
    | some f => (s.modRing tid b fun _ => { r with claims := rest }).ringAnswer tid b q (.error f)
    | none =>
      let (i, r) := r.claimOne
      (s.modRing tid b fun _ => { r with claims := rest }).ringAnswer tid b q (.ok i)

/-- The oldest waiting take is served; a mismatch faults it, and the slot stays FILLED (R187, R188). -/
def serveTake (s : State) (tid b : Nat) : State :=
  let r := s.ring tid b
  match r.takes with
  | [] => s
  | q :: rest =>
    if r.filled = 0 then s
    else match (s.ringFault tid b q).or (s.takeFault tid b (s.ringAsid tid q)) with
      | some f => (s.modRing tid b fun _ => { r with takes := rest }).ringAnswer tid b q (.error f)
      | none =>
        let (i, r) := r.takeOne
        (s.modRing tid b fun _ => { r with takes := rest }).ringAnswer tid b q (.ok i)

/-- A claim or take of an engine (R284, R342): served at once, or queued in order of arrival. -/
def engineRing (s : State) (tid b : Nat) (q : RingReq) (take : Bool) : State :=
  if take then
    match s.takeNow tid b (s.ringAsid tid q) with
    | some (.ok (i, t)) => t.ringAnswer tid b q (.ok i)
    | some (.error f) => s.ringAnswer tid b q (.error f)
    | none => s.modRing tid b fun r => { r with takes := r.takes ++ [q] }
  else
    match s.claimNow tid b with
    | some (i, t) => t.ringAnswer tid b q (.ok i)
    | none => s.modRing tid b fun r => { r with claims := r.claims ++ [q] }

/-- A context's requests leave every ring queue (R189). -/
def leaveRings (s : State) (id : Nat) : State :=
  let other : RingReq → Bool := fun q => match q with
    | .claim i _ | .msend i | .take i _ => i != id
    | _ => true
  let drop (r : Ring) : Ring := { r with claims := r.claims.filter other, takes := r.takes.filter other }
  { s with tiles := s.tiles.map fun t =>
    (t.1, { t.2 with banks := t.2.banks.map fun k => (k.1, { k.2 with ring := drop k.2.ring }) }) }

end State

/-- RING_CLAIM_SERVED (R187): at bank v of tile u. -/
def execRingClaimServed (s : State) : Out := .next (s.serveClaim s.cur.u s.cur.v)

/-- RING_TAKE_SERVED (R187): at bank v of tile u. -/
def execRingTakeServed (s : State) : Out := .next (s.serveTake s.cur.u s.cur.v)

end Sys2Proof.Machine
end

