-- ==== Sys2Proof/Machine/Tokens.lean ====
section
/-! DEFINITION. Tokens, loans and quota (R387-R397, R447): the broker's arithmetic, and capture at an instruction boundary
(R440). -/

namespace Sys2Proof.Machine

namespace State

/-! ### Capture (R440) -/

/-- May the context be captured now?  An instruction held at issue, and an answer on its way, come first (R27, R440); one
that follows accesses under a guard is captured as those accesses are (log 68). -/
def canCapture (s : State) (c : Ctx) : Bool :=
  (match c.wait, c.answer with
    | .barrier _, _ => true
    | .held, .none | .broker, .none | .topk _, .none | .capture _, .none | .status, .none => false
    | .accs _, .none => c.accs.any fun e => e.mem.isNone && s.underGuard e.tid e.off e.n
    | .send none, _ => false
    | _, .none => true
    | _, _ => false)

/-- A waiting instruction is withdrawn where it waits: ring, monitor, message being resent (R189, R231, R440). -/
def withdraw (s : State) (id : Nat) : State :=
  let keep (r : RingReq) : Bool := match r with
    | .claim i _ | .msend i | .take i _ => i != id
    | _ => true
  let s := match (s.ctx id).wait with
    | .ring tid b => s.modTile tid fun t =>
        let k := t.bank b
        t.setBank b { k with ring := { k.ring with claims := k.ring.claims.filter keep, takes := k.ring.takes.filter keep } }
    | _ => s
  let mine (f : Flight) : Bool := f.org == .tsend id && f.resend.isSome
  -- a message that is withdrawn was not sent: it is counted when it is sent again (R273, R275)
  let s := (s.flights.filter mine).foldl (fun s f => s.unsend f.msg) s
  { s with mons := s.mons.filter fun m => m.id != id, flights := s.flights.filter fun f => !mine f }

/-- A context that waits for a replay is past its BINRUN, whose result is pending in its image (R81, R328). -/
def leaveReplay (s : State) (id : Nat) : State :=
  let c := s.ctx id
  match c.wait, (s.tile (idTid id)).eng.runs.find? fun r => r.id == id && !r.left with
  | .answer, some r =>
    let fst := (c.held.map (·.fst)).getD false
    let e : Pend := { wr := .x r.dst 0, due := none, pc := c.pc, flt := none, grp := r.grp }
    let d := if fst then { c with pc := c.pc + 1, alone := true } else c.after c.pc
    let s := s.modEng (idTid id) fun x =>
      { x with runs := x.runs.map fun (r : BinRun) => if r.id = id then { r with left := true } else r }
    s.setCtx id { d with st := .ready, wait := .none, answer := .none, held := none,
                         pend := if r.dst.val = 0 then c.pend else c.pend ++ [e] }
  | _, _ => s

/-- The context as its image shows it: results of fixed latency are in, those of long latency are pending (R81, R440). -/
def captured (c : Ctx) : Ctx :=
  let c := { c.land with capt := false, taken := false, held := none }
  match c.wait with
  | .switch => if c.owes then c else { c with st := if c.st = .parked then .ready else c.st, wait := .none }
  | _ => c

/-- A context whose wait ends with a capture: it executes its instruction again, but for a barrier it arrived at and an
end that TRET gave (R440, R446). -/
def again (c : Ctx) : Ctx :=
  match c.wait with
  | .barrier _ | .ending => { c with capt := false, taken := false }
  | _ => if c.st = .faulted then { c with capt := false, taken := false, wait := .none, answer := .none } else c.unissued

/-- A captured context as it goes on after a restore (R440, R446): it waits for results that are still pending (R81). -/
def restored (c : Ctx) : Ctx := { again c with gap := 0, hold := 0, susp := false, inc := c.owes || !c.accs.isEmpty }

/-! ### Quota (R394, R447) -/

/-- QREMAIN reaches 0 and the ASID is suspended (R394). -/
def exhaust (s : State) (a : Nat) : State :=
  s.modSpace a fun p => if p.qrefill ≠ 0 && p.qremain = 0 && !p.susp then { p with susp := true, qzero := s.fab } else p

/-- A beat of weight w is charged to an ASID (R394, R395). -/
def charge (s : State) (a : BitVec 10) (w : Nat) : State :=
  (s.modSpace a.toNat fun p =>
    if p.qrefill = 0 then p
    else if p.susp then { p with qover := (p.qover + w) % 2 ^ 48 }
    else { p with qremain := p.qremain - w }).exhaust a.toNat

/-- May a beat of the ASID issue: it is not suspended, or the zero has not reached the gate (R395)? -/
def mayBeat (s : State) (a : BitVec 10) : Bool :=
  let p := s.space a.toNat
  !p.susp || decide (s.fab ≤ p.qzero + 2 * Config.usCycles)

/-- The quota restarts of an ASID on a tile: slot and identity, in order of suspension. -/
def quotaSlots (s : State) (tid : Nat) (a : BitVec 10) : List (Nat × Nat) :=
  (s.tile tid).pgused.filterMap fun u =>
    match find (s.pagerSlot tid u.1 + 0x800) s.saved with
    | some { asid := b, parts := [.ctx id _], .. } =>
      if b == a && u.2.isNone then some (u.1, id) else none
    | _ => none

/-- Suspension of an ASID ends: images become restarts, contexts held in place issue again (R447). -/
def unsuspend (s : State) (a : Nat) : State :=
  let asid := BitVec.ofNat 10 a
  let s := s.modSpace a fun p => { p with susp := false }
  let s := { s with ctxs := s.ctxs.map fun (e : Nat × Ctx) => if e.2.asid = asid then (e.1, { e.2 with susp := false }) else e }
  (s.tiles.map fun (e : Nat × Tile) => e.1).foldl (fun s tid =>
    (s.quotaSlots tid asid).foldl (fun s (slot, id) =>
      s.modCore (coreOf id) fun c =>
        let k : MsgKind := .quota tid slot (idCtx id)
        if c.qrest.any (fun m => m.kind = k) then c else
          let m : Msg := { asid := asid, kind := k }
          { c with qrest := c.qrest ++ [m] }) s) s

/-- A context of a suspended ASID is captured (R447). -/
def captureQuota (s : State) (id : Nat) : State :=
  let tid := idTid id
  match s.freePager tid with
  | none => (s.withdraw id).modCtx id fun c =>
    { (if (c.wait == .switch && c.owes) || c.wait == .answer then c else again c) with
      capt := c.capt, taken := c.taken, susp := true }
  | some slot =>
    let s := ((s.withdraw id).leaveReplay id).drainAccs id
    let c := captured (s.ctx id)
    let base := s.pagerSlot tid slot
    let s := s.saveCtx (base + 0x800) id c
    let s := s.rawStore (base + 0x40) 64 ((base + 0x800) + 2 ^ 64 * (tid + idCore id * 2 ^ 13))
    let s := s.modTile tid fun t => { t with pgused := t.pgused ++ [(slot, none)] }
    s.vacate id

/-- A context is restored from an image (R446, R447): a late fault is raised at once (R82); it acquires at sy (R213). -/
def restoreAt (s : State) (pa id : Nat) (base : Ctx) : State :=
  let c := restored (s.readImage pa base)
  let s := (s.setCtx id c).acquire (coreOf id) .sy
  match c.late with
  | some l => s.raiseLate id l
  | none => s

/-- A saved image at a physical address is used up. -/
def dropSaved (s : State) (pa : Nat) : State := { s with saved := del pa s.saved }

/-- A quota restart takes its context back (R447). -/
def restartQuota (s : State) (core tid slot ctx : Nat) : State :=
  let pa := s.pagerSlot tid slot + 0x800
  let id := ctxOn core ctx
  let base := match find pa s.saved with
    | some { parts := [.ctx _ c], .. } => c
    | _ => {}
  let s := (s.modCore core fun c => { c with rsv := c.rsv.filter (· != ctx) }).restoreAt pa id base
  (s.dropSaved pa).modTile tid fun t => { t with pgused := t.pgused.filter fun u => u.1 != slot }

/-! ### Tokens (R387, R388, R390-R392) -/

/-- Does a tile have a gate (R387)? -/
def gated (s : State) (tid : Nat) : Bool := s.live tid && tileKind tid != .v

/-- The tiles of a zone, ascending. -/
def zoneTiles (z : Nat) : List Nat :=
  (List.range 64).map fun i => tidOf (z % 14 * 8 + i % 8) (z / 14 * 8 + i / 8)

/-- The floor reserve of a zone (R387). -/
def zoneFloor (s : State) (z : Nat) : Nat := 8 * ((zoneTiles z).filter s.gated).length

/-- Does the chain's gate MMA run on a tile: for the shard beside it in the chiplet row (R354, R359)? -/
def gates (s : State) (tid : Nat) : Bool :=
  match tid % 4 with
  | 1 => (s.tile (tid - 1)).eng.shard.any fun h => h.gate.isSome
  | 2 => (s.tile (tid + 1)).eng.shard.any fun h => h.gate.isSome
  | _ => false

/-- FL of a tile (R388): it stays for the rest of the cycle in which the last job completed. -/
def floorOf (s : State) (tid : Nat) : Nat :=
  let t := s.tile tid
  if t.jobs.any (fun j => j.2.job.isSome) || !t.eng.runs.isEmpty || s.gates tid || t.eng.flT == some s.fab then 8 else 0

/-- A job or a replay of a tile completes: FL detaches after this cycle if it was the last (R388). -/
def floorEnds (s : State) (tid : Nat) : State := s.modEng tid fun e => { e with flT := some s.fab }

/-- Live loans of a zone. -/
def liveLoans (s : State) (z : Nat) : List (Nat × Loan) := (s.zone z).loans.filter fun l => l.2.live

/-- LI of a tile, and what it has lent out (R388). -/
def loansIn (s : State) (tid : Nat) : Nat :=
  (s.liveLoans (zoneOf tid)).foldl (fun n l => if l.2.borrower = tid then n + l.2.n else n) 0
def loansOut (s : State) (tid : Nat) : Nat :=
  (s.liveLoans (zoneOf tid)).foldl (fun n l => if l.2.lender = tid then n + l.2.n else n) 0

/-- H of a tile (R388). -/
def held (s : State) (tid : Nat) : Nat := Nat.min 255 (s.floorOf tid + (s.tile tid).eng.g + s.loansIn tid)

/-- Tokens granted and lent in a zone. -/
def zoneOut (s : State) (z : Nat) : Nat :=
  (zoneTiles z).foldl (fun n t => n + (s.tile t).eng.g) 0 + (s.liveLoans z).foldl (fun n l => n + l.2.n) 0

/-- The pool of a zone (R397). -/
def pool (s : State) (z : Nat) : Nat := Nat.max (s.zone z).bud (s.zoneFloor z) - s.zoneFloor z - s.zoneOut z

/-- H as the gate has it: changes by answers reach it at the next boundary (R404). -/
def gateH (s : State) (tid : Nat) : Nat :=
  let e := (s.tile tid).eng
  Nat.min 255 (s.floorOf tid + e.g + s.loansIn tid + e.gone - e.come)

/-- The bucket of a gate is cut to the cap of its H (R389). -/
def cutBucket (s : State) (tid : Nat) : State :=
  s.modEng tid fun e => { e with h := s.gateH tid, bucket := Nat.min e.bucket (8 * s.gateH tid + 64) }

/-- FL attaches: a tile whose H was 0 starts with an empty bucket, and any other one has its cap (R388, R389). -/
def attachFloor (s t : State) (tid : Nat) : State :=
  t.modEng tid fun e => { e with bucket := if s.gateH tid = 0 then 0 else Nat.min e.bucket (8 * s.gateH tid + 64) }

/-- The engine's clock has reached some cycle before its next boundary (R389, R405; log 72). -/
def tick (s : State) (tid : Nat) : State :=
  let e := (s.tile tid).eng
  let b := 64 * (e.period + 1)
  if e.aclk < b then
    let (n, s) := s.choose (b - e.aclk)
    s.modEng tid fun e => { e with aclk := e.aclk + n }
  else s

/-- Tokens join a tile's G (R390-R392). -/
def addG (s : State) (tid n : Nat) : State :=
  s.modEng tid fun e => { e with g := e.g + n, gT := if e.g = 0 then s.fab else e.gT }

/-- A live loan ends: its tokens return to the lender's G (R391). -/
def endLoan (s : State) (z entry : Nat) : State :=
  let l := getD {} (s.zone z).loans entry
  if !l.live then s
  else ((s.cutBucket l.lender).modZone z fun k => { k with loans := put entry { l with live := false } k.loans }).addG l.lender l.n

/-- A live loan ends at its term or by a revocation: the gate of the borrower knows at once (R389, R391). -/
def cutLoan (s : State) (z entry : Nat) : State := (s.endLoan z entry).cutBucket (getD {} (s.zone z).loans entry).borrower

/-- Tokens of a tile under notice (R392). -/
def underNotice (s : State) (tid : Nat) : Nat := (s.tile tid).eng.notes.foldl (fun n x => n + x.1) 0

/-- Notice of r more tokens is given to a tile (R392). -/
def giveNotice (s : State) (tid r : Nat) : State :=
  if r = 0 then s else (s.tick tid).modEng tid fun e => { e with notes := e.notes ++ [(r, e.aclk + 4096)] }

/-- Tokens that a tile returns count against its notices, oldest first (R392). -/
def payNotes : List (Nat × Nat) → Nat → List (Nat × Nat)
  | [], _ => []
  | x :: l, m => if m < x.1 then (x.1 - m, x.2) :: l else payNotes l (m - x.1)

/-- Tiles of a zone in descending G, ties by ascending TID (R392). -/
def byGrant (s : State) (z : Nat) : List Nat :=
  (zoneTiles z).mergeSort fun a b => decide ((s.tile b).eng.g ≤ (s.tile a).eng.g)

/-- Notices that meet a lowered budget: first from what tiles hold, then from what they have lent (R392, R397). -/
def revokeOver (s : State) (z : Nat) : State :=
  let due := (zoneTiles z).foldl (fun n t => n + s.underNotice t) 0
  let ovr := s.zoneOut z + s.zoneFloor z - Nat.max (s.zone z).bud (s.zoneFloor z) - due
  let pass (f : State → Nat → Nat) (a : State × Nat) (t : Nat) : State × Nat :=
    let r := Nat.min a.2 (f a.1 t)
    (a.1.giveNotice t r, a.2 - r)
  let a := (s.byGrant z).foldl (pass fun s t => (s.tile t).eng.g - s.underNotice t) (s, ovr)
  ((s.byGrant z).foldl (pass fun s t => (s.tile t).eng.g + s.loansOut t - s.underNotice t) a).1

/-- BUD of a zone is written (R397, R398). -/
def setBudget (s : State) (z : Nat) (v : Word) : State :=
  let n := Bits v 0 13
  (s.modZone z fun k => { k with bud := if n = 0 then 1 else if 4096 < n then 4096 else n }).revokeOver z

/-- Oldest loans of a lender end until its G covers r (R392). -/
def cover (s : State) (tid r : Nat) : Nat → State
  | 0 => s
  | fuel + 1 =>
    if r ≤ (s.tile tid).eng.g then s
    else
      let l := ((s.liveLoans (zoneOf tid)).filter fun l => l.2.lender = tid).mergeSort fun a b => decide (a.2.ord ≤ b.2.ord)
      match l with
      | [] => s
      | x :: _ => (s.cutLoan (zoneOf tid) x.1).cover tid r fuel

/-- The end of the oldest notice of a tile (R392). -/
def revoke (s : State) (tid : Nat) : State :=
  match (s.tile tid).eng.notes with
  | [] => s
  | x :: l => ((s.cover tid x.1 64).modEng tid fun e => { e with g := e.g - x.1, notes := l }).cutBucket tid

/-- Notices of a tile that end by now (R392). -/
def revokeDue (s : State) (tid : Nat) : State :=
  let e := (s.tile tid).eng
  (e.notes.filter fun x => decide (x.2 ≤ e.aclk)).foldl (fun s _ => s.revoke tid) s

/-! ### Order at the broker (R390, R393) -/

/-- May a request of a tile be served in this fabric cycle: none of a later place has been (R393)? -/
def brokerFree (s : State) (tid : Nat) : Bool :=
  match (s.zone (zoneOf tid)).served with
  | some (f, r) => f != s.fab || decide (r ≤ tid)
  | none => true

/-- A service takes its place in the fabric cycle. -/
def serves (s : State) (z place : Nat) : State := s.modZone z fun k => { k with served := some (s.fab, place) }

/-- A tile's request reaches its broker: notices that end in this cycle lower first (R393). -/
def atBroker (s : State) (tid : Nat) : State := ((zoneTiles (zoneOf tid)).foldl revokeDue s).serves (zoneOf tid) tid

end State
end Sys2Proof.Machine
end

