-- ==== Sys2Proof/Machine/Sysreg.lean ====
section
/-! DEFINITION. System registers by selector (R20, R74, R176, R266, R344, R396, R398, R401, R402, R425, R426, R429, R436,
R453, R454, R456, R462, R466). -/

namespace Sys2Proof.Machine

/-- Bits [lo+n-1:lo] of a new word come from v. -/
def withBits (old : Word) (lo n : Nat) (v : Nat) : Word :=
  W (old.toNat - Bits old lo n * 2 ^ lo + v % 2 ^ n * 2 ^ lo)

/-- Only the bits of a mask are kept. -/
def keepBits (v : Word) (mask : Nat) : Word := W (v.toNat &&& mask)

/-- n one bits from bit lo on. -/
def ones (lo n : Nat) : Nat := (2 ^ n - 1) * 2 ^ lo

namespace State

/-- PRESCOL of a column (R20). -/
def presCol (s : State) (x : Nat) : Word := W (bitsOf ((List.range 64).map fun y => s.live (tidOf x y)))

/-- Dark tiles of the grid. -/
def darkTiles (s : State) : List Nat := s.dark.filter inGrid

/-- LIVECNT (R20). -/
def liveCnt (s : State) : Word :=
  let d := s.darkTiles.eraseDups
  let off := ((d.map chipOf).eraseDups.filter fun ci => (d.filter fun t => chipOf t == ci).length == 16).length
  W (7168 - d.length + (448 - off) * 2 ^ 13)

/-- BANKMAP and POOLMAP of a tile (R176). -/
def bankMap (s : State) (tid : Nat) : Word :=
  W ((List.range 32).foldl (fun n b =>
    n + (match ((s.tile tid).bank b).mode with | .cache => 0 | .scratch => 1 | .ring => 2) * 2 ^ (2 * b)) 0)
def poolMap (s : State) (tid : Nat) : Word := W (bitsOf ((List.range 32).map fun b => ((s.tile tid).bank b).pool))

/-- RETAIN of a tile (R74): the cores that hold retained banks. -/
def retainMap (s : State) (tid : Nat) : Word :=
  W (bitsOf ((List.range 8).map fun c =>
    (s.core (tid + c * 2 ^ 13)).keep.isSome && (List.range 4).any fun i => ((s.tile tid).bank (4 * c + i)).kept))

/-- RQSTAT of a core (R266). -/
def rqStat (s : State) (tid c : Nat) : Word :=
  let k := s.core (tid + c * 2 ^ 13)
  let ovr := ((s.tile tid).ovr.filter fun m => hdrCore m.w[1] == c).length
  let o := match k.drain with
    | some g => (match find g s.gangs with
      | some r => 2 ^ 16 + Bits r.w[1] 0 13 * 2 ^ 17
      | none => 2 ^ 16)
    | none => 0
  W (k.queue.length + ovr * 2 ^ 7 + o)

/-- CLRINF of a colour (R344): a fault message that its origin holds counts at the origin's router. -/
def clrInf (s : State) (tid c : Nat) : Word :=
  W (((getD (0, 0, 0) (s.tile tid).cols c).1 +
    (s.faultsHeld fun m => m.sender == tid && m.colour.toNat == c)) % 2 ^ 32)

/-- Effective target of a chiplet's V/F state (R400). -/
def vfTarget (p : ChipPow) : Nat := if p.throt then Nat.max p.req p.ts else p.req

/-- VFSTAT (R401, R466 A0-003). -/
def vfStat (s : State) (ci : Nat) : Word :=
  let p := (s.chip ci).pow
  W (p.vf + vfTarget p * 2 ^ 3 + b2n p.ramp.isSome * 2 ^ 6 + b2n p.throt * 2 ^ 7 + Nat.min p.temp 127 * 2 ^ 8)

/-- FQSTAT (R429); bit 7 may linger after a resent message is accepted (R466 A0-002). -/
def fqStat (s : State) (ci : Nat) : Word :=
  let c := s.chip ci
  let late := match c.fqT with
    | some t => decide (s.fab ≤ t + 256) && Config.freeNat s.seq % 2 == 1
    | none => false
  W (c.fq.length + b2n (!c.fwait.isEmpty || late) * 2 ^ 7 + c.fseq % 2 ^ 32 * 2 ^ 32)

/-- LWSTAT of a window (R454). -/
def lwStat (s : State) (ci w : Nat) : Word :=
  let l := getD {} (s.chip ci).win w
  W (64 - l.buf.length + l.last % 8 * 2 ^ 8 + l.drop % 2 ^ 16 * 2 ^ 16 + l.acc % 2 ^ 32 * 2 ^ 32)

/-- HBM register of a quarry (R402). -/
def hbmReg (s : State) (q : Nat) : Word :=
  let k := s.quarry q
  W (k.hbm + k.pend.getD 0 * 2 ^ 2 + b2n k.pend.isSome * 2 ^ 4 +
    (match k.chg with
    | some (_, ch, _) => ch * 2 ^ 5 + 2 ^ 10
    | none => 0))

/-- Zone register (R398). -/
def zoneReg (s : State) (z : Nat) : Word := W ((s.zone z).bud + s.pool z * 2 ^ 13 + s.zoneFloor z * 2 ^ 26)

/-- BOOTSTAT (R462). -/
def bootStat (s : State) : Word :=
  W (s.norb.bootseq % 2 ^ 32 * 2 ^ 8 + Nat.min s.norb.nfail 1023 * 2 ^ 40 + b2n s.norb.dumpv * 2 ^ 50)

/-- COLFLT (R344): bit c from the sums of the last two waves, and the number of the last wave. -/
def colFlt (s : State) : Word :=
  W (bitsOf ((List.range 16).map fun c => (getD { flat := true } s.colT c).flat) + s.waves % 2 ^ 32 * 2 ^ 16)

/-- Registers that both views show at one selector (R20, R74, R176, R266, R462). -/
def sharedReg (s : State) (tid sel : Nat) : Option Word :=
  if 0x200 ≤ sel && sel < 0x270 then some (s.presCol (sel - 0x200))
  else if sel = 0x270 then some s.liveCnt
  else if sel = 0x272 then some s.bootStat
  else if sel = 0x280 then some (s.bankMap tid)
  else if sel = 0x281 then some (s.poolMap tid)
  else if sel = 0x282 then some (s.retainMap tid)
  else if 0x290 ≤ sel && sel < 0x298 then some (s.rqStat tid (sel - 0x290))
  else none

/-- A system register as a context reads it (R425); none for a selector that names no register. -/
def sysRead (s : State) (id sel : Nat) : Option Word :=
  let tid := idTid id
  let ci := chipOf tid
  let c := s.ctx id
  if sel = 0x10 then some (c.cstat (s.isSuper (coreOf id)))
  else if sel = 0x40 then some c.srkey
  else if sel = 0x41 then some (wordOf c.srctr 0)
  else if sel = 0x42 then some (wordOf c.srctr 1)
  else if sel = 0x2B0 then some (s.vfStat ci)
  else if sel < 0x8000 then s.sharedReg tid sel
  else if 0x82B0 ≤ sel && sel < 0x82C0 then some (s.clrInf tid (sel - 0x82B0))
  else if sel = 0x82C0 then some s.colFlt
  else if sel = 0x82D0 then some (W ((s.chip ci).pow.req + b2n (s.chip ci).pow.pend * 8))
  else if sel = 0x82D1 then
    let p := (s.chip ci).pow
    some (W (p.thot + p.hth * 2 ^ 8 + p.ts * 2 ^ 12))
  else if sel = 0x8300 then some (W s.qasid)
  else if sel = 0x8301 then some (W (s.space s.qasid).qrefill)
  else if sel = 0x8302 then some (W (s.space s.qasid).qperiod)
  else if sel = 0x8303 then some (W ((s.space s.qasid).qremain + b2n (s.space s.qasid).susp * 2 ^ 48))
  else if sel = 0x8304 then some (W (s.space s.qasid).qover)
  else if 0x8340 ≤ sel && sel < 0x8380 then some (s.hbmReg (sel - 0x8340))
  else if 0x8380 ≤ sel && sel < 0x8380 + 112 then some (s.zoneReg (sel - 0x8380))
  else if 0x8400 ≤ sel && sel < 0x8410 then some (s.tile (chipTile ci (sel - 0x8400))).pgarea
  else if sel = 0x8410 then some (s.chip ci).fvec
  else if sel = 0x8411 then some (s.chip ci).flog
  else if sel = 0x8412 then some (s.fqStat ci)
  else if 0x8420 ≤ sel && sel < 0x8428 then some (getD {} (s.chip ci).win (sel - 0x8420)).cfg
  else if 0x8428 ≤ sel && sel < 0x8430 then some (s.lwStat ci (sel - 0x8428))
  else if sel = 0x8430 then some s.hdmcfg
  else if 0x8440 ≤ sel && sel < 0x8458 then some (getD {} s.peers (sel - 0x8440)).reg
  else s.sharedReg tid (sel - 0x8000)

/-- A request for a V/F state (R399). -/
def reqVf (s : State) (ci : Nat) (v : Word) : State :=
  s.modChip ci fun c => { c with pow := { c.pow with req := Bits v 0 3, pend := true } }

/-- A request for an HBM state (R402): 3 is ignored. -/
def reqHbm (s : State) (q : Nat) (v : Word) : State :=
  if Bits v 0 2 = 3 then s
  else s.modQuarry q fun k =>
    match k.chg with
    | some _ => { k with pend := some (Bits v 0 2) }
    | none => if k.hbm = Bits v 0 2 then k else { k with chg := some (Bits v 0 2, 0, s.fab + 3000) }

/-- Limits of THCFG (R401). -/
def thLimit (v : Word) (p : ChipPow) : ChipPow :=
  let t := Bits v 0 8
  let h := Bits v 8 4
  { p with thot := if t < 60 then 60 else if 110 < t then 110 else t, hth := if h < 2 then 2 else h, ts := Bits v 12 3 }

/-- RETAIN is written (R74). -/
def writeRetain (s : State) (tid : Nat) (v : Word) : State :=
  (List.range 8).foldl (fun s c => if Bit v c then s.cancelRetain (tid + c * 2 ^ 13) else s) s

/-- A quota register of the selected ASID is written (R396). -/
def writeQuota (s : State) (sel : Nat) (v : Word) : State :=
  let a := s.qasid
  if sel = 0x8301 then
    let n := Bits v 0 48
    let s := s.modSpace a fun p => { p with qrefill := n, qremain := if n = 0 then 0 else p.qremain }
    if n = 0 then s.unsuspend a
    else s.modSpace a fun p => if p.qnext ≤ s.fab then
      { p with qnext := (s.fab / (p.qperiod * Config.usCycles) + 1) * (p.qperiod * Config.usCycles) } else p
  else if sel = 0x8302 then
    let n := Bits v 0 20
    if n = 0 || 1000000 < n then s else s.modSpace a fun p => { p with qperiod := n }
  else if sel = 0x8303 then
    (s.modSpace a fun p => { p with qremain := if p.qrefill = 0 then 0 else Bits v 0 48 }).exhaust a
  else s.modSpace a fun p => { p with qover := Bits v 0 48 }

/-- FLOG is written (R429); the log goes on at its position, within the new number of slots. -/
def writeFlog (s : State) (ci : Nat) (v : Word) : State :=
  s.modChip ci fun c => { c with flog := keepBits v (ones 0 57), flogN := c.flogN % (Bits v 0 12 + 1) }

/-- A write of a system register by a context (R5, R425); none for a selector that names no register. -/
def sysWrite (s : State) (id sel : Nat) (v : Word) : Option State :=
  let tid := idTid id
  let ci := chipOf tid
  if (s.sysRead id sel).isNone then none
  else some (
    if sel = 0x10 then s.modCtx id fun c => { c with rm := BitVec.ofNat 3 v.toNat }
    else if sel = 0x40 then s.modCtx id fun c => { c with srkey := v }
    else if sel = 0x41 then s.modCtx id fun c => { c with srctr := withWord c.srctr 0 v }
    else if sel = 0x42 then s.modCtx id fun c => { c with srctr := withWord c.srctr 1 v }
    else if sel = 0x8282 then s.writeRetain tid v
    else if sel = 0x82D0 then s.reqVf ci v
    else if sel = 0x82D1 then s.modChip ci fun c => { c with pow := thLimit v c.pow }
    else if sel = 0x8300 then { s with qasid := Bits v 0 10 }
    else if 0x8301 ≤ sel && sel ≤ 0x8304 then s.writeQuota sel v
    else if 0x8340 ≤ sel && sel < 0x8380 then s.reqHbm (sel - 0x8340) v
    else if 0x8380 ≤ sel && sel < 0x8380 + 112 then s.setBudget (sel - 0x8380) v
    else if 0x8400 ≤ sel && sel < 0x8410 then
      s.modTile (chipTile ci (sel - 0x8400)) fun t => { t with pgarea := keepBits v (ones 0 8 + ones 13 44) }
    else if sel = 0x8410 then s.modChip ci fun c => { c with fvec := v }
    else if sel = 0x8411 then s.writeFlog ci v
    else if 0x8420 ≤ sel && sel < 0x8428 then
      s.modChip ci fun c =>
        let l := getD {} c.win (sel - 0x8420)
        { c with win := put (sel - 0x8420) { l with cfg := keepBits v (ones 0 13) } c.win }
    else if sel = 0x8430 then
      { s with hdmcfg := W (Bits v 0 1 + Nat.min (Bits v 1 12) 3072 * 2) }
    else if 0x8440 ≤ sel && sel < 0x8458 then
      let r := getD {} s.peers (sel - 0x8440)
      let w := W ((v.toNat &&& (ones 0 1 + ones 2 12 + ones 30 27)) + b2n (Bit r.reg 1) * 2)
      { s with peers := put (sel - 0x8440) { r with reg := w } s.peers }
    else s)

end State
end Sys2Proof.Machine
end

