-- ==== Sys2Proof/Machine/Memory.lean ====
section
/-! DEFINITION. Meanings of the memory family (R181, R184-R197, R214, R215). -/

namespace Sys2Proof.Machine

namespace State

/-- The effective address of an instruction of format MEM (R56). -/
def ea (s : State) (m : MemOp) : Word := effAddr (s.rx m.base 0) (s.rx m.idx 1) m

/-- What the order of an access does before the access (R199, R205, R206): a release, an acquire, or both. -/
def orderFirst (s : State) (ord : MemOrd) (sc : Scope) : State :=
  match ord with
  | .plain => s
  | .acq => s.acquire s.myCore sc
  | .rel => s.release s.myCore sc
  | .ar => (s.release s.myCore sc).acquire s.myCore sc

/-- A release lets its own store become visible too (R206). -/
def orderLast (s : State) (ord : MemOrd) (sc : Scope) : State :=
  match ord with
  | .rel | .ar => s.release s.myCore sc
  | _ => s

/-- A release, or an access with ORD ar, is held for the statuses of earlier atomics (R212), and until the earlier accesses
have performed (R203 case 3). -/
def ordGate (s : State) (ord : MemOrd) : M Unit := if releases ord then s.relGate else .ok ()

/-- A load or store that can perform later than it issues is held for the statuses alone; it then performs after the earlier
accesses (R203 case 3, R212). -/
def issueGate (s : State) (ord : MemOrd) : M Unit := if releases ord then s.statusGate else .ok ()

/-- A load of path 3 (R62, R184, R425). -/
def sysLoad (s : State) (ea : Word) (sel : Nat) : M Word :=
  if 0x8000 ≤ sel && !s.priv then fail .privilege ea
  else match s.sysRead s.cur.id sel with
    | none => fail .sysreg ea
    | some v => .ok v

/-- A store of path 3 (R62, R184, R425). -/
def sysStore (s : State) (ea : Word) (sel : Nat) (v : Word) : M State :=
  if 0x8000 ≤ sel && !s.priv then fail .privilege ea
  else match s.sysWrite s.cur.id sel v with
    | none => fail .sysreg ea
    | some s => .ok s

/-- An acquiring load, from count n on, orders the stores that it read from before what follows it (R203 cases 1 and 2,
R206). -/
def orderLoad (s : State) (ord : MemOrd) (sc : Scope) (n : Nat) : State :=
  if acquires ord then s.reveal (fun k => decide (n ≤ k)) sc else s

/-- A scalar load of n bytes (R184, R191): the value, a late fault, and whether the value is still to come. -/
def loadAcc (s : State) (ea : Word) (n : Nat) (o : AccOpts) : M (Nat × Option Flt × Bool × State) := do
  s.issueGate o.ord
  let (l, s) ← s.resolve s.agent .load ea n
  match l with
  | .sys sel => do
    s.accGate false l n
    let v ← s.sysLoad ea sel
    .ok (v.toNat, none, false, s.orderFirst o.ord o.sc)
  | _ => do
    let (v, f, more, t) ← (s.orderFirst o.ord o.sc).issueLoad l ea n 0 o.ord o.sc
    .ok (v, f, more, t.orderLoad o.ord o.sc s.seq)

/-- A scalar store of n bytes (R184, R191). -/
def storeAcc (s : State) (ea : Word) (n v : Nat) (o : AccOpts) : M State := do
  s.issueGate o.ord
  let (l, s) ← s.resolve s.agent .store ea n
  match l with
  | .sys sel => do
    s.accGate false l n
    (s.orderFirst o.ord o.sc).sysStore ea sel (W v)
  | _ => do
    let s ← s.touchNow l n
    let t := s.orderFirst o.ord o.sc
    let (f, t) ← t.issueStore l ea n v o.ord o.sc (t.storeLate l ea n v o.ord o.sc)
    .ok ((t.stored l f).orderLast o.ord o.sc)

/-- Long-latency results of one instruction's accesses: with a late fault the destination stays unwritten (R79, R82); `more`:
bank accesses still bring the value, from bit 0 of the first register on. -/
def wloads (s : State) (ws : List RegWrite) (f : Option Flt) (more : Bool) : State :=
  match f, ws with
  | none, _ =>
    if more then ws.zipIdx.foldl (fun s w => s.wgrp w.1 (64 * w.2)) s else ws.foldl (fun s w => s.wlong w) s
  | some f, w :: _ => s.wlong w (some f)
  | some _, [] => s

end State

/-- LD (R191). -/
def execLd (d : XReg) (m : MemOp) (sz : Fin 4) (o : AccOpts) (s : State) : Out :=
  s.run (do
    let (v, f, more, s) ← s.loadAcc (s.ea m) (2 ^ sz.val) o
    .ok (s.wloads [.x d (W v)] f more))

/-- ST (R191). -/
def execSt (d : XReg) (m : MemOp) (sz : Fin 4) (o : AccOpts) (s : State) : Out :=
  s.run (s.storeAcc (s.ea m) (2 ^ sz.val) ((s.rx d 2).toNat % 2 ^ (8 * 2 ^ sz.val)) o)

/-- LDP (R191). -/
def execLdp (d : XReg) (m : MemOp) (o : AccOpts) (s : State) : Out :=
  s.run (do
    let (v, f, more, s) ← s.loadAcc (s.ea m) 16 o
    .ok (s.wloads [.x d (W v), .x (xnext d) (W (v / 2 ^ 64))] f more))

/-- STP (R191). -/
def execStp (d : XReg) (m : MemOp) (o : AccOpts) (s : State) : Out := s.run (s.storeAcc (s.ea m) 16 (s.pairX d 2) o)

/-- PREF (R192): a check that fails drops it. -/
def execPref (m : MemOp) (ch : Fin 2) (s : State) : Out :=
  s.run (.ok (match s.resolve s.agent .load (s.ea m) 1 with
    | .ok (.mem pa, t) =>
      if ch.val = 0 then (t.l1Line t.myCore (pa / 64) (BitVec.allOnes 64)).2 else (t.l2Fill t.myCore (pa / 64)).2
    | _ => s))

namespace State

/-- CWB and CINV (R193). -/
def lineOp (s : State) (m : MemOp) (sc : Scope) (drop : Bool) : M State := do
  let (l, s) ← s.resolve s.agent .line (s.ea m) 1
  match l with
  | .mem pa => .ok (s.lineBack s.myCore (pa / 64) sc drop)
  | _ => .ok s

end State

/-- CWB (R193). -/
def execCwb (m : MemOp) (sc : Scope) (s : State) : Out := s.run (s.lineOp m sc false)

/-- CINV (R193). -/
def execCinv (m : MemOp) (sc : Scope) (s : State) : Out := s.run (s.lineOp m sc true)

namespace State

/-- Does a bank access that has not performed hold a FENCE: of a kind in PRED, or with `.lb` any through path 2 to the own
tile (R215)? -/
def fenceHeld (c : Ctx) (tid : Nat) (predR predW lb : Bool) : Bool :=
  c.accs.any fun e => (if e.store.isSome then predW else predR) || (lb && e.mesh && e.tid == tid)

end State

/-- FENCE (R212, R214, R215): what is in PRED performs first; loads in PRED take the stores that they read from along
(R206); every later access is issued after it, so that SUCC has no more to hold than the clean copies. -/
def execFence (predR predW succR _succW lb : Bool) (sc : Scope) (s : State) : Out :=
  s.run (do
    if predW then s.statusGate
    if State.fenceHeld s.me s.myTid predR predW lb then .error (.wait (.fence predR predW lb) s)
    else
      let s := if predR then s.reveal (fun _ => true) sc else s
      let s := if predW then s.release s.myCore sc else s
      .ok (if succR then s.acquire s.myCore sc else s))

/-! ### Banks (R181, R194, R340) -/

namespace State

/-- Does the bank hold a byte of a window that is not FREE (R340)? -/
def bankWindowed (s : State) (tid b : Nat) : Bool :=
  !(s.winsAt tid (b * 2 ^ 17) (2 ^ 17) fun st => st != .free).isEmpty

/-- The lines of a bank leave the tile's L2, their dirty bytes written back (R181). -/
def flushBank (s : State) (tid b : Nat) : State := (s.linesIn tid b).foldl (fun s pl => s.l2Evict tid pl) s

/-- Contexts that wait at a ring whose bank changes execute their instructions again; requests of engines stay (log 69). -/
def dropWaiters (s : State) (l : List RingReq) : List RingReq × State :=
  (l.filter fun q => match q with
    | .claim _ _ | .msend _ | .take _ _ => false
    | _ => true,
   l.foldl (fun s q => match q with
    | .claim id _ | .msend id | .take id _ => s.modCtx id Ctx.unissued
    | _ => s) s)

/-- The change of a bank's setting (R177, R181, R186): contexts that wait at its ring execute again (log 69). -/
def changeBank (s : State) (tid b : Nat) (mode : BankMode) (pool : Bool) (asid : BitVec 10) : State :=
  let k := (s.tile tid).bank b
  let s := if k.mode = .cache then s.flushBank tid b else s
  let (claims, s) := s.dropWaiters k.ring.claims
  let (takes, s) := s.dropWaiters k.ring.takes
  s.modTile tid fun t =>
    (t.zeroBank b).setBank b { mode := mode, pool := pool, asid := if mode = .cache then 0 else asid,
                               lose := k.lose && mode == .scratch, kept := k.kept && mode == .scratch,
                               ring := { claims := claims, takes := takes } }

/-- The preconditions of a bank's change, as they are when they are checked (R181, R194, R340). -/
def bankBusy (s : State) (tid : Nat) (asid : BitVec 10) (c : BankSet) : Option Flt :=
  let k := (s.tile tid).bank c.bank
  let same := k.mode == c.mode && k.pool == c.pool && (c.mode == .cache || k.asid == asid)
  if s.bankWindowed tid c.bank then some { code := .winBusy, info := s.openWord }
  else if !same && k.mode == .ring && !k.ring.empty then some { code := .ringBusy, info := s.openWord }
  else none

/-- IMM[7:0] of R194 for a bank's setting. -/
def bankCode (s : State) (tid b : Nat) : Nat :=
  let k := (s.tile tid).bank b
  (match k.mode with | .cache => 0 | .scratch => 1 | .ring => 2) * 32 + b2n k.pool * 128 + b

/-- The bank takes the setting; the same setting again has no effect (R181). -/
def setBankTo (s : State) (tid : Nat) (asid : BitVec 10) (c : BankSet) : State :=
  let k := (s.tile tid).bank c.bank
  if k.mode = c.mode && k.pool = c.pool && (c.mode = .cache || k.asid = asid) then s
  else s.changeBank tid c.bank c.mode c.pool asid

/-- Result n of a context on a tile arrives, and with it the change of a bank that BANKCFG asked for, after the changes of
that bank that were asked for before (R182, R194). -/
def arriveAt (s : State) (tid : Nat) (c : Ctx) (n : Nat) : Ctx × State :=
  match c.pend[n]? with
  | none => (c, s)
  | some e =>
    match e.cfg with
    | none => (c.arrive n, s)
    | some b =>
      if (c.pend.take n).any fun o => o.cfg.any fun q => q.bank == b.bank then (c, s)
      else
        let f := s.bankBusy tid c.asid b
        let w : RegWrite := match e.wr with
          | .x d _ => .x d (W (s.bankCode tid b.bank))
          | w => w
        let c := { c with pend := setNth c.pend n { e with cfg := none, wr := w, flt := f } }.arrive n
        (c, if f.isSome then s else s.setBankTo tid c.asid b)

end State

/-- BANKCFG (R175, R181, R182, R194, R340): the change is made when its result arrives. -/
def execBankcfg (d : XReg) (bank : Fin 32) (mode : BankMode) (pool : Bool) (s : State) : Out :=
  let c : BankSet := { bank := bank.val, mode := mode, pool := pool }
  s.run (do
    failIf (bank.val / 4 != idCore s.cur.id && !s.priv) .bankOwner (W bank.val)
    match s.bankBusy s.myTid s.myAsid c with
    | some f => .error (.flt f)
    | none => .ok (s.modMe fun k => s.depends (.x d 0)
        { k with pend := k.pend ++ [{ wr := .x d 0, due := none, pc := s.cur.pc, flt := none, cfg := some c }] }))

/-! ### Rings (R186-R197) -/

namespace State

/-- Tile of a ring operation's address, with the path checks of R184 (R195, R196); `tk`: the target tile must grant TK too
(R276, R419). -/
def ringTile (s : State) (k : AccKind) (ea : Word) (tk : Bool := false) : M Nat :=
  match Bits ea 60 4 with
    | 1 => if Bits ea 22 38 ≠ 0 then fail .badPath ea else .ok s.myTid
    | 2 => do
      let tid ← s.meshTile s.agent k ea
      failIf (tk && !s.tileRight s.myAsid s.myTid tid 28) .tilePerm ea
      .ok tid
    | 0 | 4 => do
      failIf (Bits ea 57 3 != 0) .badPath ea
      let _ ← s.xlate s.agent ea k
      failIf (s.atPeer s.agent k ea) .badPath ea
      fail .ringAddr s.openWord
    | 3 => do
      failIf (Bits ea 19 41 != 0 || Bits ea 0 3 != 0) .badPath ea
      let _ ← s.sysLoad ea (Bits ea 3 16)
      fail .ringAddr s.openWord
    | _ => fail .badPath ea

/-- Bank of a ring operation on a tile, under R177. -/
def ringBank (s : State) (tid : Nat) (ea : Word) : M Nat :=
  let c := (s.tile tid).bank (Bits ea 17 5)
  if c.mode ≠ .cache && c.asid ≠ s.myAsid then fail .bankAsid ea
  else .ok (Bits ea 17 5)

/-- Tile and bank of a ring operation's address: R184, and then R177 (R195, R196). -/
def ringPlace (s : State) (k : AccKind) (ea : Word) : M (Nat × Nat) := do
  let tid ← s.ringTile k ea
  let b ← s.ringBank tid ea
  .ok (tid, b)

/-- The ring of a claim or take: its base must be named (R195). -/
def ringBase (s : State) (ea : Word) : M (Nat × Nat) := do
  let (tid, b) ← s.ringPlace .rdwr ea
  if Bits ea 0 17 ≠ 0 || ((s.tile tid).bank b).mode ≠ .ring || (s.ring tid b).count = 0 then fail .ringAddr s.openWord
  else .ok (tid, b)

/-- The slot of a publish or release: one in the given state must be named (R195). -/
def ringSlotAt (s : State) (ea : Word) (st : SlotSt) : M (Nat × Nat × Nat) := do
  let (tid, b) ← s.ringPlace .rdwr ea
  let r := s.ring tid b
  let i := Bits ea 0 17 / slotBytes r
  if ((s.tile tid).bank b).mode ≠ .ring || Bits ea 0 17 % slotBytes r ≠ 0 || r.count ≤ i || (r.slot i).st ≠ st then
    fail .ringAddr s.openWord
  else .ok (tid, b, i)

/-- A claim or take that was waited for ends with its answer, or starts (R187, R195). -/
def ringAcq (s : State) (d : XReg) (sc : Scope) (start : M State) : M State :=
  match s.me.answer with
  | .val w => .ok ((s.acquire s.myCore sc).wx d w)
  | .flt f => .error (.flt f)
  | .none => start

end State

/-- RPUSH acq (R187, R195). -/
def execRpushClaim (d : XReg) (m : MemOp) (sc : Scope) (try_ : Bool) (s : State) : Out :=
  s.run (s.ringAcq d sc (do
    let ea := s.ea m
    let (tid, b) ← s.ringBase ea
    let s := s.packetTo tid
    match s.claimNow tid b with
    | some (i, t) => .ok ((t.acquire t.myCore sc).wx d (s.slotAddr tid b i ea))
    | none =>
      if try_ && (s.ring tid b).freeN == 0 then .ok (s.wx d 0)
      else
        let t := s.modRing tid b fun r => { r with claims := r.claims ++ [.claim s.cur.id ea] }
        .error (.wait (.ring tid b) t)))

/-- RPUSH rel (R187, R188, R195). -/
def execRpushPublish (m : MemOp) (sc : Scope) (s : State) : Out :=
  s.run (do
    s.relGate
    let (tid, b, i) ← s.ringSlotAt (s.ea m) .claimed
    .ok (((s.release s.myCore sc).packetTo tid).modRing tid b fun r => r.publishSlot i s.src.nfm s.myTid false))

/-- RPOP acq (R187, R188, R195). -/
def execRpopTake (d : XReg) (m : MemOp) (sc : Scope) (try_ : Bool) (s : State) : Out :=
  s.run (s.ringAcq d sc (do
    let ea := s.ea m
    let (tid, b) ← s.ringBase ea
    let s := s.packetTo tid
    match s.takeNow tid b s.myAsid with
    | some (.ok (i, t)) => .ok ((t.acquire t.myCore sc).wx d (s.slotAddr tid b i ea))
    | some (.error f) => .error (.flt f)
    | none =>
      if try_ && (s.ring tid b).filled == 0 then .ok (s.wx d 0)
      else
        let t := s.modRing tid b fun r => { r with takes := r.takes ++ [.take s.cur.id ea] }
        .error (.wait (.ring tid b) t)))

/-- RPOP rel (R187, R195). -/
def execRpopRelease (m : MemOp) (sc : Scope) (s : State) : Out :=
  s.run (do
    s.relGate
    let (tid, b, i) ← s.ringSlotAt (s.ea m) .taken
    .ok (((s.release s.myCore sc).packetTo tid).modRing tid b fun r => r.releaseSlot i))

/-- RSTAT (R196). -/
def execRstat (d a : XReg) (s : State) : Out :=
  let w := s.rx a 0
  s.run (do
    failIf (s.atPeer s.agent .load w) .badPath w
    failIf ((Bits w 60 4 ≠ 1 && Bits w 60 4 ≠ 2) || Bits w 0 17 ≠ 0) .ringAddr w
    let (tid, b) ← s.ringPlace .load w
    failIf (((s.tile tid).bank b).mode != .ring) .bankMode w
    let r := s.ring tid b
    .ok ((s.packetTo tid).wlong (.x d (W (r.freeN + r.filled * 2 ^ 12 + r.count * 2 ^ 24 + r.claimI * 2 ^ 36 + r.takeI * 2 ^ 47 +
      r.slotsz * 2 ^ 58)))))

/-- RINIT (R186, R197). -/
def execRinit (a : XReg) (s : State) : Out :=
  let w := s.rx a 0
  let b := Bits w 0 5
  let size := Bits w 5 3
  let n := Bits w 8 12
  s.run (do
    let k := (s.tile s.myTid).bank b
    failIf (k.mode != .ring) .bankMode s.openWord
    failIf (k.asid != s.myAsid) .bankAsid s.openWord
    failIf (Bits w 20 44 != 0 || decide (5 < size) || decide (n < 2) || decide (2048 < n) ||
      decide (2 ^ 17 < n * (64 * 2 ^ size))) .ringAddr s.openWord
    failIf (!k.ring.empty) .ringBusy s.openWord
    .ok (s.modRing s.myTid b fun r =>
      { count := n, slotsz := size, freeN := n, claims := r.claims, takes := r.takes }))

end Sys2Proof.Machine
end

