-- ==== Sys2Proof/Machine/Vector.lean ====
section
/-! DEFINITION. Meanings of the vector integer, floating, permutation and generator majors (R126-R148). -/

namespace Sys2Proof.Machine

/-- VADD (R131). -/
def execVadd (d a : VReg) (b : VSrc) (mk : PReg) (ty : Ty) (sat z : Bool) (s : State) : Out :=
  s.vari 1 d a b mk ty sat z (· + ·)

/-- VSUB (R131). -/
def execVsub (d a : VReg) (b : VSrc) (mk : PReg) (ty : Ty) (sat z : Bool) (s : State) : Out :=
  s.vari 1 d a b mk ty sat z (· - ·)

/-- VMUL (R131). -/
def execVmul (d a : VReg) (b : VSrc) (mk : PReg) (ty : Ty) (sat z : Bool) (s : State) : Out :=
  s.vari 4 d a b mk ty sat z (· * ·)

/-- VMULH (R131). -/
def execVmulh (d a : VReg) (b : VSrc) (mk : PReg) (ty : Ty) (z : Bool) (s : State) : Out :=
  s.vari 4 d a b mk ty false z fun x y => x * y / (2 ^ tyBits ty : Nat)

/-- VAND (R131). -/
def execVand (d a : VReg) (b : VSrc) (mk : PReg) (ty : Ty) (z : Bool) (s : State) : Out :=
  s.vint 1 d a b mk ty z fun x y => x &&& y

/-- VOR (R131). -/
def execVor (d a : VReg) (b : VSrc) (mk : PReg) (ty : Ty) (z : Bool) (s : State) : Out :=
  s.vint 1 d a b mk ty z fun x y => x ||| y

/-- VXOR (R131). -/
def execVxor (d a : VReg) (b : VSrc) (mk : PReg) (ty : Ty) (z : Bool) (s : State) : Out :=
  s.vint 1 d a b mk ty z fun x y => x ^^^ y

/-- VSHL (R131). -/
def execVshl (d a : VReg) (b : VSrc) (mk : PReg) (ty : Ty) (sat z : Bool) (s : State) : Out :=
  s.vint 1 d a b mk ty z fun x y => putEl ty sat (shlZ (rdN ty x) (tyBits ty) y)

/-- VSHR (R131). -/
def execVshr (d a : VReg) (b : VSrc) (mk : PReg) (ty : Ty) (z : Bool) (s : State) : Out :=
  s.vint 1 d a b mk ty z fun x y => shrZ x y

/-- VSHA (R131). -/
def execVsha (d a : VReg) (b : VSrc) (mk : PReg) (ty : Ty) (z : Bool) (s : State) : Out :=
  s.vint 1 d a b mk ty z fun x y => wrapN (tyBits ty) (shaZ (sextN x (tyBits ty)) y)

/-- VMIN (R131). -/
def execVmin (d a : VReg) (b : VSrc) (mk : PReg) (ty : Ty) (z : Bool) (s : State) : Out :=
  s.vari 1 d a b mk ty false z min

/-- VMAX (R131). -/
def execVmax (d a : VReg) (b : VSrc) (mk : PReg) (ty : Ty) (z : Bool) (s : State) : Out :=
  s.vari 1 d a b mk ty false z max

/-- VCMP (R133). -/
def execVcmp (kd : PReg) (a : VReg) (b : VSrc) (mk : PReg) (ty : Ty) (op : CmpOp) (cb : Comb) (s : State) : Out :=
  let n := tyBits ty
  s.run (.ok (s.wk 1 kd (s.cmpMask kd mk n cb fun e => cmpHolds ty op (rdN ty (el (s.rv a 0) n e)) (rdN ty (s.elB b n e)))))

/-- VSEL (R134). -/
def execVsel (d a b : VReg) (mk : PReg) (ty : Ty) (s : State) : Out :=
  let n := tyBits ty
  s.run (.ok (s.wr (.v d (ofEls n ((List.range (lanes n)).map fun e =>
    if s.active mk e then el (s.rv a 0) n e else el (s.rv b 1) n e)))))

/-- VDOT (R135): elements of 8 bits, or of 16 under `wide`. -/
def execVdot (d a b c : VReg) (mk : PReg) (signed wide sat z : Bool) (s : State) : Out :=
  let ty : Ty := if signed then (if wide then .i16 else .i8) else (if wide then .n16 else .n8)
  let t32 : Ty := if signed then .i32 else .n32
  let n := tyBits ty
  let g := 32 / n
  s.run (.ok (s.wlat 4 (.v d (s.maskedEls d mk z 32 fun j =>
    putEl t32 sat ((List.range g).foldl (fun (acc : Int) i =>
      acc + rdN ty (el (s.rv a 0) n (g * j + i)) * rdN ty (el (s.rv b 1) n (g * j + i)))
        (rdN t32 (el (s.rv c 2) 32 j)))))))

/-- VABS (R132). -/
def execVabs (d a : VReg) (mk : PReg) (ty : Ty) (sat z : Bool) (s : State) : Out :=
  let n := tyBits ty
  s.run (.ok (s.wr (.v d (s.maskedEls d mk z n fun e => putEl ty sat ((rdN ty (el (s.rv a 0) n e)).natAbs : Nat)))))

/-- VFADD (R137). -/
def execVfadd (d a : VReg) (b : VSrc) (mk : PReg) (ft : FReg) (rm : Rm) (z : Bool) (s : State) : Out :=
  s.vflt 4 d a mk ft rm z fun t r x e => x.add (r == 2) (s.numB b t e)

/-- VFSUB (R137). -/
def execVfsub (d a : VReg) (b : VSrc) (mk : PReg) (ft : FReg) (rm : Rm) (z : Bool) (s : State) : Out :=
  s.vflt 4 d a mk ft rm z fun t r x e => x.add (r == 2) (s.numB b t e).flip

/-- VFMUL (R137). -/
def execVfmul (d a : VReg) (b : VSrc) (mk : PReg) (ft : FReg) (rm : Rm) (z : Bool) (s : State) : Out :=
  s.vflt 4 d a mk ft rm z fun t _ x e => x.mul (s.numB b t e)

/-- VFMA (R137). -/
def execVfma (d a b c : VReg) (mk : PReg) (ft : FReg) (rm : Rm) (z : Bool) (s : State) : Out :=
  s.vflt 4 d a mk ft rm z fun t r x e =>
    (x.mul (t.decode (el (s.rv b 1) t.cbits e))).add (r == 2) (t.decode (el (s.rv c 2) t.cbits e))

/-- VFDIV (R137). -/
def execVfdiv (d a : VReg) (b : VSrc) (mk : PReg) (ft : FReg) (rm : Rm) (z : Bool) (s : State) : Out :=
  s.vflt 12 d a mk ft rm z fun t _ x e => x.div (s.numB b t e)

/-- VFSQRT (R137). -/
def execVfsqrt (d a : VReg) (mk : PReg) (ft : FReg) (rm : Rm) (z : Bool) (s : State) : Out :=
  s.vflt 12 d a mk ft rm z fun _ _ x _ => x.sqrt

/-- VFMIN (R138). -/
def execVfmin (d a : VReg) (b : VSrc) (mk : PReg) (ft : FReg) (z : Bool) (s : State) : Out :=
  s.vfmm d a b mk ft z false

/-- VFMAX (R138). -/
def execVfmax (d a : VReg) (b : VSrc) (mk : PReg) (ft : FReg) (z : Bool) (s : State) : Out :=
  s.vfmm d a b mk ft z true

/-- VFCMP (R139). -/
def execVfcmp (kd : PReg) (a : VReg) (b : VSrc) (mk : PReg) (ft : FReg) (op : FCmpOp) (cb : Comb) (s : State) : Out :=
  s.run (do
    let t ← s.floatEntry ft.val
    .ok (s.wk 4 kd (s.cmpMask kd mk t.cbits cb fun e =>
      fcmpHolds op (t.decode (el (s.rv a 0) t.cbits e)) (s.numB b t e))))

/-- VFEXP2 (R137). -/
def execVfexp2 (d a : VReg) (mk : PReg) (ft : FReg) (rm : Rm) (z : Bool) (s : State) : Out :=
  s.vflt 12 d a mk ft rm z fun _ _ x _ => x.exp2

/-- VFRCP (R137). -/
def execVfrcp (d a : VReg) (mk : PReg) (ft : FReg) (rm : Rm) (z : Bool) (s : State) : Out :=
  s.vflt 12 d a mk ft rm z fun _ _ x _ => x.rcp

/-- VFRSQ (R137). -/
def execVfrsq (d a : VReg) (mk : PReg) (ft : FReg) (rm : Rm) (z : Bool) (s : State) : Out :=
  s.vflt 12 d a mk ft rm z fun _ _ x _ => x.rsqrt

/-- VFRED (R130, R141, R148). -/
def execVfred (d a : VReg) (mk : PReg) (ft : FReg) (rm : Rm) (op : FredOp) (s : State) : Out :=
  s.run (do
    let r ← s.rmOf rm 48
    let t ← s.floatEntry ft.val
    let n := t.cbits
    let comb (x y k : Nat) : Nat := match op with
      | .add => t.round r (s.draw r k) ((t.decode x).add (r == 2) (t.decode y))
      | .min => t.round 1 0 (Num.minMax false (t.decode x) (t.decode y))
      | .max => t.round 1 0 (Num.minMax true (t.decode x) (t.decode y))
    let empty := match op with
      | .add => 0
      | _ => t.nanCode
    let v := (redTree comb 8 (s.presentEls a mk n t.width) 0).getD empty
    .ok ((s.wlat 12 (.v d (ofEls n [v]))).advanceRm r (lanes n)))

/-- VFSCL (R137). -/
def execVfscl (d a : VReg) (b : VSrc) (mk : PReg) (ft : FReg) (rm : Rm) (z : Bool) (s : State) : Out :=
  s.vflt 4 d a mk ft rm z fun t _ x e =>
    match x with
    | .fin v => if v.m = 0 then .fin v else .fin { v with e := v.e + clampI (-65536) 65536 (sextN (s.elB b t.cbits e) t.cbits) }
    | x => x

/-- VFCLS (R140). -/
def execVfcls (d a : VReg) (mk : PReg) (ft : FReg) (z : Bool) (s : State) : Out :=
  s.run (do
    let t ← s.floatEntry ft.val
    .ok (s.wlat 4 (.v d (s.maskedEls d mk z t.cbits fun e => classOf t (t.decode (el (s.rv a 0) t.cbits e))))))

/-- VPERM (R144). -/
def execVperm (d a b c : VReg) (mk : PReg) (ty : Ty) (two z : Bool) (s : State) : Out :=
  let n := tyBits ty
  let k := lanes n
  s.run (.ok (s.wr (.v d (s.maskedEls d mk z n fun e =>
    let i := el (s.rv b 1) n e
    if two then (let j := i % (2 * k); if j < k then el (s.rv a 0) n j else el (s.rv c 2) n (j - k))
    else el (s.rv a 0) n (i % k)))))

/-- VBCAST (R144). -/
def execVbcast (op : BcastOp) (s : State) : Out :=
  match op with
  | .x vd xa mk ty z => s.run (.ok (s.wr (.v vd (s.maskedEls vd mk z (tyBits ty) fun _ => (s.rx xa 0).toNat))))
  | .e vd va xa mk ty z =>
    let n := tyBits ty
    s.run (.ok (s.wr (.v vd (s.maskedEls vd mk z n fun _ => el (s.rv va 1) n ((s.rx xa 0).toNat % lanes n)))))
  | .klo k xa => s.run (.ok (s.wk 1 k (withWord (s.rk k 3) 0 (s.rx xa 0))))
  | .khi k xa => s.run (.ok (s.wk 1 k (withWord (s.rk k 3) 1 (s.rx xa 0))))

/-- VEXTR (R144). -/
def execVextr (op : ExtrOp) (s : State) : Out :=
  match op with
  | .e xa va ty =>
    let n := tyBits ty
    s.run (.ok (s.wx xa (Wi (rdN ty (el (s.rv va 1) n ((s.rx xa 0).toNat % lanes n))))))
  | .klo xa mk => s.run (.ok (s.wx xa (wordOf (s.rk mk 4) 0)))
  | .khi xa mk => s.run (.ok (s.wx xa (wordOf (s.rk mk 4) 1)))
  | .cnt xa mk ty => s.run (.ok (s.wx xa (W (popN (lanes (tyBits ty)) (s.rk mk 4).toNat))))

/-- VIOTA (R136). -/
def execViota (d : VReg) (xa : XReg) (mk : PReg) (ty : Ty) (z : Bool) (s : State) : Out :=
  let n := tyBits ty
  s.run (.ok (s.wr (.v d (s.maskedEls d mk z n fun e => (s.rx xa 0).toNat + e))))

/-- VRNG (R146). -/
def execVrng (d : VReg) (src : RngSrc) (mk : PReg) (w : Fin 4) (z : Bool) (s : State) : Out :=
  match src with
  | .regs va xa =>
    let base := (s.rv va 0).toNat % 2 ^ 128
    s.run (.ok (s.wlat 4 (.v d (s.maskedEls d mk z 32 fun j => icg (s.rx xa 1).toNat ((base + j) % 2 ^ 128) w.val))))
  | .ctx =>
    let base := s.me.srctr.toNat
    s.run (.ok ((s.wlat 4 (.v d (s.maskedEls d mk z 32 fun j =>
      icg s.me.srkey.toNat ((base + j) % 2 ^ 128) w.val))).advance 32))

/-- VCOMP (R144). -/
def execVcomp (d a : VReg) (xa : XReg) (mk : PReg) (ty : Ty) (s : State) : Out :=
  let n := tyBits ty
  let l := (s.presentEls a mk n n).filterMap id
  s.run (.ok ((s.wr (.v d (ofEls n l))).wx xa (W l.length)))

/-- VEXPD (R144). -/
def execVexpd (d a : VReg) (mk : PReg) (ty : Ty) (z : Bool) (s : State) : Out :=
  let n := tyBits ty
  s.run (.ok (s.wr (.v d (s.maskedEls d mk z n fun e =>
    el (s.rv a 0) n (popN e (s.rk mk 4).toNat)))))

/-- VREDI (R141). -/
def execVredi (d a : VReg) (mk : PReg) (ty : Ty) (sat : Bool) (op : RediOp) (s : State) : Out :=
  let n := tyBits ty
  let comb (x y : Nat) (_ : Nat) : Nat := match op with
    | .add => putEl ty sat (rdN ty x + rdN ty y)
    | .min => putEl ty false (min (rdN ty x) (rdN ty y))
    | .max => putEl ty false (max (rdN ty x) (rdN ty y))
    | .xor => x ^^^ y
  let empty := match op with
    | .add | .xor => 0
    | .min => putEl ty false (tyHi ty)
    | .max => putEl ty false (tyLo ty)
  s.run (.ok (s.wlat 12 (.v d (ofEls n [(redTree comb 8 (s.presentEls a mk n n) 0).getD empty]))))

end Sys2Proof.Machine
end

