-- ==== Sys2Proof/Machine/VecMem.lean ====
section
/-! DEFINITION. Meanings of the vector memory majors (R142, R143). -/

namespace Sys2Proof.Machine

namespace State

/-- Checks of the active elements, lowest first, before any access, those of a path 3 element's selector among them: the
places in the order of the elements (R62, R143, R184). -/
def placeEls (s : State) (k : AccKind) (n : Nat) : List (Nat × Word) → M (List (Nat × Word × Loc) × State)
  | [] => .ok ([], s)
  | (e, ea) :: r => do
    let (l, s) ← s.resolve s.agent k ea n
    (match l with
      | .sys sel => do
        let _ ← s.sysLoad ea sel
        .ok ()
      | _ => .ok ())
    let (ls, s) ← s.placeEls k n r
    .ok ((e, ea, l) :: ls, s)

/-- What the elements wait for before any of them performs or issues: those of path 3 for the context's earlier accesses, and
those that touch an ABSENT window for what its submission waits for (R201, R209, R339). -/
def readyEls (s : State) (n : Nat) : List (Nat × Word × Loc) → M State
  | [] => .ok s
  | (_, _, .sys sel) :: r => do
    s.accGate false (.sys sel) n
    s.readyEls n r
  | (_, _, l) :: r => do
    let s ← s.touchNow l n
    s.readyEls n r

/-- The element loads: values by element, the first late fault, and whether a value is still to come. -/
def loadEls (s : State) (ord : MemOrd) (sc : Scope) (n : Nat) :
    List (Nat × Word × Loc) → M (List (Nat × Nat) × Option Flt × Bool × State)
  | [] => .ok ([], none, false, s)
  | (e, ea, l) :: r => do
    let (v, f, more, s) ← (match l with
      | .sys sel => do
        let v ← s.sysLoad ea sel
        .ok (v.toNat, none, false, s)
      | _ => s.issueLoad l ea n (8 * n * e) ord sc)
    let (vs, g, rest, s) ← s.loadEls ord sc n r
    .ok ((e, v) :: vs, f.or g, more || rest, s)

/-- The element stores, in ascending order (log 70), all of them later if one is (R143). -/
def storeEls (s : State) (ord : MemOrd) (sc : Scope) (later : Bool) (n : Nat) (v : Nat → Nat) : List (Nat × Word × Loc) → M State
  | [] => .ok s
  | (e, ea, l) :: r => do
    let s ← (match l with
      | .sys sel => s.sysStore ea sel (W (v e))
      | _ => do
        let (f, s) ← s.issueStore l ea n (v e) ord sc later
        .ok (s.stored l f))
    s.storeEls ord sc later n v r

/-- Does one of the element stores perform later than it issues? -/
def lateEls (s : State) (ord : MemOrd) (sc : Scope) (n : Nat) (ls : List (Nat × Word × Loc)) : Bool :=
  ls.any fun x => s.storeLate x.2.2 x.2.1 n 0 ord sc

/-- The active elements with their addresses. -/
def activeAt (s : State) (mk : PReg) (n : Nat) (addr : Nat → Word) : List (Nat × Word) :=
  ((List.range (lanes n)).filter fun e => s.active mk e).map fun e => (e, addr e)

/-- A vector load (R142, R143). -/
def vload (s : State) (d : VReg) (mk : PReg) (ty : Ty) (o : AccOpts) (z : Bool) (addr : Nat → Word) : Out :=
  let n := tyBits ty
  s.run (do
    s.issueGate o.ord
    let (ls, t) ← s.placeEls .load (n / 8) (s.activeAt mk n addr)
    let t ← t.readyEls (n / 8) ls
    let (vs, f, more, t) ← (t.orderFirst o.ord o.sc).loadEls o.ord o.sc (n / 8) ls
    .ok ((t.orderLoad o.ord o.sc s.seq).wloads [.v d (s.maskedEls d mk z n fun e => getD 0 vs e)] f more))

/-- A vector store (R142, R143). -/
def vstore (s : State) (d : VReg) (mk : PReg) (ty : Ty) (o : AccOpts) (addr : Nat → Word) : Out :=
  let n := tyBits ty
  s.run (do
    s.issueGate o.ord
    let (ls, t) ← s.placeEls .store (n / 8) (s.activeAt mk n addr)
    let t ← t.readyEls (n / 8) ls
    let t := t.orderFirst o.ord o.sc
    let t ← t.storeEls o.ord o.sc (t.lateEls o.ord o.sc (n / 8) ls) (n / 8) (fun e => el (s.rv d 3) n e) ls
    .ok (t.orderLast o.ord o.sc))

/-- Address of element e by a fixed stride (R142). -/
def strideAt (s : State) (xa : XReg) (step : Int) (e : Nat) : Word := s.rx xa 0 + Wi (e * step)

/-- Address of element e by the lanes of VB (R142). -/
def laneAt (s : State) (xa : XReg) (b : VReg) (e : Nat) : Word := s.rx xa 0 + Wi (sextN (el (s.rv b 2) 32 e) 32)

/-- The stride of VLDS and VSTS (R142). -/
def strideOf (s : State) (xa : XReg) : Int := (s.rx (xnext xa) 1).toInt

end State

/-- VLD (R142). -/
def execVld (d : VReg) (xa : XReg) (mk : PReg) (ty : Ty) (o : AccOpts) (z : Bool) (s : State) : Out :=
  s.vload d mk ty o z (s.strideAt xa (tyBits ty / 8 : Nat))

/-- VST (R142). -/
def execVst (d : VReg) (xa : XReg) (mk : PReg) (ty : Ty) (o : AccOpts) (s : State) : Out :=
  s.vstore d mk ty o (s.strideAt xa (tyBits ty / 8 : Nat))

/-- VLDS (R142). -/
def execVlds (d : VReg) (xa : XReg) (mk : PReg) (ty : Ty) (o : AccOpts) (z : Bool) (s : State) : Out :=
  s.vload d mk ty o z (s.strideAt xa (s.strideOf xa))

/-- VSTS (R142). -/
def execVsts (d : VReg) (xa : XReg) (mk : PReg) (ty : Ty) (o : AccOpts) (s : State) : Out :=
  s.vstore d mk ty o (s.strideAt xa (s.strideOf xa))

/-- VGATH (R142). -/
def execVgath (d b : VReg) (xa : XReg) (mk : PReg) (ty : Ty) (o : AccOpts) (z : Bool) (s : State) : Out :=
  s.vload d mk ty o z (s.laneAt xa b)

/-- VSCAT (R142). -/
def execVscat (d b : VReg) (xa : XReg) (mk : PReg) (ty : Ty) (o : AccOpts) (s : State) : Out :=
  s.vstore d mk ty o (s.laneAt xa b)

end Sys2Proof.Machine
end

