-- ==== Sys2Proof/Machine/Atomics.lean ====
section
/-! DEFINITION. Meanings of the atomics family (R217-R231). -/

namespace Sys2Proof.Machine

/-- Where an atomic performs: its home, its address there (a physical address, or an offset in the tile's banks), and the
late fault that a FAILED window gives (R217, R339). -/
structure Site where
  home : Home
  addr : Nat
  flt  : Option Flt
deriving DecidableEq, Repr

namespace State

/-- The home of an atomic on a memory line (R217). -/
def memHome (s : State) (pa : Nat) (sc : Scope) : Home :=
  match sc with
  | .co => .l1 s.myCore
  | .ti => .l2 s.myTid
  | _ => if hostLine (pa / 64) then .l2 s.myTid else .quarry

/-- The checks of an atomic of n bytes, and its home (R184, R217, R221, R419, R457). -/
def atomSite (s : State) (k : AccKind) (ea : Word) (n : Nat) (sc : Scope) : M (Site × State) := do
  let k := if Bits ea 60 4 = 2 && k == .store then .rdwr else k
  let (l, s) ← s.resolve s.agent k ea n
  match l with
  | .sys _ | .peer _ _ => fail .badPath ea
  | .bank t o => do
    s.accGate (Bits ea 60 4 == 2) l n
    let s ← s.guardBytes s.agent t o n
    .ok ({ home := .ni t, addr := o, flt := s.winFault t o n }, (s.packetTo t).bankOn t o)
  | .mem pa =>
    if s.underFwin pa n then fail .fwinAtomic s.openWord
    else .ok ({ home := s.memHome pa sc, addr := pa, flt := none }, s)

/-- n bytes at a home; the context's own copies below the home go to it first (R218).  At mo and sy a host line is held
exclusive (R217): it is read in host memory. -/
def siteLoad (s : State) (p : Site) (sc : Scope) (n : Nat) : Nat × State :=
  let s := s.loaded
  match p.home with
  | .ni t => (s.bankLoad t p.addr n, s)
  | .l1 c => s.l1Load c p.addr n
  | .l2 t =>
    let s := s.recallAt (.l2 t) (p.addr / 64)
    if sc = .ti then
      let s := (s.freshen s.myCore (p.addr / 64)).noteSeen s.myCore (p.addr / 64) (maskAt (p.addr % 64) n)
      let s := s.l1Evict s.myCore (p.addr / 64)
      (s.l2Load t p.addr n, s.l2Packet t p.addr n)
    else
      let s := s.pushHome s.myCore (p.addr / 64)
      (s.rawLoad p.addr n, s)
  | .quarry =>
    let s := (s.pushHome s.myCore (p.addr / 64)).packet
    (s.rawLoad p.addr n, s)

/-- n bytes are written at a home. -/
def siteStore (s : State) (p : Site) (sc : Scope) (n v : Nat) : State :=
  match p.home with
  | .ni t => s.bankStore t p.addr n v
  | .l1 c => s.l1Write c p.addr n v
  | .l2 t =>
    if sc = .ti then
      s.l2Store t (some s.myCore) (p.addr / 64)
        (BitVec.ofNat 512 (v % 2 ^ (8 * n) * 2 ^ (8 * (p.addr % 64)))) (maskAt (p.addr % 64) n)
    else (s.noteWrite (.l2 t) (p.addr / 64)).rawStore p.addr n v
  | .quarry => s.rawStore p.addr n v

/-- One indivisible step at the home: the old value, and the new one if any (R218, R222). -/
def rmw (s : State) (p : Site) (sc : Scope) (n : Nat) (f : Nat → Option Nat) : Nat × State :=
  let (old, s) := s.siteLoad p sc n
  match f old with
  | some v => (old, s.siteStore p sc n v)
  | none => (old, s)

/-- The cache that gathers REDs for a home: the one directly below it (R225). -/
def holder (s : State) (h : Home) : Option Home :=
  match h with
  | .l2 _ => some (.l1 s.myCore)
  | .quarry => some (.l2 s.myTid)
  | _ => none

/-- RED at a home (R224, R225).  Below a tile L2 and a quarry it gathers: every access at the home recalls the partials, so
the value stands there from now on, and only a monitor can tell (log 10): partials of another OPC and size are combined
now, this one when its holder gives it up. -/
def redStore (s : State) (p : Site) (sc : Scope) (kind : Option (AmoOp × Nat)) (n : Nat) (f : Nat → Nat) : State :=
  match s.holder p.home with
  | none => (s.rmw p sc n fun o => some (f o)).2
  | some h =>
    let here (m : Mon) : Bool := m.line == p.addr / 64 && m.home == p.home
    let same (q : Partial) : Bool := q.kind == kind
    let others (m : Mon) : Mon := { m with part := m.part.filter fun q => !(here m && same q) }
    let (old, t) := State.siteLoad { s with mons := s.mons.map others } p sc n
    let u := State.siteStore { t with mons := t.mons.filter fun m => !here m } p sc n (f old)
    let q : Partial := { holder := h, kind := kind }
    let keeps (a m : Mon) : Mon := { m with part := q :: a.part.filter same }
    { u with mons := u.mons ++ List.zipWith keeps (s.mons.filter here) (t.mons.filter here) }

/-- Results of an atomic: with a late fault the destination stays unwritten (R82, R221). -/
def watoms (s : State) (ws : List RegWrite) (f : Option Flt) : State :=
  match f, ws with
  | none, _ => ws.foldl (fun s w => s.watom w) s
  | some f, w :: _ => s.watom w (some f)
  | some _, [] => s

/-- The effective address of an atomic (R220). -/
def cellEa (s : State) (m : CellOp) : Word := s.rx m.base 0 + Wi m.disp.toInt

/-- An atomic with results (R221): `res` gives the register writes from the old value. -/
def atomic (s : State) (k : AccKind) (m : CellOp) (n : Nat) (sc : Scope) (ord : MemOrd) (f : Nat → Option Nat)
    (res : Nat → List RegWrite) : M State := do
  s.ordGate ord
  let (p, t) ← s.atomSite k (s.cellEa m) n sc
  let t := t.orderFirst ord sc
  match p.flt with
  | some g => .ok (t.watoms (res 0) (some g))
  | none =>
    let (old, t) := t.rmw p sc n f
    .ok (t.watoms (res old) none)

/-- An atomic without a result, whose status its home owes (R221): `act` is what it does at its home. -/
def reduction (s : State) (m : CellOp) (n : Nat) (sc : Scope) (rel : Bool) (act : State → Site → State) : M State := do
  let ord : MemOrd := if rel then .rel else .plain
  s.ordGate ord
  let (p, t) ← s.atomSite .store (s.cellEa m) n sc
  let t := t.orderFirst ord sc
  match p.flt with
  | some g => .ok (t.owe (some g))
  | none => .ok ((act t p).owe none)

/-- An entry that reads contributions: malformed or scaled ones are refused (R227). -/
def cellEntry (s : State) (k : Nat) : M Fmt := do
  let f ← s.useEntry k
  if f.blk ≠ 0 then refuseEntry k else .ok f

/-- A contribution from a register (R227). -/
def contribution (s : State) (src : CellSrc) (v : Word) : M Num :=
  match src with
  | .xi => .ok (.fin (Dy.ofInt v.toInt))
  | .ent k => do
    let f ← s.cellEntry k.val
    .ok (f.decode (v.toNat % 2 ^ f.cbits))

end State

/-- AMO (R222). -/
def execAmo (d x : XReg) (m : CellOp) (op : AmoOp) (sz : Fin 4) (sc : Scope) (ord : MemOrd) (s : State) : Out :=
  let n := 2 ^ sz.val
  let v := (s.rx x 1).toNat
  s.run (s.atomic .rdwr m n sc ord (fun o => some (amoApply op (8 * n) o v)) fun o => [.x d (W o)])

/-- CAS (R222). -/
def execCas (d x : XReg) (m : CellOp) (sz : Fin 5) (sc : Scope) (ord : MemOrd) (s : State) : Out :=
  let n := 2 ^ sz.val
  let e := if n = 16 then s.pairX d 2 else (s.rx d 2).toNat % 2 ^ (8 * n)
  let w := if n = 16 then s.pairX x 4 else (s.rx x 4).toNat % 2 ^ (8 * n)
  s.run (s.atomic .rdwr m n sc ord (fun o => if o = e then some w else none) fun o =>
    if n = 16 then [.x d (W o), .x (xnext d) (W (o / 2 ^ 64))] else [.x d (W o)])

/-- ADDB (R223). -/
def execAddb (d x : XReg) (m : CellOp) (wide : Bool) (sc : Scope) (ord : MemOrd) (s : State) : Out :=
  let n := if wide then 8 else 4
  let amt := (s.rx x 2).toNat % 2 ^ (8 * n)
  let lim := (s.rx (xnext x) 3).toNat % 2 ^ (8 * n)
  let g (o : Nat) : Nat := if lim ≤ o then 0 else Nat.min amt (lim - o)
  s.run (s.atomic .rdwr m n sc ord (fun o => some (o + g o)) fun o => [.x d (W o), .x (xnext d) (W (g o))])

/-- RED (R224, R225). -/
def execRed (x : XReg) (m : CellOp) (src : RedSrc) (sc : Scope) (rel : Bool) (s : State) : Out :=
  let v := s.rx x 1
  s.run (match src with
    | .int op sz => 
      let n := 2 ^ sz.val
      s.reduction m n sc rel fun t p => t.redStore p sc (some (op, n)) n fun o => amoApply op (8 * n) o v.toNat
    | .cell k => do
      let c ← s.contribution (.ent k) v
      s.reduction m 64 sc rel fun t p => t.redStore p sc none 64 fun o => cellAdd o c)

/-- FACC (R227, R229): the entry is checked before the address (log 76). -/
def execFacc (x : XReg) (m : CellOp) (src : CellSrc) (sc : Scope) (rel : Bool) (s : State) : Out :=
  s.run (do
    let c ← s.contribution src (s.rx x 1)
    s.reduction m 64 sc rel fun t p => (t.rmw p sc 64 fun o => some (cellAdd o c)).2)

/-- FACCRD (R228, R229): the entry is checked before the address (log 76). -/
def execFaccrd (d : XReg) (m : CellOp) (ent : FReg) (clr : Bool) (sc : Scope) (acq : Bool) (s : State) : Out :=
  s.run (do
    let f ← s.cellEntry ent.val
    let rm ← s.drmOf f 61
    let u := s.draw rm 0
    let t ← s.atomic .rdwr m 64 sc (if acq then .acq else .plain) (fun _ => if clr then some 0 else none)
      fun o => [.x d (W (cellRead o f rm u))]
    .ok (t.advanceRm rm 1))

/-- FACCZ (R229): it needs write permission (R221). -/
def execFaccz (d : XReg) (m : CellOp) (sc : Scope) (ord : MemOrd) (s : State) : Out :=
  s.run (s.atomic .store m 64 sc ord (fun _ => some 0) fun o => [.x d (W (cellFlags o))])

namespace State

/-- Is a monitor entry free at the home (R230)? -/
def monFree (s : State) (p : Site) : Bool :=
  let same (m : Mon) : Bool := m.home == p.home && (p.home != .quarry || quarryOf (64 * m.line) == quarryOf p.addr)
  decide ((s.mons.filter same).length < (match p.home with | .l1 _ => 11 | .quarry => 4096 | _ => 88))

/-- The context's monitor is disarmed (R230). -/
def disarm (s : State) (id : Nat) : State := { s with mons := s.mons.filter fun m => m.id != id }

end State

/-- MWAIT (R77, R230, R231): the result of one that parked is visible to the next instruction. -/
def execMwait (d : XReg) (m : CellOp) (wide : Bool) (sc : Scope) (acq : Bool) (s : State) : Out :=
  let n := if wide then 8 else 4
  s.run (do
    let (p, t) ← s.atomSite .load (s.cellEa m) n sc
    let t := if acq then t.acquire t.myCore sc else t
    let t := t.disarm s.cur.id
    let (v, t) := t.siteLoad p sc n
    let w : List RegWrite := [.x d (W v)]
    if p.flt.isSome || s.me.answer != .none || v ≠ (s.rx d 2).toNat % 2 ^ (8 * n) || !t.monFree p then
      .ok (if s.me.answer != .none && p.flt.isNone then t.wx d (W v) else t.watoms w p.flt)
    else
      let q : Mon := { id := s.cur.id, home := p.home, line := p.addr / 64, hit := false }
      .error (.wait .mwait { t with mons := t.mons ++ [q] }))

/-- MWAIT_WAKE (R230): the context u, whose monitored line was written, reads it again. -/
def execMwaitWake (s : State) : Out :=
  let id := s.cur.u
  .next (
    if s.mons.any (fun m => m.id == id && m.hit) && (s.ctx id).wait == .mwait then
      (s.disarm id).answer id (.val 0)
    else s)

/-- HOME_STATUS_ARRIVAL (R212, R221): status v of context u arrives from its home. -/
def execHomeStatusArrival (s : State) : Out :=
  let id := s.cur.u
  .next (match (s.ctx id).status[s.cur.v]? with
    | none => s
    | some e => s.modCtx id fun c =>
      { c with status := dropNth c.status s.cur.v,
               late := match e.flt with
                 | some f => some (c.late.getD { flt := f, pc := e.pc, home := true })
                 | none => c.late })

namespace State

/-- A long-latency result returns into the saved image at an address (R81): one that completes a wait at a switch point
makes the image READY (R440). -/
def arriveSaved (s : State) (pa n : Nat) : State :=
  match find pa s.saved with
  | some { parts := [.ctx id c], .. } =>
    match c.pend[n]? with
    | some e =>
      if e.due.isSome || e.grp ≠ 0 then s
      else
        let c := match e.wr with
          | .p _ _ => c.setImageWord 80 (W (s.rawLoad (pa + 640) 8))
          | _ => c
        let (c, s) := s.arriveAt (idTid id) c n
        let c := if c.wait == .switch && !c.owes then { c with st := .ready, wait := .none } else c
        s.setSaved pa id c ([0, 2, 3, 4, 5, 112] ++ if e.flt.isNone && !e.dead then e.wr.words else [])
    | none => s
  | _ => s

end State

/-- REGISTER_RESULT_WRITE (R79, R80, R82): long-latency result v of context u returns; from 2^16 on, result v - 2^16 of
the context whose image was saved at u (R81). -/
def execRegisterResultWrite (s : State) : Out :=
  let id := s.cur.u
  .next (
    if 2 ^ 16 ≤ s.cur.v then s.arriveSaved s.cur.u (s.cur.v - 2 ^ 16)
    else match (s.ctx id).pend[s.cur.v]? with
      | some e =>
        if e.due.isSome then s
        else
          let (c, s) := s.arriveAt (idTid id) (s.ctx id) s.cur.v
          s.setCtx id c
      | none => s)

end Sys2Proof.Machine
end

