-- ==== Sys2Proof/Machine/Futures.lean ====
section
/-! DEFINITION. Meanings of the future instructions and of deliveries (R234-R245). -/

namespace Sys2Proof.Machine

namespace State

/-- The executing context as a resolver (R234). -/
def meResolver (s : State) : Resolver :=
  { tid := s.myTid, core := idCore s.cur.id, ctx := idCtx s.cur.id, kind := 0, asid := s.myAsid }

/-- The checks of a future address (R242), and its physical address. -/
def futSite (s : State) (a : Agent) (k : AccKind) (ea : Word) : M (Nat × State) :=
  if ea.toNat % 32 ≠ 0 then fail .misaligned ea
  else if s.atPeer a k ea then fail .badPath ea
  else if Bits ea 60 4 ≠ 0 then fail .futureAddr ea
  else do
    let (l, s) ← s.resolve a k ea 32
    match l with
    | .mem pa => if s.underFwin pa 32 then fail .fwinAtomic ea else .ok (pa, s.packet)
    | _ => fail .futureAddr ea

/-- A 64-byte or 16-byte operand of FWAIT on path 0, with write permission (R244). -/
def nodeSite (s : State) (ea : Word) (n : Nat) : M (Nat × State) := do
  let (l, s) ← s.resolve s.agent .store ea n
  match l with
  | .mem pa => .ok (pa, s)
  | _ => fail .futureAddr ea

/-- One step of FSET at the home: the late fault, or the old word 0 (R243). -/
def fset (s : State) (d : XReg) (m : CellOp) (f : Nat → State → Nat → State × Option Flt) : Out :=
  let ea := s.cellEa m
  s.run (do
    s.relGate
    let (pa, t) ← s.futSite s.agent .store ea
    let t := (t.release t.myCore .mo).pushHome t.myCore (pa / 64)
    let w := t.rawLoad pa 8
    let (t, g) := f pa t w
    .ok (t.watom (.x d (W w)) g))

/-- A resolution by the executing context (R236, R243). -/
def fsetResolve (s : State) (ea : Word) (ok : Bool) (v : Word) (pa : Nat) (t : State) (w : Nat) : State × Option Flt :=
  if futOwn w ≠ 0 then (t, some { code := .futureOwned, info := s.openWord })
  else
    let (fine, t) := t.resolveFut pa ok v s.meResolver s.me.colour
    (t, if fine then none else some { code := .doubleResolve, info := ea })

end State

/-- FSET .res (R235, R236, R243). -/
def execFsetRes (d v : XReg) (m : CellOp) (s : State) : Out := s.fset d m (s.fsetResolve (s.cellEa m) true (s.rx v 1))

/-- FSET .arm (R235, R243). -/
def execFsetArm (d : XReg) (m : CellOp) (s : State) : Out := s.fset d m fun pa t _ => (t.armFut pa, none)

/-- FSET .flt (R235, R236, R243). -/
def execFsetFlt (d v : XReg) (m : CellOp) (s : State) : Out := s.fset d m (s.fsetResolve (s.cellEa m) false (s.rx v 1))

/-- FSET .rst (R235, R236, R243). -/
def execFsetRst (d : XReg) (m : CellOp) (s : State) : Out :=
  s.fset d m fun pa t w =>
    if futOwn w ≠ 0 then (t, some { code := .futureOwned, info := s.openWord })
    else if futSt w < 2 then (t, none)
    else
      let t := t.rawStore pa 8 (futWord 0 (futWcnt w) (futGen w + 1) (futOwn w))
      (t.rawStore (pa + 8) 24 0, none)

/-- FWAIT (R244). -/
def execFwait (d r : XReg) (m : CellOp) (s : State) : Out :=
  let rec0 := s.rx r 1
  let node := s.rx d 2
  s.run (do
    s.relGate
    let (pa, t) ← s.futSite s.agent .store (s.cellEa m)
    failIf (Bits rec0 3 3 != 0 || decide (5 < Bits rec0 0 3) || Bits rec0 60 4 != 0) .futureAddr rec0
    failIf (Bits node 60 4 != 0 || Bits node 0 4 != 0) .futureAddr node
    let (rpa, t) ← t.nodeSite (W (rec0.toNat / 64 * 64)) 64
    let (npa, t) ← t.nodeSite node 16
    let t := (t.release t.myCore .mo).pushHome t.myCore (pa / 64)
    let w := t.rawLoad pa 8
    let word0 := rpa + Bits rec0 0 3
    let t :=
      if 2 ≤ futSt w then t.deliver pa word0 (W (t.rawLoad (pa + 8) 8)) s.myAsid s.me.colour
      else if futWcnt w = 16383 then t
      else t.listNode pa npa word0 s.myAsid
    .ok (t.watom (.x d (W w))))

/-- FPOLL (R245). -/
def execFpoll (d : XReg) (m : CellOp) (acq : Bool) (s : State) : Out :=
  s.run (do
    let (pa, t) ← s.futSite s.agent .load (s.cellEa m)
    let t := if acq then t.acquire t.myCore .mo else t
    let t := t.pushHome t.myCore (pa / 64)
    .ok (t.watoms [.x d (W (t.rawLoad pa 8)), .x (xnext d) (W (t.rawLoad (pa + 8) 8))] none))

namespace State

/-- The kind of the message that a record makes: a restart record of the pager names its slot (R437). -/
def recordKind (s : State) (pa : Nat) (w1 : Word) : MsgKind :=
  let tid := hdrTid w1
  match (List.range (s.pagerSlots tid)).find? (fun i => s.pagerSlot tid i + 0x40 == pa &&
      (s.tile tid).pgused.any fun e => e.1 == i) with
  | some i => .pager tid i
  | none => .task

/-- A delivery performs at the home of its record (R239, R258, R273). -/
def performDelivery (s : State) (d : Delivery) : State :=
  let w1 := W (s.rawLoad (d.home + 8) 8)
  let join := Bits w1 48 16
  if join = 0 then
    s.sendFault (chipOf (hdrTid w1)) { code := .joinUnderflow, info := W d.home }
      { src := 2, tid := attach (quarryOf d.home), asid := d.asid } false false 0 0 0
  else
    let s := s.rawStore (d.home + 16 + 8 * d.k) 8 d.value.toNat
    let s := s.rawStore (d.home + 8) 8 (w1.toNat - 2 ^ 48)
    if join = 1 then
      let ws := words8 (s.rawLoad d.home 64)
      let h := W (Bits w1 0 48)
      s.unitSend { w := ws.set 1 h, asid := d.asid, nfm := s.profNfm d.asid, sender := attach (quarryOf d.home),
                   colour := d.colour, kind := s.recordKind d.home h } (quarryOf d.home)
    else s

end State

/-- CONTINUATION_DELIVERY (R239): delivery u of those on their way. -/
def execContinuationDelivery (s : State) : Out :=
  .next (match s.delivs[s.cur.u]? with
    | none => s
    | some d =>
      let s := ({ s with delivs := dropNth s.delivs s.cur.u }.workFor 0 d.colour).uninject d.sender d.colour
      (s.dlv (attach (quarryOf d.home)) d.colour).performDelivery d)

end Sys2Proof.Machine
end

