-- ==== Sys2Proof/Machine/Barriers.lean ====
section
/-! DEFINITION. Barrier records: meanings of their instructions, releases and child arrivals (R246-R255). -/

namespace Sys2Proof.Machine

/-- MEMB bit of a context (R247). -/
def barBit (id : Nat) : Nat := 11 * idCore id + idCtx id

/-- Order scope of a record (R249). -/
def Bar.scope (b : Bar) : Scope := if !b.pv && b.chn == 0 then .ti else .mo

/-- Two values combine by an OPC (R220, R227). -/
def combineVal (opc : Nat) (a b : Nat) : Nat := if opc = 9 then cellMerge a b else amoApply (amoOf opc) 64 a b

/-- A value arrives at a record: one into a record whose VOP is 0 sets it (R248). -/
def Bar.addVal (b : Bar) (opc v : Nat) : Bar :=
  if opc = 0 then b
  else
    let old := if b.vop = 0 then amoIdentity opc 64 else b.value.toNat
    { b with vop := opc, value := BitVec.ofNat 512 (combineVal opc old v) }

namespace State

def bar (s : State) (tid i : Nat) : Bar := (s.tile tid).bar i
def setBar (s : State) (tid i : Nat) (b : Bar) : State := s.modTile tid fun t => { t with bars := put i b t.bars }

/-- What a member receives: its new phase, the combined value, or the readout of a cell; and SRCTR's advance (R253). -/
def barResult (b : Bar) (opc : Nat) (value : Nat) (bit : Nat) (c : Ctx) : Word × Ctx :=
  match find bit b.outs with
  | none => (W (b2n !b.phase), c)
  | some (e, rm) =>
    if rm = 8 then (W value, c)
    else
      let u := if rm = 5 then icg c.srkey.toNat c.srctr.toNat 0 else 0
      let v := cellRead (if opc = 9 then value else 0) (fmtOf false e) rm u
      (W v, if rm = 5 then { c with srctr := c.srctr + 1 } else c)

/-- Does a context wait for the release of a record (R253)? -/
def waitsBar (i : Nat) (b : Bar) (c : Ctx) : Bool := c.wait == .barrier i && c.answer == .none && c.asid == b.asid

/-- A member whose image was saved gets its result there: the image becomes READY (R250, R440). -/
def releaseImage (s : State) (pa id : Nat) (b : Bar) (opc value bit : Nat) (c : Ctx) : State :=
  let (w, c) := barResult b opc value bit c
  s.setSaved pa id { c with st := .ready, answer := .val w } [0, 6, 98, 99]

/-- A member gets its result: in its context if it waits there, otherwise in its saved image (R27, R249, R250). -/
def releaseMember (s : State) (tid i : Nat) (b : Bar) (opc value bit : Nat) : State :=
  let id := ident tid (bit / 11) (bit % 11)
  let c := s.ctx id
  if waitsBar i b c then
    let (w, c) := barResult b opc value bit c
    (s.setCtx id { c with st := if c.st = .parked then .ready else c.st, answer := .val w }).acquire (coreOf id) b.scope
  else match s.savedAt id (waitsBar i b) with
    | none => s
    | some (pa, c) => s.releaseImage pa id b opc value bit c

/-- Numbers of the members of a record. -/
def barMembers (b : Bar) : List Nat := (List.range 88).filter fun k => b.memb.getLsbD k

/-- A record after its release (R248). -/
def barAfter (b : Bar) : Bar :=
  { b with phase := !b.phase, arr := 0, cha := 0, wt := false, value := 0, vop := 0, outs := [], fire := false }

/-- A record releases with a result (R248). -/
def releaseBar (s : State) (tid i opc value : Nat) : State :=
  let b := s.bar tid i
  let s := s.setBar tid i (barAfter b)
  (barMembers b).foldl (fun s k => s.releaseMember tid i b opc value k) s

/-- Does a record complete its phase now (R248)? -/
def barComplete (b : Bar) : Bool := b.use && !b.wt && !b.fire && b.arr == b.memb && b.cha == b.chn

/-- A record completes if its arrivals are all there (R248). -/
def checkBar (s : State) (tid i : Nat) : State :=
  let b := s.bar tid i
  if !barComplete b then s
  else if b.pv then
    let k : KidArrival := { ptid := b.ptid, pidx := b.pidx, asid := b.asid, vop := b.vop, value := b.value,
                            colour := s.cur.colour, sender := tid }
    let s := (s.setBar tid i { b with wt := true }).inject tid k.colour
    { s with kids := s.kids ++ [k] }
  else if b.chn = 0 then s.releaseBar tid i b.vop b.value.toNat
  else
    let k : TreeRelease := { tid := tid, idx := i, value := b.value, vop := b.vop, due := s.fab + 3000,
                              colour := s.cur.colour }
    let s := (s.setBar tid i { b with fire := true }).inject tid k.colour
    { s with trees := s.trees ++ [k] }

/-- A record is named by an instruction of its owner or the tile's privileged context (R246). -/
def barOwner (s : State) (i : Nat) : M Unit := failIf (i / 2048 != idCore s.cur.id && !s.priv) .barOwner s.openWord

/-- The record that BARR, BARV and BTEST name (R251, R253). -/
def barUsed (s : State) (i : Nat) : M Bar :=
  let b := s.bar s.myTid i
  if !b.use then fail .barState (W i) else if b.asid ≠ s.myAsid then fail .barAsid (W i) else .ok b

/-- Records of the tile in use that meet p. -/
def countBars (s : State) (p : Bar → Bool) : Nat := ((s.tile s.myTid).bars.filter fun e => e.2.use && p e.2).length

/-- The parent that a BINIT names, if it can be one (R252). -/
def barParent (s : State) (w : Word) : Option Bar :=
  let tid := Bits w 0 13
  let p := s.bar tid (Bits w 13 14)
  if s.live tid && p.use && p.asid == s.myAsid then some p else none

/-- Status of BINIT and the record that it makes (R252); a record in use answers BUSY, whatever its ASID (log 80). -/
def binit (s : State) (i : Nat) (v : Bool) (chn : Nat) (lo hi par : Word) : Nat × Option Bar :=
  let b := s.bar s.myTid i
  let memb : BitVec 88 := BitVec.ofNat 88 (lo.toNat + hi.toNat * 2 ^ 64)
  let pv := Bit par 27
  if b.use then (1, none)
  else if (List.range 8).any (fun c => memb.getLsbD (11 * c)) || Bits hi 24 40 ≠ 0 || Bits par 28 36 ≠ 0 ||
      (memb = 0 && chn = 0) then (3, none)
  else if (pv && 256 ≤ s.countBars (·.pv)) || (v && 128 ≤ s.countBars (·.vb)) then (2, none)
  else if pv && (s.barParent par).isNone then (4, none)
  else
    let root := match pv, s.barParent par with
      | true, some p => p.root
      | _, _ => (s.myTid, i)
    (0, some { memb := memb, use := true, chn := chn, ptid := Bits par 0 13, pidx := Bits par 13 14, pv := pv,
               asid := s.myAsid, vb := v, root := root })

/-- The checks that BARR and BARV share (R253): the record. -/
def barEnter (s : State) (i : Nat) : M Bar := do
  let b ← s.barUsed i
  failIf s.me.gang.isNone .barOutsideGang (W i)
  failIf (!b.memb.getLsbD (barBit s.cur.id)) .barNotMember (W i)
  .ok b

/-- An arrival is made after its release, which earlier statuses hold (R212), and the context waits for the record's release
(R249, R250, R253); `f` adds what it brings. -/
def barArrive (s : State) (i : Nat) (b : Bar) (f : Bar → Bar) : M State := do
  s.relGate
  let s := s.release s.myCore b.scope
  let b := f { b with arr := b.arr ||| BitVec.ofNat 88 (2 ^ barBit s.cur.id) }
  let s := s.setBar s.myTid i b
  -- the context waits before the record is examined, so that a release finds it
  let s := s.park (.barrier i)
  let s := s.checkBar s.myTid i
  .ok s

/-- A barrier ends with its answer, or arrives. -/
def barWait (s : State) (d : XReg) (start : M State) : Act :=
  match s.me.answer with
  | .val w => .ok (.done (s.wx d w))
  | .flt f => .error (.flt f)
  | .none => do
    let t ← start
    .ok (.keep t)

end State

/-- BINIT (R246, R247, R252). -/
def execBinit (d a : XReg) (v : Bool) (chn : BitVec 8) (idx : BitVec 14) (s : State) : Out :=
  let i := idx.toNat
  s.run (do
    s.barOwner i
    let (st, b) := s.binit i v chn.toNat (s.rx a 0) (s.rx (xnext a) 1) (s.rx (xnext (xnext a)) 2)
    let s := match b with
      | some b => s.setBar s.myTid i b
      | none => s
    .ok (s.wlong (.x d (W st))))

/-- BARR (R249, R250, R253). -/
def execBarr (d : XReg) (idx : BitVec 14) (s : State) : Out :=
  let i := idx.toNat
  s.finish (s.barWait d (do
    let b ← s.barEnter i
    s.barArrive i b id))

/-- BARV (R249, R250, R253). -/
def execBarv (d a : XReg) (src : BarvSrc) (idx : BitVec 14) (s : State) : Out :=
  let i := idx.toNat
  let opc := match src with
    | .int op => amoCode op
    | .cell _ _ => 9
  let bit := barBit s.cur.id
  s.finish (s.barWait d (do
    let b ← s.barEnter i
    failIf (!b.vb) .barNoval (W i)
    failIf (b.vop ≠ 0 && b.vop ≠ opc) .barMismatch (W i)
    match src with
    | .int _ =>
      s.barArrive i b fun b => { b.addVal opc (s.rx a 0).toNat with outs := put bit (0, 8) b.outs }
    | .cell xi k => do
      let f ← s.cellEntry k.val
      let rm ← s.drmOf f 14
      let c ← s.contribution (if xi then .xi else .ent k) (s.rx a 0)
      s.barArrive i b fun b =>
        { b.addVal 9 (cellAdd 0 c) with outs := put bit (resolveEntry s.src.nfm (s.ftAt k.val), rm) b.outs }))

/-- WT as BTEST reads it: in the window between the root's completion and the release it may read 0 (R254, R466 A0-001). -/
def State.testWt (s : State) (b : Bar) : Bool × State :=
  if b.wt && s.trees.any fun r => (r.tid, r.idx) == b.root then (Config.pickNew s.seq 0, { s with seq := s.seq + 1 })
  else (b.wt, s)

/-- BTEST (R254, R466). -/
def execBtest (d : XReg) (idx : BitVec 14) (s : State) : Out :=
  s.run (do
    let b ← s.barUsed idx.toNat
    let miss := (b.memb &&& ~~~b.arr).toNat
    let (wt, s) := s.testWt b
    let s := s.wlong (.x d (W miss))
    .ok (s.wlong (.x (xnext d) (W (miss / 2 ^ 64 + (b.chn - b.cha) * 2 ^ 24 + b2n b.phase * 2 ^ 32 + b2n wt * 2 ^ 33)))))

/-- BFREE (R255). -/
def execBfree (d : XReg) (idx : BitVec 14) (s : State) : Out :=
  let i := idx.toNat
  s.run (do
    s.barOwner i
    let b := s.bar s.myTid i
    failIf (b.use && b.asid != s.myAsid) .barAsid (W i)
    let busy := b.arr ≠ 0 || b.cha ≠ 0 || b.wt || b.fire
    let st := if busy then 1 else if !b.use then 5 else 0
    let s := if st = 0 then s.modTile s.myTid fun t => { t with bars := del i t.bars } else s
    .ok (s.wlong (.x d (W st))))

namespace State

/-- A child's arrival reaches its parent, or is discarded (R248): at a record that meanwhile serves another address space it
has no effect there (R10; log 80). -/
def childArrival (s : State) (k : KidArrival) : State :=
  let p := s.bar k.ptid k.pidx
  if !p.use || p.asid ≠ k.asid || p.chn ≤ p.cha || (k.vop ≠ 0 && !p.vb) || (k.vop ≠ 0 && p.vop ≠ 0 && p.vop ≠ k.vop) then
    s.sendFault (chipOf k.ptid) { code := .barTree, info := W (k.ptid + k.pidx * 2 ^ 13) }
      { src := 5, tid := k.ptid, asid := k.asid } false false 0 0 0
  else
    (s.setBar k.ptid k.pidx { p.addVal k.vop k.value.toNat with cha := p.cha + 1 }).checkBar k.ptid k.pidx

/-- Is a record the root of a tag, or does its waiting entry hold the tag (R247, R248)? -/
def inTree (tag : Nat × Nat) (tid i : Nat) (b : Bar) : Bool :=
  b.use && b.root == tag && (b.pv || tag == (tid, i))

/-- A record of a saved unit releases: its members' images take their results (R250). -/
def releaseSavedBar (s : State) (area : Nat) (u : SavedUnit) (tid i : Nat) (b : Bar) (opc value : Nat) : State :=
  (barMembers b).foldl (fun s k =>
    let id := ident tid (k / 11) (k % 11)
    match find id u.ctxs with
    | none => s
    | some off => match find (area + off) s.saved with
      | some { parts := [.ctx _ c], .. } => if waitsBar i b c then s.releaseImage (area + off) id b opc value k c else s
      | _ => s) s

/-- The records of saved units that a broadcast releases (R248, R250). -/
def releaseSaved (s : State) (tag : Nat × Nat) (opc value : Nat) : State :=
  s.saved.foldl (fun (s : State) (e : Nat × SavedUnit) =>
    let u := e.2
    let s := u.parts.foldl (fun s p => match p with
      | .bars tid l => l.foldl (fun s b =>
          if inTree tag tid b.1 b.2 then s.releaseSavedBar e.1 u tid b.1 b.2 opc value else s) s
      | _ => s) s
    let parts : List SavedPart := u.parts.map fun p => match p with
      | .bars tid l => .bars tid (l.map fun (b : Nat × Bar) => if inTree tag tid b.1 b.2 then (b.1, barAfter b.2) else b)
      | p => p
    if parts = u.parts then s else { s with saved := put e.1 { u with parts := parts } s.saved }) s

/-- A root's broadcast releases every record whose waiting entry holds the root's tag, and the root (R248, R250). -/
def treeRelease (s : State) (r : TreeRelease) : State :=
  let tag := (r.tid, r.idx)
  (s.tiles.foldl (fun s t => t.2.bars.foldl (fun s e =>
    if inTree tag t.1 e.1 e.2 then s.releaseBar t.1 e.1 r.vop r.value.toNat else s) s) s).releaseSaved tag r.vop r.value.toNat

end State

/-- BARRIER_CHILD_ARRIVAL (R248): arrival u of those on their way. -/
def execBarrierChildArrival (s : State) : Out :=
  .next (match s.kids[s.cur.u]? with
    | none => s
    | some k =>
      let s := ({ s with kids := dropNth s.kids s.cur.u }.workFor 0 k.colour).uninject k.sender k.colour
      (s.dlv k.ptid k.colour).childArrival k)

/-- BARRIER_TREE_RELEASE (R248): release u, in its fabric cycle. -/
def execBarrierTreeRelease (s : State) : Out :=
  .next (match s.trees[s.cur.u]? with
    | none => s
    | some r => if s.fab < r.due then s else
      let s := ({ s with trees := dropNth s.trees s.cur.u }.workFor 0 r.colour).uninject r.tid r.colour
      (s.dlv r.tid r.colour).treeRelease r)

end Sys2Proof.Machine
end

