-- ==== Sys2Proof/Machine/Jobs.lean ====
section
/-! DEFINITION. Job tables (R281-R288, R301-R309): descriptors and their checks, admission, inputs, and completion. -/

namespace Sys2Proof.Machine

/-! ### Kinds and descriptors (R63, R283, R293) -/

/-- KIND (R63). -/
def kindNum : JobKind → Nat
  | .bload => 0 | .mma => 1 | .mmab => 2 | .attn => 3 | .epi => 4 | .spmm => 5 | .opmul => 6 | .opmrg => 7 | .grpmm => 8

/-- Does a tile accept the kind (R63)? -/
def kindOk (t : TileKind) (k : JobKind) : Bool :=
  match t, k with
  | .d, .bload | .d, .mma | .d, .mmab | .d, .epi | .d, .grpmm => true
  | .a, .bload | .a, .mma | .a, .mmab | .a, .attn | .a, .epi | .a, .grpmm => true
  | .s, .spmm | .s, .opmul | .s, .opmrg => true
  | _, _ => false

/-- Minimum class (R293, R323). -/
def kindClass : JobKind → Nat
  | .bload | .mma | .mmab | .grpmm => 2
  | .attn => 3
  | _ => 1

/-- Weight of a beat (R294). -/
def Job.weight (j : Job) : Nat := Nat.max j.cls (kindClass j.kind)

/-- Entry numbers of FA, FB, FP and FO that the kind names (R283, R298, R300, R319). -/
def entryNames (k : JobKind) (d : BitVec 512) : List (Option Nat) :=
  [match k with
    | .opmrg => none
    | _ => some (jFa d),
   match k with
    | .grpmm => some (jX d 8 5)
    | .spmm | .opmul => some (jX d 0 5)
    | _ => none,
   match k with
    | .attn => some (jX d 32 5)
    | _ => none,
   if kindOut k then some (jFo d) else none]

/-- k of the top-k epilogue, TKCLR and COL0 (R296, R299). -/
def jTk (k : JobKind) (d : BitVec 512) : Nat :=
  match k with
  | .mma | .mmab => jX d 0 4
  | .epi => jX d 3 4
  | _ => 0
def jTkClr (k : JobKind) (d : BitVec 512) : Bool :=
  match k with
  | .mma | .mmab => jX d 4 1 == 1
  | .epi => jX d 7 1 == 1
  | _ => false
def jCol0 (k : JobKind) (d : BitVec 512) : Nat :=
  match k with
  | .epi => jX d 8 16
  | _ => jX d 5 16

/-- Fields that the kind requires to be zero, beside those of every kind: (position, width) (R295-R300, R319). -/
def kindMbz : JobKind → List (Nat × Nat)
  | .bload => [(0, 6), (128, 64), (320, 9), (344, 5), (349, 3), (368, 16), (384, 40)]
  | .mma | .mmab => [(0, 6), (406, 18)]
  | .attn => [(0, 6), (337, 2), (423, 1)]
  | .epi => [(337, 2), (408, 16)]
  | .grpmm => [(0, 6), (320, 9), (337, 2), (397, 27)]
  | .spmm => [(337, 2), (352, 16), (390, 34)]
  | .opmul => [(128, 64), (320, 9), (329, 8), (337, 2), (344, 5), (349, 3), (352, 16), (368, 16), (416, 8)]
  | .opmrg => [(337, 2), (339, 5), (352, 16), (386, 38)]

/-- Position of the lowest set bit of a field of a descriptor. -/
def lowSet (d : BitVec 512) (lo n : Nat) : Option Nat := if jb d lo n = 0 then none else some (lo + ctzN n (jb d lo n))

/-- A failing condition at a position. -/
def posIf (b : Bool) (p : Nat) : Option Nat := if b then some p else none

/-- Lowest of some positions. -/
def lowestOf (l : List (Option Nat)) : Option Nat :=
  l.foldl (fun a b => match a, b with
    | some x, some y => some (Nat.min x y)
    | some x, none => some x
    | none, y => y) none

/-- Is the largest N below the kind's limit (R296, R298, R300)? -/
def nTooBig (k : JobKind) (d : BitVec 512) : Bool :=
  match k with
  | .mma | .mmab => decide (127 < jN d) && jBk d != 3
  | .bload | .attn | .grpmm => decide (127 < jN d)
  | _ => false

namespace State

/-- Breaches of R284 in input specifier i, for a job of an ASID on a tile. -/
def depBad (s : State) (tid : Nat) (asid : BitVec 10) (d : BitVec 512) (i : Nat) : Option Nat :=
  let lo := 424 + 20 * i
  let v := jDep d i
  match v / 2 ^ 18 with
  | 0 => lowSet d lo 18
  | 1 => lowSet d (lo + 16) 2
  | 2 =>
    let w := getD {} (s.tile tid).eng.wins (v % 32)
    lowestOf [lowSet d (lo + 5) 13, posIf (w.st == .free || w.asid != asid) lo]
  | _ =>
    let k := (s.tile tid).bank (v % 32)
    lowestOf [lowSet d (lo + 7) 11, posIf (v / 2 ^ 5 % 4 == 3) (lo + 5), posIf (k.mode != .ring || k.asid != asid) lo]

/-- Check 4 of R303: the lowest position that breaks a condition. -/
def descBad (s : State) (tid : Nat) (asid : BitVec 10) (k : JobKind) (d : BitVec 512) (foBytes : Nat) : Option Nat :=
  let tk := jTk k d
  lowestOf ([lowSet d 192 4, posIf (jCs d == 0) 196, lowSet d 256 5, lowSet d 504 8] ++
    (kindMbz k).map (fun f => lowSet d f.1 f.2) ++ (List.range 4).map (s.depBad tid asid d) ++
    [posIf (kindOut k && (jOrm d == 5 || jOrm d == 6)) 349, posIf (nTooBig k d) 329,
     posIf (k == .bload && decide (1 < jBk d)) 337,
     posIf (decide (8 < tk)) (if k == .epi then 387 else 384), posIf (k == .epi && decide (3 < jX d 0 3)) 384,
     if k == .opmrg && jX d 1 1 == 0 then lowSet d 64 64 else none,
     if kindOut k then lowSet d 128 (Nat.log2 foBytes) else none])

/-- Container bytes of entry n of the executing context, by its WIDTH (R151). -/
def entryBytes (s : State) (n : Nat) : Nat := containerBits (widthOf (s.ftAt n)) / 8

/-- The snapshot of entry n and its scale entry (R164). -/
def snapOf (s : State) (n : Nat) : Snap :=
  let e := s.ftAt n
  { e := resolveEntry s.src.nfm e, s := if eF e 41 2 = 0 then 0 else resolveEntry s.src.nfm (s.ftAt (eF e 43 5)) }

/-- Check 5 of R303 for one entry, which `ok` may refuse (R289, R296). -/
def snapEntry (s : State) (n : Option Nat) (ok : Fmt → Bool) : M Snap :=
  match n with
  | none => .ok {}
  | some n => do
    let f ← s.useEntry n
    if ok f then .ok (s.snapOf n) else refuseEntry n

/-- Check 5 of R303: the snapshots of FA, FB, FP and FO. -/
def snapJob (s : State) (k : JobKind) (d : BitVec 512) : M (List Snap) :=
  let n := entryNames k d
  let tkb : Bool := (k == .mma || k == .mmab) && jX d 21 1 == 1
  do
    let a ← s.snapEntry (n.getD 0 none) fun f =>
      decide (f.width ≤ 16) && (k != .bload || bEntryOk f) && !(tkb && f.blk != 0)
    let b ← s.snapEntry (n.getD 1 none) fun f => decide (f.width ≤ 16) && (k != .grpmm || bEntryOk f)
    let p ← s.snapEntry (n.getD 2 none) fun f => decide (f.width ≤ 16)
    let o ← s.snapEntry (n.getD 3 none) fun f => f.blk == 0 && decide (f.cbits ≤ 32)
    .ok [a, b, p, o]

/-- Check 6 of R303 for a record and a future (0 for none): the physical address of the future. -/
def recTargets (s : State) (tid : Nat) (asid : BitVec 10) (rec0 fut : Word) : M (Option Nat × State) := do
  let a := engAgent tid asid
  let (_, s) ← s.resolve a .store rec0 32
  if fut = 0 then .ok (none, s)
  else do
    let (pa, s) ← s.futSite a .store fut
    .ok (some pa, s)

/-- Check 6 of R303: REC and FUT of a job. -/
def jobTargets (s : State) (tid : Nat) (asid : BitVec 10) (d : BitVec 512) : M (Option Nat × State) :=
  s.recTargets tid asid (jRec d) (jFut d)

/-- ORM as resolved for the job (R303). -/
def resolveOrm (s : State) (k : JobKind) (d : BitVec 512) (ents : List Snap) : Nat :=
  if !kindOut k then 0
  else if jOrm d = 7 then
    let m := (fmtOf false (ents.getD 3 {}).e).drm
    if m = 7 then s.src.rm.toNat else m
  else jOrm d

end State

/-! ### Inputs (R284) -/

/-- Is the generation of a slot live (R282)? -/
def Tile.jobLive (t : Tile) (slot gen : Nat) : Bool := (t.slot slot).job.isSome && (t.slot slot).gen == gen

/-- The fault of a job's input that has none of its own to name; DETAIL is not stated (log 7). -/
def State.depFault (s : State) (c : Code) : Flt := { code := c, info := W (Config.freeNat s.seq % 2 ^ 32) }

/-- Whether input o of a job is ready, and how it failed. -/
def Tile.depState (t : Tile) (o : JobDep) (jobDep : Flt) : Bool × Option Flt :=
  let v := o.spec % 2 ^ 18
  match o.spec / 2 ^ 18 with
  | 0 => (true, none)
  | 1 =>
    let sl := v / 2 ^ 10 % 64
    let g := v % 2 ^ 10
    if t.jobLive sl g then (false, none)
    else (true, if (t.slot sl).mgen = g && g ≠ 0 && (t.slot sl).mst ≠ 0 then some jobDep else none)
  | 2 =>
    let w := getD {} t.eng.wins (v % 32)
    (!(w.st == .absent || w.st == .filling), none)
  | _ => (o.ready, o.fail)

namespace State

/-- A copy whose DEP is ready may start; one whose DEP failed does not (R284, R332). -/
def readyCopy (t : Tile) (bad : Flt) (y : Copy) : Copy :=
  if y.ready || y.fault.isSome then y
  else
    let o : JobDep := { spec := cpF y.desc 7 1 20, ready := false, slot := none, fail := none }
    match t.depState o bad with
    | (_, some f) => { y with fault := some f }
    | (b, none) => { y with ready := b }

/-- WAITING jobs whose inputs are ready become READY; one whose input failed is over (R281, R284). -/
def refreshJobs (s : State) (tid : Nat) : State :=
  s.modTile tid fun t =>
    let chans := t.eng.chans.map fun c => (c.1, { c.2 with queue := c.2.queue.map (readyCopy t (s.depFault .jobDep)) })
    { t with eng := { t.eng with chans := chans }, jobs := t.jobs.map fun e =>
      match e.2.job with
      | none => e
      | some j =>
        if j.st ≠ .waiting || j.ovr then e
        else
          let rs := j.deps.map fun o => t.depState o (s.depFault .jobDep)
          match rs.findSome? (·.2) with
          | some f => (e.1, { e.2 with job := some { j with ovr := true, stop := some f } })
          | none => if rs.all (·.1) then (e.1, { e.2 with job := some { j with st := .ready } }) else e }

/-! ### Admission (R281, R282, R303) -/

/-- The lowest FREE slot of a tile's job table (R281). -/
def freeJob (s : State) (tid : Nat) : Option Nat := (List.range 64).find? fun i => ((s.tile tid).slot i).job.isNone

/-- Input n of an admitted job is set going (R284). -/
def startDep (s : State) (tid slot : Nat) (r : RemoteJob) (n : Nat) : State :=
  let v := jDep r.desc n
  match v / 2 ^ 18 with
  | 2 => s.touchWin r.sub r.colour (idTid r.sub != tid) tid (v % 32)
  | 3 => if v / 2 ^ 5 % 4 = 2 then s.engineRing tid (v % 32) (.jclaim slot n) false
         else s.engineRing tid (v % 32) (.jtake slot n) true
  | _ => s

/-- Admission to a tile's table (R281, R282, R164): the job id, or 0 when no slot is FREE. -/
def admitJob (s : State) (r : RemoteJob) (asid : BitVec 10) (fut : Option Nat) (arc : Option JobArc) : Nat × State :=
  let s := s.kick r.tid 0 r.desc.toNat
  match s.freeJob r.tid with
  | none => (0, s)
  | some i =>
    let t := s.tile r.tid
    let k := t.slot i
    let gen := k.gen % 1023 + 1
    let deps := (List.range 4).map fun n =>
      let o : JobDep := { spec := jDep r.desc n, ready := false, slot := none, fail := none }
      o
    let j : Job :=
      { st := .waiting, kind := r.kind, desc := r.desc, asid := asid, cls := r.cls, colour := r.colour, sub := r.sub,
        ents := r.ents, orm := r.orm, seq := s.jseq, deps := deps,
        fut := fut, beats := 0, pos := 0,
        left := none, stop := none, ovr := false, arc := arc, acc := [] }
    let n := { s with jseq := s.jseq + 1 }.setTile r.tid
      { t with jobs := put i { k with gen := gen, job := some j, mkind := kindNum r.kind } t.jobs }
    let n := s.attachFloor n r.tid
    let n := n.sendArm fut
    let n := (List.range 4).foldl (fun n d => n.startDep r.tid i r d) n
    (gen + i * 2 ^ 10, n.refreshJobs r.tid)

/-! ### Completion (R286) -/

/-- The scope of a CS code. -/
def csScope (cs : Nat) : Scope := if cs = 1 then .ti else if cs = 2 then .mo else .sy

/-- STATUS of a job that is over (R286). -/
def jobStatus (j : Job) : Nat :=
  match j.stop with
  | none => 0
  | some f => if f.code == .jobCancelled then 2 else 1

/-- The fault word (R286), with CODE 0 for a job that is DONE. -/
def jobFaultWord (j : Job) (id : Nat) : Nat :=
  let (c, d) := match j.stop with
    | some f => (f.code.num, f.info.toNat % 2 ^ 32)
    | none => (0, 0)
  c + kindNum j.kind * 2 ^ 8 + id * 2 ^ 16 + d * 2 ^ 32

/-- Word 0 of the record. -/
def jobWord0 (j : Job) (id : Nat) : Nat :=
  let replay := match j.arc with
    | some a => a.decided && a.replay
    | none => false
  id + kindNum j.kind * 2 ^ 16 + jobStatus j * 2 ^ 22 + b2n replay * 2 ^ 24 + j.asid.toNat * 2 ^ 26

/-- Slots that ring inputs got are released or published; requests that wait leave the queue (R284, R306). -/
def endRings (s : State) (tid slot : Nat) (j : Job) : State :=
  (j.deps.zipIdx).foldl (fun s (o, n) =>
    if o.spec / 2 ^ 18 ≠ 3 then s
    else
      let b := o.spec % 32
      let claim := o.spec / 2 ^ 5 % 4 = 2
      match o.slot with
      | some i => s.modRing tid b fun r => if claim then r.publishSlot i (s.profNfm j.asid) tid false else r.releaseSlot i
      | none => s.modRing tid b fun r =>
          { r with claims := r.claims.filter (· != .jclaim slot n), takes := r.takes.filter (· != .jtake slot n) }) s

/-- The reuse entry of a tagged job when the job ends (R378, R379, R381). -/
def endArc (s : State) (tid : Nat) (j : Job) : State :=
  match j.arc with
  | none => s
  | some a =>
    let done := jobStatus j == 0
    s.modEng tid fun e =>
      let x := getD {} e.arcs a.ent
      let x := { x with busy := x.busy - 1 }
      let x :=
        if !a.decided && !(j.st == .running && jobStatus j == 2) then x
        else if !done then { x with valid := false }
        else if a.replay then { x with step := Bits (wordAt a.desc 0) 32 32 }
        else
          { x with valid := true, block := Bits (wordAt a.desc 0) 0 32, step := Bits (wordAt a.desc 0) 32 32,
                   shape := a.shape ++ [a.nb], snap := j.ents, names := a.names, ctx := a.ctx,
                   stale := x.stale && decide (j.seq < x.mark) }
      { e with arcs := put a.ent x e.arcs }

/-- The run with a tag at its lead is updated (R355). -/
def modRun (s : State) (lead tag : Nat) (f : Run → Run) : State :=
  s.modEng lead fun e => { e with leadq := e.leadq.map fun r => if r.tag = tag then f r else r }

/-- The end of a job of piece n, in its run (R362, R366). -/
def runJobDone (r : Run) (j : Job) (id n : Nat) : Run :=
  let ps := r.pieces.map fun l =>
    let p : Piece := l.getD n default
    setNth l n { p with done := true }
  let f := match r.fault with
    | some w => some w
    | none => if jobStatus j = 0 then none else some (jobFaultWord j id)
  { r with pieces := ps, eu := r.eu + j.beats * j.weight, fault := f }

/-- The run with a tag of a lead, in the parts of a saved unit (R366). -/
def modSavedRun (lead tag : Nat) (f : Run → Run) (u : SavedUnit) : SavedUnit :=
  { u with parts := u.parts.map fun p => match p with
      | .chain t sh l => if t = lead then .chain t sh (l.map fun r => if r.tag = tag then f r else r) else p
      | p => p }

/-- What the end of a job of the expert chain leaves at its run's lead, or in the saved run (R362, R366). -/
def chainJobDone (s : State) (j : Job) (id : Nat) : State :=
  match j.chain with
  | none => s
  | some (lead, tag, n) =>
    if (s.tile lead).eng.leadq.any fun r => r.tag == tag then s.modRun lead tag fun r => runJobDone r j id n
    else { s with saved := s.saved.map fun (e : Nat × SavedUnit) =>
             if e.2.asid = j.asid then (e.1, modSavedRun lead tag (fun r => runJobDone r j id n) e.2) else e }

/-- A job that is over completes: record, rings, mailbox, future, slot (R286).  A record on guarded bytes waits. -/
def completeJob (s : State) (tid slot : Nat) (j : Job) : State :=
  let gen := ((s.tile tid).slot slot).gen
  let id := gen + slot * 2 ^ 10
  let w := j.beats * j.weight
  let record := jobWord0 j id + (if jobStatus j = 0 then 0 else jobFaultWord j id) * 2 ^ 64 + w % 2 ^ 64 * 2 ^ 128 +
    j.beats % 2 ^ 64 * 2 ^ 192
  let finish (s : State) : State :=
    let s := (s.engRelease tid (csScope (jCs j.desc))).endRings tid slot j
    let s := s.modTile tid fun t =>
      let k := t.slot slot
      { t with jobs := put slot { k with mgen := gen, mst := jobStatus j, mcs := jCs j.desc, masid := j.asid } t.jobs }
    let s := match j.fut with
      | none => s
      | some pa =>
        let ok := jobStatus j == 0
        (s.engRelease tid .mo).unitResolve pa ok (W (if ok then jobWord0 j id else jobFaultWord j id))
          { tid := tid, core := 0, ctx := 15, kind := 1, asid := j.asid } j.colour (chipOf (idTid j.sub))
          { src := 1, tid := tid, asid := j.asid }
    let s := s.endArc tid j
    let s := s.modTile tid fun t => { t with jobs := put slot { t.slot slot with job := none } t.jobs }
    (((s.floorEnds tid).refreshJobs tid).sweepBanks).chainJobDone j id
  let lost (s : State) : State :=
    s.sendFault (chipOf (idTid j.sub)) { code := .jobRecord, info := W (jobFaultWord j id) }
      { src := 1, tid := tid, asid := j.asid } false false 0 (jRec j.desc) 0
  if j.chain.isSome then finish s
  else match s.store (engAgent tid j.asid) (jRec j.desc) 32 record with
  | .ok (none, s) => finish s
  | .ok (some _, s) => finish (lost s)
  | .error (.wait _ s) => s
  | .error _ => finish (lost s)

/-! ### Capabilities (R288) -/

/-- TAG of a capability. -/
def capTag (s : State) (cap : Word) : Nat :=
  icg (s.profField (BitVec.ofNat 10 (Bits cap 26 10)) 64 64) (Bits cap 0 40) 0 % 2 ^ 24

/-- RIGHTS bit of a kind, counted from bit 36. -/
def kindRight : JobKind → Nat
  | .bload => 0
  | .spmm | .opmul | .opmrg => 2
  | _ => 1

/-- Does the target accept a capability for a kind (R288)? -/
def capOk (s : State) (cap : Word) (tid : Nat) (k : JobKind) : Bool :=
  (tid ^^^ Bits cap 0 13) &&& ((2 ^ 13 - 1) ^^^ Bits cap 13 13) == 0 && Bit cap (36 + kindRight k) && !Bit cap 39 &&
    (s.profile (BitVec.ofNat 10 (Bits cap 26 10))).isSome && Bits cap 40 24 == s.capTag cap

end State
end Sys2Proof.Machine
end

