-- ==== Sys2Proof/Machine/Handles.lean ====
section
/-! DEFINITION. Tensor handles (R310-R318): layout, checks, lookup, and the meanings of HSET, HGET, HLD, HST, HNEXT. -/

namespace Sys2Proof.Machine

/-! ### Layout (R311) -/

/-- Field [lo+n-1:lo] of word w of a handle. -/
def hb (h : HWord) (w lo n : Nat) : Nat := h.toNat / 2 ^ (64 * w + lo) % 2 ^ n

def hHt (h : HWord) : Nat := hb h 0 0 4
def hL0 (h : HWord) : Nat := hb h 0 4 2
def hL1 (h : HWord) : Nat := hb h 0 6 2
def hFe (h : HWord) : Nat := hb h 0 8 5
def hNout (h : HWord) : Nat := hb h 0 32 16 + 1
def hNin (h : HWord) : Nat := hb h 0 48 16 + 1
def hNnz (h : HWord) : Nat := hb h 1 0 32
def hArr (h : HWord) (w : Nat) : Word := W (hb h w 0 64)

/-- Position of the lowest set bit among n bits at a position of a handle. -/
def hLow (h : HWord) (lo n : Nat) : Option Nat :=
  let v := h.toNat / 2 ^ lo % 2 ^ n
  if v = 0 then none else some (lo + ctzN n v)

/-- Arrays that the levels require: POS0, CRD0, POS1, CRD1 as words 2-5 (R311). -/
def hNeeds (h : HWord) : List (Nat × Bool) :=
  [(2, hL0 h == 1), (3, hL0 h == 1), (4, hL1 h == 1 || hL1 h == 2), (5, hL1 h != 0), (6, true)]

/-- Check k of R313, for values in containers of cb bytes: the position of its first breach. -/
def handleBreach (h : HWord) (cb : Nat) : Nat → Option Nat
  | 1 => lowestOf [posIf (decide (2 < hHt h)) 0, posIf (decide (1 < hL0 h)) 4, hLow h 13 19, hLow h 96 32]
  | 2 => posIf (hL1 h == 3 && hL0 h == 0) 6
  | 3 => lowestOf ((hNeeds h).map fun (w, need) => if need then posIf (hArr h w == 0) (64 * w) else hLow h (64 * w) 64)
  | 4 => lowestOf [hLow h 128 2, hLow h 256 2, hLow h 192 1, hLow h 320 (if hL1 h = 2 then 3 else 1),
                   hLow h 384 (Nat.log2 cb)]
  | 5 => lowestOf ([2, 3, 4, 5, 6].map fun w => posIf (decide (2 < Bits (hArr h w) 60 4)) (64 * w + 60))
  | 6 => posIf (hL0 h == 0 && hL1 h == 0 && hNnz h != hNout h * hNin h) 64
  | _ => none

/-- R313: the position of the first breach, checks in their order. -/
def handleBad (h : HWord) (cb : Nat) : Option Nat :=
  if hHt h = 0 then none else [1, 2, 3, 4, 5, 6].findSome? (handleBreach h cb)

/-! ### Lookup (R312) -/

/-- How the user of a handle reads n bytes. -/
abbrev Loader := State → Word → Nat → M (Nat × State)

/-- First t, of n from t0 on, with the n16 coordinates CRD0[t] = i (if asked) and CRD1[t] = j (if asked). -/
def findCrd (ld : Loader) (c0 c1 : Option (Word × Nat)) : Nat → Nat → State → M (Option Nat × State)
  | 0, _, s => .ok (none, s)
  | n + 1, t, s => do
    let eq (c : Option (Word × Nat)) (s : State) : M (Bool × State) :=
      match c with
      | none => .ok (true, s)
      | some (a, v) => do
        let (x, s) ← ld s (a + W (2 * t)) 2
        .ok (x == v, s)
    let (b0, s) ← eq c0 s
    if !b0 then findCrd ld c0 c1 n (t + 1) s
    else
      let (b1, s) ← eq c1 s
      if b1 then .ok (some t, s) else findCrd ld c0 c1 n (t + 1) s

/-- An n32 array element. -/
def ld32 (ld : Loader) (s : State) (a : Word) (i : Nat) : M (Nat × State) := ld s (a + W (4 * i)) 4

/-- Words of a bitmap row. -/
def rowWords (h : HWord) : Nat := (hNin h + 63) / 64

/-- Word k of bitmap row p. -/
def bitWord (ld : Loader) (s : State) (h : HWord) (p k : Nat) : M (Nat × State) :=
  ld s (hArr h 5 + W (8 * (p * rowWords h + k))) 8

/-- Number of one bits of row p in its first k words. -/
def rowOnes (ld : Loader) (h : HWord) (p : Nat) : Nat → State → M (Nat × State)
  | 0, s => .ok (0, s)
  | k + 1, s => do
    let (n, s) ← rowOnes ld h p k s
    let (w, s) ← bitWord ld s h p k
    .ok (n + popN 64 w, s)

/-- Stored outer entry of outer coordinate i (R312). -/
def outerPos (ld : Loader) (s : State) (h : HWord) (i : Nat) : M (Option Nat × State) :=
  if hL0 h = 0 then .ok (some i, s)
  else do
    let (a, s) ← ld32 ld s (hArr h 2) 0
    let (b, s) ← ld32 ld s (hArr h 2) 1
    findCrd ld (some (hArr h 3, i)) none (b - a) a s

/-- The position of element (i, j), none when it is ABSENT (R312). -/
def lookup (ld : Loader) (s : State) (h : HWord) (i j : Nat) : M (Option Nat × State) :=
  if hL1 h = 3 then do
    let (a, s) ← ld32 ld s (hArr h 2) 0
    let (b, s) ← ld32 ld s (hArr h 2) 1
    findCrd ld (some (hArr h 3, i)) (some (hArr h 5, j)) (b - a) a s
  else do
    let (p, s) ← outerPos ld s h i
    match p with
    | none => .ok (none, s)
    | some p =>
      if hL1 h = 0 then .ok (some (p * hNin h + j), s)
      else if hL1 h = 1 then do
        let (a, s) ← ld32 ld s (hArr h 4) p
        let (b, s) ← ld32 ld s (hArr h 4) (p + 1)
        findCrd ld none (some (hArr h 5, j)) (b - a) a s
      else do
        let (w, s) ← bitWord ld s h p (j / 64)
        if w / 2 ^ (j % 64) % 2 = 0 then .ok (none, s)
        else do
          let (a, s) ← ld32 ld s (hArr h 4) p
          let (n, s) ← rowOnes ld h p (j / 64) s
          .ok (some (a + n + popN (j % 64) w), s)

/-- Largest p, at most n, with POS1[p] ≤ q. -/
def lastBelow (ld : Loader) (h : HWord) (q : Nat) : Nat → State → M (Nat × State)
  | 0, s => .ok (0, s)
  | n + 1, s => do
    let (v, s) ← ld32 ld s (hArr h 4) (n + 1)
    if v ≤ q then .ok (n + 1, s) else lastBelow ld h q n s

/-- Coordinate of one bit number k of row p, from word w on. -/
def nthOne (ld : Loader) (h : HWord) (p : Nat) : Nat → Nat → Nat → State → M (Nat × State)
  | 0, _, _, s => .ok (0, s)
  | n + 1, w, k, s => do
    let (x, s) ← bitWord ld s h p w
    let c := popN 64 x
    if c ≤ k then nthOne ld h p n (w + 1) (k - c) s
    else .ok (w * 64 + (((List.range 64).filter fun b => x / 2 ^ b % 2 == 1).getD k 0), s)

/-- Number of stored outer entries (R311). -/
def outerCount (ld : Loader) (s : State) (h : HWord) : M (Nat × State) :=
  if hL0 h = 0 then .ok (hNout h, s) else ld32 ld s (hArr h 2) 1

/-- The inverse of R312: (i, j) of a position. -/
def inverse (ld : Loader) (s : State) (h : HWord) (q : Nat) : M (Nat × Nat × State) := do
  let (p, j, s) ←
    if hL1 h = 3 then do
      let (j, s) ← ld s (hArr h 5 + W (2 * q)) 2
      (.ok (q, j, s) : M (Nat × Nat × State))
    else if hL1 h = 0 then .ok (q / hNin h, q % hNin h, s)
    else do
      let (n, s) ← outerCount ld s h
      let (p, s) ← lastBelow ld h q (n - 1) s
      if hL1 h = 1 then do
        let (j, s) ← ld s (hArr h 5 + W (2 * q)) 2
        .ok (p, j, s)
      else do
        let (a, s) ← ld32 ld s (hArr h 4) p
        let (j, s) ← nthOne ld h p (rowWords h) 0 (q - a) s
        .ok (p, j, s)
  if hL0 h = 0 then .ok (p, j, s)
  else do
    let (i, s) ← ld s (hArr h 3 + W (2 * p)) 2
    .ok (i, j, s)

/-- Inner coordinates and positions from position t on, n of them, of a compressed or singleton level. -/
def crdRun (ld : Loader) (h : HWord) : Nat → Nat → State → M (List (Nat × Nat) × State)
  | 0, _, s => .ok ([], s)
  | n + 1, t, s => do
    let (j, s) ← ld s (hArr h 5 + W (2 * t)) 2
    let (l, s) ← crdRun ld h n (t + 1) s
    .ok ((j, t) :: l, s)

/-- Inner coordinates and positions of a bitmap row, from word w on; q is the position of the next one bit. -/
def bitRun (ld : Loader) (h : HWord) (p : Nat) : Nat → Nat → Nat → State → M (List (Nat × Nat) × State)
  | 0, _, _, s => .ok ([], s)
  | n + 1, w, q, s => do
    let (x, s) ← bitWord ld s h p w
    let ones := (List.range 64).filter fun b => x / 2 ^ b % 2 == 1
    let (l, s) ← bitRun ld h p n (w + 1) (q + ones.length) s
    .ok ((ones.zipIdx).map (fun (b, k) => (w * 64 + b, q + k)) ++ l, s)

/-- Positions of a singleton level with outer coordinate i, of n from t on. -/
def singleRun (ld : Loader) (h : HWord) (i : Nat) : Nat → Nat → State → M (List (Nat × Nat) × State)
  | 0, _, s => .ok ([], s)
  | n + 1, t, s => do
    let (x, s) ← ld s (hArr h 3 + W (2 * t)) 2
    let (l, s) ← singleRun ld h i n (t + 1) s
    if x = i then do
      let (j, s) ← ld s (hArr h 5 + W (2 * t)) 2
      .ok ((j, t) :: l, s)
    else .ok (l, s)

/-- The stored elements of outer coordinate i: (inner coordinate, position), in storage order (R312, R318). -/
def outerElems (ld : Loader) (s : State) (h : HWord) (i : Nat) : M (List (Nat × Nat) × State) :=
  if hL1 h = 3 then do
    let (a, s) ← ld32 ld s (hArr h 2) 0
    let (b, s) ← ld32 ld s (hArr h 2) 1
    singleRun ld h i (b - a) a s
  else do
    let (p, s) ← outerPos ld s h i
    match p with
    | none => .ok ([], s)
    | some p =>
      if hL1 h = 0 then .ok ((List.range (hNin h)).map fun j => (j, p * hNin h + j), s)
      else do
        let (a, s) ← ld32 ld s (hArr h 4) p
        if hL1 h = 1 then do
          let (b, s) ← ld32 ld s (hArr h 4) (p + 1)
          crdRun ld h (b - a) a s
        else bitRun ld h p (rowWords h) 0 a s

/-! ### The instructions (R315-R318) -/

namespace State

/-- A load whose late fault is precise: the instruction holds its context until it has performed (R315, R302). -/
def loadHeld (s : State) (a : Agent) (ea : Word) (n : Nat) : M (Nat × State) := do
  let (v, f, s) ← s.load a ea n
  match f with
  | some f => .error (.flt f)
  | none => .ok (v, s)

/-- n lines of 64 bytes from an address, loaded for a held instruction. -/
def loadLines (s : State) (a : Agent) (ea : Word) (n : Nat) : M (Nat × State) :=
  (List.range n).foldlM (fun (p : Nat × State) i => do
    let (x, t) ← p.2.loadHeld a (ea + W (64 * i)) 64
    .ok (p.1 + x * 2 ^ (512 * i), t)) (0, s)

/-- A store whose late fault is precise. -/
def storeHeld (s : State) (a : Agent) (ea : Word) (n v : Nat) : M State := do
  let (f, s) ← s.store a ea n v
  match f with
  | some f => .error (.flt f)
  | none => .ok s

/-- The executing context as a reader of handles. -/
def myLoader : Loader := fun s ea n => s.loadHeld s.agent ea n

/-- The value entry of a handle, used: unscaled and at most 32 bits wide (R152, R313). -/
def handleEntry (s : State) (h : HWord) : M Fmt := do
  let f ← s.useEntry (hFe h)
  if f.blk ≠ 0 || 32 < f.width then refuseEntry (hFe h) else .ok f

/-- Handle n, not invalid (R317, R318). -/
def handleOf (s : State) (n : PReg) : M HWord :=
  if hHt (s.rh n) = 0 then fail .handleDesc (W n.val) else .ok (s.rh n)

/-- The element that HLD or HST names: its address, or none (R317). -/
def elementAt (s : State) (n : PReg) (a b : XReg) : M (Option Word × Fmt × State) := do
  let h ← s.handleOf n
  let i := (s.rx a 0).toNat
  let j := (s.rx b 1).toNat
  failIf (decide (hNout h ≤ i) || decide (hNin h ≤ j)) .handleRange (W n.val)
  let f ← s.handleEntry h
  let (q, s) ← lookup myLoader s h i j
  .ok (q.map fun q => hArr h 6 + W (q * f.cbytes), f, s)

/-- P[c] of an instruction whose result is visible to the next instruction. -/
def wp (s : State) (c : PReg) (b : Bool) : State := s.wr (.p c b)

end State

/-- HSET (R316). -/
def execHset (h : PReg) (a : XReg) (s : State) : Out :=
  let ea := s.rx a 0
  s.run (do
    failIf (ea.toNat % 64 != 0) .misaligned ea
    let (v, f, s) ← s.load s.agent ea 64
    let w : HWord := BitVec.ofNat 512 v
    let cb := if hHt w = 0 then 1 else s.entryBytes (hFe w)
    match f, handleBad w cb with
    | none, some p => fail .handleDesc (W p)
    | f, _ => .ok (s.wlong (.h h w) f))

/-- HGET (R316). -/
def execHget (d : XReg) (h : PReg) (w : Fin 8) (s : State) : Out := s.run (.ok (s.wlong (.x d (wordOf (s.rh h) w.val))))

/-- HLD (R317). -/
def execHld (d a b : XReg) (c : PReg) (h : PReg) (s : State) : Out :=
  s.run (do
    let (ea, f, t) ← s.elementAt h a b
    match ea with
    | none => .ok ((t.wx d 0).wp c false)
    | some ea => do
      let (v, t) ← t.loadHeld t.agent ea f.cbytes
      .ok ((t.wx d (W v)).wp c true))

/-- HST (R317). -/
def execHst (d a b : XReg) (c : PReg) (h : PReg) (s : State) : Out :=
  let v := s.rx d 2
  s.run (do
    let (ea, f, t) ← s.elementAt h a b
    match ea with
    | none => .ok (t.wp c false)
    | some ea => do
      let t ← t.storeHeld t.agent ea f.cbytes v.toNat
      .ok (t.wp c true))

/-- HNEXT (R318). -/
def execHnext (d a : XReg) (c : PReg) (h : PReg) (s : State) : Out :=
  let q := (s.rx a 0).toNat
  s.run (do
    let w ← s.handleOf h
    if hNnz w ≤ q then .ok (((s.wx d 0).wx (xnext d) 0).wp c false)
    else do
      let f ← s.handleEntry w
      let (i, j, t) ← inverse State.myLoader s w q
      let (v, t) ← t.loadHeld t.agent (hArr w 6 + W (q * f.cbytes)) f.cbytes
      .ok (((t.wx d (W v)).wx (xnext d) (W (i * 2 ^ 16 + j))).wp c true))

end Sys2Proof.Machine
end

