-- ==== Sys2Proof/Machine/Reuse.lean ====
section
/-! DEFINITION. Reuse entries (R373-R386): binding, the compare and its outcome, ARCSET, ARCCNT, ARCINV. -/

namespace Sys2Proof.Machine

/-! ### How a job's work stops -/

/-- A fault that ends a job, or a wait for guarded bytes with the state as it then stands (R211, R287). -/
inductive JStop where
  | flt (f : Flt)
  | wait (s : State)

/-- A job's computation. -/
abbrev JM := Except JStop

/-- A fault of a job: its code and DETAIL. -/
def jfail {α : Type} (c : Code) (detail : Nat) : JM α := .error (.flt { code := c, info := W detail })

/-- DETAIL of JOB_MEM (R287). -/
def memDetail (field unit : Nat) : Nat := field % 4 + unit % 512 * 4

/-- DETAIL of JOB_MEM at SIN or SOUT, for a row (R287, R376). -/
def arcDetail (out : Bool) (row : Nat) : Nat := memDetail 3 row + b2n out * 2 ^ 11

/-- An access of a job: a failing one ends it with JOB_MEM (R287). -/
def jacc {α : Type} (detail : Nat) (m : M α) : JM α :=
  match m with
  | .ok a => .ok a
  | .error (.wait _ s) => .error (.wait s)
  | .error _ => jfail .jobMem detail

namespace State

/-- n bytes read by a job of an ASID on a tile. -/
def jload (s : State) (tid : Nat) (asid : BitVec 10) (detail : Nat) (ea : Word) (n : Nat) : JM (Nat × State) := do
  let (v, f, s) ← jacc detail (s.load (engAgent tid asid) ea n)
  if f.isSome then jfail .jobMem detail else .ok (v, s)

/-- n bytes written by a job. -/
def jstore (s : State) (tid : Nat) (asid : BitVec 10) (detail : Nat) (ea : Word) (n v : Nat) : JM State := do
  let (f, s) ← jacc detail (s.store (engAgent tid asid) ea n v)
  if f.isSome then jfail .jobMem detail else .ok s

/-- k pieces of n bytes each, from an address on. -/
def jloads (tid : Nat) (asid : BitVec 10) (detail : Nat) (n : Nat) : Nat → Word → State → JM (Nat × State)
  | 0, _, s => .ok (0, s)
  | k + 1, ea, s => do
    let (v, s) ← s.jload tid asid detail ea n
    let (r, s) ← jloads tid asid detail n k (ea + W n) s
    .ok (v + 2 ^ (8 * n) * r, s)

/-- k pieces of n bytes each are written. -/
def jstores (tid : Nat) (asid : BitVec 10) (detail : Nat) (n : Nat) : Nat → Word → Nat → State → JM State
  | 0, _, _, s => .ok s
  | k + 1, ea, v, s => do
    let s ← s.jstore tid asid detail ea n (v % 2 ^ (8 * n))
    jstores tid asid detail n k (ea + W n) (v / 2 ^ (8 * n)) s

/-! ### Binding (R375, R376) -/

/-- The condition of R376 that a bound job breaks, as the information word of ARC_DESC. -/
def arcBreach (s : State) (k : JobKind) (d : BitVec 512) : Option Nat :=
  if !(k == .mma || k == .attn || k == .epi) then some (512 + kindNum k)
  else if jTk k d ≠ 0 then some (if k = .epi then 387 else 384)
  else if k = .attn && jSrc1 d ≠ 0 then some 64
  else if eF (s.ftAt (jFa d)) 41 2 ≠ 0 then some 339
  else none

/-- SHAPE of a job without the NB of bank 1 (R374). -/
def arcShape (k : JobKind) (d : BitVec 512) (b : List Word) : List Nat :=
  [kindNum k, jM d, jN d, jLda d, jOrm d, jFa d, jFo d, if k = .attn then jX d 32 5 else 0, (wordAt b 1).toNat,
   (wordAt b 2).toNat]

/-- The reuse of a job under the context's pending bind (R375, R376, R379). -/
def arcOf (s : State) (k : JobKind) (d : BitVec 512) (b : ArcBind) : JobArc :=
  let nums := (entryNames k d).filterMap id
  { ent := b.ent, desc := b.desc, tft := b.tft, shape := arcShape k d b.desc, nb := 0,
    names := nums ++ [Bits (wordAt b.desc 3) 16 5],
    ctx := nums.any fun n => eF (s.ftAt n) 36 2 == 3 ||
      (eF (s.ftAt n) 41 2 != 0 && eF (s.ftAt (eF (s.ftAt n) 43 5)) 36 2 == 3),
    decided := false, replay := false }

/-! ### The compare (R377) -/

/-- |new - old|, none for +infinity. -/
def gap (a b : Num) : Option Dy :=
  match a, b with
  | .fin x, .fin y => some { (x.add y.flip false) with neg := false }
  | .inf x, .inf y => if x == y then some { neg := false, m := 0, e := 0 } else none
  | _, _ => none

/-- The larger of two distances. -/
def gapMax (a b : Option Dy) : Option Dy :=
  match a, b with
  | some x, some y => some (if x.cmp y == .lt then y else x)
  | _, _ => none

/-- d ≤ t (R377). -/
def gapLe (d : Option Dy) (t : Num) : Bool :=
  match t, d with
  | .nan, _ => false
  | .inf neg, _ => !neg
  | .fin v, some x => x.cmp v != .gt
  | .fin _, none => false

/-- Elements of w bits of two images of n elements. -/
def imageGap (f : Fmt) (w n new old : Nat) : Option Dy :=
  (List.range n).foldl (fun d e => gapMax d (gap (f.decode (new / 2 ^ (w * e) % 2 ^ w)) (f.decode (old / 2 ^ (w * e) % 2 ^ w))))
    (some { neg := false, m := 0, e := 0 })

/-- Pieces of the compared input, each with its source (R376). -/
def arcPieces (j : Job) (a : JobArc) : List (Word × ArcPiece) :=
  let d := j.desc
  let fa := fmtOf false (j.ents.getD 0 {}).e
  let sin := wordAt a.desc 1
  (List.range (jM d + 1)).flatMap fun i =>
    if j.kind = .epi then
      let n := jN d + 1
      let p : ArcPiece := { dst := sin + W (i * n * fa.cbytes), k := n, n := fa.cbytes, w := fa.cbits, row := i, new := 0,
                            old := 0 }
      [(jSrc0 d + W (i * jLda d * 64), p)]
    else
      let kc := if jBk d = 2 && j.kind == .mma then 2 else 1
      (List.range kc).map fun c =>
        let p : ArcPiece := { dst := sin + W ((i * kc + c) * 512), k := 8, n := 64, w := storeWidth fa, row := i, new := 0,
                              old := 0 }
        (jSrc0 d + W (i * jLda d * 64 + 512 * c), p)

/-- Largest distance of the compared pieces (R377). -/
def arcGap (f : Fmt) (l : List ArcPiece) : Option Dy :=
  l.foldl (fun d p => gapMax d (imageGap f p.w (8 * p.k * p.n / p.w) p.new p.old)) (some { neg := false, m := 0, e := 0 })

/-- One piece of the compare: SRC0 and SIN are read; a compare that was stopped reads SRC0 only (R377, R380). -/
def comparePiece (tid : Nat) (j : Job) (a : JobArc) (src : Word) (p : ArcPiece) (s : State) : JM (JobArc × State) := do
  let (new, s) ← jloads tid j.asid (memDetail 0 p.row) p.n p.k src s
  let (old, s) ← if a.void then (.ok (new, s) : JM (Nat × State))
    else jloads tid j.asid (arcDetail false p.row) p.n p.k p.dst s
  .ok ({ a with input := a.input ++ [{ p with new := new, old := old }] }, s)

/-- The outcome of a tagged job at the end of its compare, and its count (R374, R377, R380, R382). -/
def decideArc (s : State) (tid : Nat) (j : Job) (a : JobArc) : JobArc × State :=
  let f := fmtOf false (j.ents.getD 0 {}).e
  let nb := if j.kind = .attn then (s.tile tid).b1.nb else 0
  let x := getD {} (s.tile tid).eng.arcs a.ent
  let block := Bits (wordAt a.desc 0) 0 32
  let step := Bits (wordAt a.desc 0) 32 32
  let same := !a.void && x.held && x.valid && !x.stale && x.block == block && (x.step + 1) % 2 ^ 32 == step &&
    x.shape == a.shape ++ [nb] && x.snap == j.ents
  let t := (fmtOf false a.tft).decode (Bits (wordAt a.desc 3) 0 16)
  let replay := same && gapLe (arcGap f a.input) t
  let count (p : Space) : Space :=
    if replay then { p with hit := (p.hit + 1) % 2 ^ 32 }
    else if same then { p with miss := (p.miss + 1) % 2 ^ 32 } else { p with inval := (p.inval + 1) % 2 ^ 32 }
  ({ a with nb := nb, decided := true, replay := replay, input := if replay then [] else a.input },
    s.modSpace j.asid.toNat count)

/-- One move of a tagged job before its first unit: a piece is compared, the outcome is decided, or a piece of the new input
goes to SIN; none when that is done (R377, R378). -/
def arcMove (tid : Nat) (j : Job) (a : JobArc) (s : State) : JM (Option (JobArc × State)) :=
  if !a.decided then
    match (arcPieces j a)[a.input.length]? with
    | some (src, p) => do
      let r ← comparePiece tid j a src p s
      .ok (some r)
    | none => .ok (some (s.decideArc tid j a))
  else match a.input with
    | [] => .ok none
    | p :: l => do
      let s ← jstores tid j.asid (arcDetail false p.row) p.n p.k p.dst p.new s
      .ok (some ({ a with input := l }, s))

/-- The executing tile has reuse entries, or JOB_KIND (R373). -/
def needArcs (s : State) : M Unit :=
  failIf (match tileKind s.myTid with | .d | .a => false | _ => true) .jobKind 0

/-- The lowest bit of a reuse descriptor that breaks R375 or R384. -/
def arcBad (v : Nat) : Option Nat :=
  let b (lo n : Nat) : Option Nat :=
    let x := v / 2 ^ lo % 2 ^ n
    if x = 0 then none else some (lo + ctzN n x)
  let path (w : Nat) : Option Nat := posIf (decide (2 < v / 2 ^ (64 * w + 60) % 16)) (64 * w + 60)
  lowestOf [b 64 6, path 1, b 128 6, path 2, b 213 43]

end State

/-- ARCSET (R384). -/
def execArcset (d a : XReg) (ent : Fin 32) (s : State) : Out :=
  let ea := s.rx a 0
  s.run (do
    failIf (ea.toNat % 32 != 0) .misaligned ea
    let (v, f, s) ← s.load s.agent ea 32
    match f with
    | some f => .error (.flt f)
    | none => do
      match State.arcBad v with
      | some p => fail .arcDesc (W p)
      | none => do
        let under (s : State) (ea : Word) : Bool := match s.resolve s.agent .load (W (ea.toNat / 64 * 64)) 64 with
          | .ok (.mem pa, _) => s.underFwin pa 64
          | _ => false
        let sin := W (v / 2 ^ 64)
        let sout := W (v / 2 ^ 128)
        failIf (under s sin) .fwinAtomic sin
        failIf (under s sout) .fwinAtomic sout
        let n := v / 2 ^ 208 % 32
        let t ← s.useEntry n
        if t.blk ≠ 0 || 16 < t.cbits then State.refuseEntry n
        else do
          s.needArcs
          let x := getD {} (s.tile s.myTid).eng.arcs ent.val
          failIf (x.held && x.asid != s.myAsid) .arcEntry s.openWord
          let b : ArcBind :=
            { ent := ent.val, desc := (List.range 4).map fun i => W (v / 2 ^ (64 * i)),
              tft := resolveEntry s.src.nfm (s.ftAt n), tsc := 0 }
          let s' := s.modEng s.myTid fun e => { e with arcs := put ent.val { x with held := true, asid := s.myAsid } e.arcs }
          .ok ((s'.modMe fun c => { c with bind := some b }).wx d (W (b2n x.valid * 2 ^ 32 + x.step))))

/-- ARCCNT (R382, R385). -/
def execArccnt (d : XReg) (s : State) : Out :=
  s.run (do
    s.needArcs
    let p := s.space s.myAsid.toNat
    let t := s.modSpace s.myAsid.toNat fun p => { p with hit := 0, miss := 0, inval := 0 }
    .ok ((t.wx d (W (p.miss * 2 ^ 32 + p.hit))).wx (xnext d) (W p.inval)))

/-- ARCINV (R386). -/
def execArcinv (d : XReg) (ent : Option (Fin 32)) (s : State) : Out :=
  s.run (do
    s.needArcs
    let arcs := (s.tile s.myTid).eng.arcs
    let ks := match ent with
      | some k => [k.val]
      | none => List.range 32
    let foreign := ks.filter fun k => (getD ({} : Arc) arcs k).held && (getD ({} : Arc) arcs k).asid != s.myAsid
    match ent, foreign with
    | some _, _ :: _ => fail .arcEntry s.openWord
    | _, _ =>
      let mine := ks.filter fun k => (getD ({} : Arc) arcs k).held && (getD ({} : Arc) arcs k).asid == s.myAsid
      let idle := mine.filter fun k => (getD ({} : Arc) arcs k).busy == 0
      let free (x : Arc) : Arc := { x with held := false, valid := false, stale := false }
      let s' := s.modEng s.myTid fun e => { e with arcs := idle.foldl (fun l k => put k (free (getD ({} : Arc) l k)) l) e.arcs }
      .ok (s'.wx d (W (idle.length + b2n (decide (idle.length < mine.length)) * 2 ^ 32))))

end Sys2Proof.Machine
end

