-- ==== Sys2Proof/Machine/Bins.lean ====
section
/-! DEFINITION. Bin sets (R324-R329) and the token gate (R389, R394): BINCFG, BINAPP, BINRUN and its replay. -/

namespace Sys2Proof.Machine

/-! ### Descriptors and entries (R324, R325) -/

def binBase (d : BitVec 512) : Word := W (jb d 0 64)
def binCnt (d : BitVec 512) : Word := W (jb d 64 64)
def binNreg (d : BitVec 512) : Nat := jb d 128 16
def binRs (d : BitVec 512) : Nat := jb d 144 4
def binCap (d : BitVec 512) : Nat := 2 ^ jb d 148 5
def binFe (d : BitVec 512) : Nat := jb d 153 5
def binFe2 (d : BitVec 512) : Nat := jb d 158 5

/-- Number of elements of the regions of a bin set. -/
def binElems (d : BitVec 512) : Nat := (binNreg d + 1) * 2 ^ binRs d

/-- The lowest position of a bin-set descriptor that breaks R324. -/
def binBad (d : BitVec 512) : Option Nat :=
  lowestOf [lowSet d 0 6, posIf (jb d 60 4 != 0) 60, lowSet d 64 3, posIf (jb d 124 4 != 0) 124,
    posIf (decide (11 < binRs d)) 144, posIf (decide (jb d 148 5 < 4) || decide (23 < jb d 148 5)) 148, lowSet d 163 29,
    lowSet d 192 320]

/-- Fields of a region's counter (R325). -/
def cntClaimed (c : Nat) : Nat := c % 2 ^ 24
def cntWritten (c : Nat) : Nat := c / 2 ^ 24 % 2 ^ 24
def cntLost (c : Nat) : Bool := c / 2 ^ 62 % 2 == 1
def cntClosed (c : Nat) : Bool := c / 2 ^ 63 % 2 == 1

/-- The contribution of an entry to its cell (R325, R328). -/
def binContribution (b : BinSlot) (w0 w1 : Nat) : Num :=
  let fe := fmtOf false b.fe.e
  let op := w0 / 2 ^ 40 % 4
  let prd := w0 / 2 ^ 42 % 2 == 1
  if 2 ≤ op || w0 / 2 ^ 43 ≠ 0 || (prd && w1 / 2 ^ 32 != 0) then .nan
  else
    let v := if prd then (fe.decode (w1 % 2 ^ 16)).mul ((fmtOf false b.fe2.e).decode (w1 / 2 ^ 16 % 2 ^ 16)) else fe.decode w1
    if op = 1 then v.flip else v

namespace State

/-! ### The gate (R389, R394, R395) -/

/-- One beat of weight w of an ASID passes the gate of a tile and takes a cycle, if it may. -/
def gateBeat (s : State) (tid : Nat) (asid : BitVec 10) (w : Nat) : Option State :=
  let s := s.cutBucket tid
  let e := (s.tile tid).eng
  if s.mayBeat asid && decide (w ≤ e.bucket) && decide (e.aclk < 64 * (e.period + 1)) then
    some ((s.modEng tid fun e => { e with bucket := e.bucket - w, beatT := s.fab, aclk := e.aclk + 1 }).charge asid w)
  else none

/-! ### Appending (R327) -/

/-- Dirty copies of a line below its home, of the agent that goes there, are written back first (R203 case 1). -/
def agentHome (s : State) (a : Agent) (pl : Nat) : State :=
  match a.core with
  | some c => s.pushHome c pl
  | none => s.l2Evict a.tid pl

/-- The home address of n bytes of a bin set, checked with write permission (R166, R327). -/
def binSite (s : State) (a : Agent) (ea : Word) (n : Nat) : M (Nat × State) := do
  let (l, s) ← s.resolve a .store ea n
  match l with
  | .mem pa => if s.underFwin pa n then fail .fwinAtomic ea else .ok (pa, s.agentHome a (pa / 64))
  | _ => fail .badPath ea

/-- One entry is appended: 0, 1 (BUSY) or 2 (FULL), or the fault of the entry's write, with LOST set (R325, R327). -/
def binAppend (s : State) (a : Agent) (d : BitVec 512) (idx w0 w1 : Nat) : M (Except Stop Nat × State) := do
  let r := idx / 2 ^ binRs d
  let cap := binCap d
  let (pa, s) ← s.binSite a (binCnt d + W (8 * r)) 8
  let c := s.rawLoad pa 8
  if cntClosed c then .ok (.ok 1, s)
  else if cntClaimed c = cap then .ok (.ok 2, s)
  else
    let n := cntClaimed c
    let s := s.rawStore pa 8 (c + 1)
    match s.binSite a (binBase d + W ((r * cap + n) * 16)) 16 with
    | .error (.wait w t) => .error (.wait w t)
    | .error e => .ok (.error e, s.orAt pa (2 ^ 62))
    | .ok (ep, s) =>
      let s := match a.core with
        | some k => s.release k .mo
        | none => s.engRelease a.tid .mo
      let s := s.rawStore ep 16 (w0 + w1 * 2 ^ 64)
      .ok (.ok 0, s.rawStore pa 8 (s.rawLoad pa 8 + 2 ^ 24))

/-- The configuration of a slot for the executing ASID (R324). -/
def binOf (s : State) (slot : Nat) : M BinSlot :=
  match find slot (s.tile s.myTid).eng.bins with
  | some b => if b.asid = s.myAsid then .ok b else fail .binSlot s.openWord
  | none => fail .binSlot s.openWord

/-- An OPMUL uses the slot of a tile (R326). -/
def slotJob (slot : Nat) (j : Option Job) : Bool :=
  match j with
  | some j => j.kind == .opmul && j.st == .running && jX j.desc 5 3 == slot
  | none => false

/-- Is a BINRUN or an OPMUL that uses the slot in flight (R326)? -/
def binBusy (s : State) (tid slot : Nat) : Bool :=
  let t := s.tile tid
  t.eng.runs.any (fun r => r.slot == slot) || t.jobs.any fun j => slotJob slot j.2.job

/-- A value entry of a bin set: unscaled, at most 16 bits (R326). -/
def binEntry (s : State) (n : Nat) : M Snap := s.snapEntry (some n) fun f => f.blk == 0 && decide (f.width ≤ 16)

end State

/-- BINCFG (R326). -/
def execBincfg (d a : XReg) (slot : Fin 8) (s : State) : Out :=
  let ea := s.rx a 0
  s.run (do
    failIf (ea.toNat % 64 != 0) .misaligned ea
    failIf (s.atPeer s.agent .load ea) .badPath ea
    let (v, t) ← s.loadHeld s.agent ea 64
    let w : BitVec 512 := BitVec.ofNat 512 v
    let fe ← s.binEntry (binFe w)
    let fe2 ← s.binEntry (binFe2 w)
    match binBad w with
    | some p => fail .binDesc (W p)
    | none =>
      match find slot.val (s.tile s.myTid).eng.bins with
      | some b => failIf (b.asid != s.myAsid) .binSlot s.openWord
      | none => .ok ()
    if s.binBusy s.myTid slot.val then .ok (t.wx d 1)
    else
      let b : BinSlot := { asid := s.myAsid, desc := w, fe := fe, fe2 := fe2, nfm := s.src.nfm }
      .ok ((t.modEng s.myTid fun e => { e with bins := put slot.val b e.bins }).wx d 0))

/-- BINCFG `.off` (R326). -/
def execBincfgOff (d : XReg) (slot : Fin 8) (s : State) : Out :=
  s.run (do
    match find slot.val (s.tile s.myTid).eng.bins with
    | some b => failIf (b.asid != s.myAsid) .binSlot s.openWord
    | none => .ok ()
    if s.binBusy s.myTid slot.val then .ok (s.wx d 1)
    else .ok ((s.modEng s.myTid fun e => { e with bins := del slot.val e.bins }).wx d 0))

/-- BINAPP (R327). -/
def execBinapp (d a : XReg) (op : BinOp) (slot : Fin 8) (s : State) : Out :=
  let idx := (s.rx a 0).toNat
  let res : M (Except Stop Nat × State) := do
    s.relGate
    let b ← s.binOf slot.val
    failIf (decide (binElems b.desc ≤ idx)) .binIndex (W idx)
    let cb := (fmtOf false b.fe.e).cbits
    let (o, v) := match op with
      | .add r => (0, (s.rx r 1).toNat % 2 ^ cb)
      | .sub r => (1, (s.rx r 1).toNat % 2 ^ cb)
      | .nan => (2, 0)
    s.binAppend s.agent b.desc idx (idx + o * 2 ^ 40) v
  match res with
  | .ok (.ok st, t) => s.run (.ok (t.wx d (W st)))
  | .ok (.error (.flt f), t) => .next (t.raise f)
  | .ok (.error e, _) => s.finish (.error e)
  | .error e => s.finish (.error e)

namespace State

/-- The cells of a BINRUN lie in one bank of the own tile (R328). -/
def binCells (s : State) (ea : Word) (n : Nat) : M Unit :=
  let own := Bits ea 60 4 = 1 || (Bits ea 60 4 = 2 && bankTile s.myTid ea == s.myTid)
  if ea.toNat % 64 ≠ 0 then fail .misaligned ea
  else if !own then fail .badPath ea
  else do
    let (l, _) ← s.resolve s.agent .rdwr ea 64
    match l with
    | .bank t o =>
      if 2 ^ 17 < o % 2 ^ 17 + n then fail .bankMode ea else s.bankCheck s.myAsid t o n ea
    | _ => fail .badPath ea

end State

/-- BINRUN (R328): the answer of the replay, or the submission. -/
def execBinrun (d a b : XReg) (clr : Bool) (slot : Fin 8) (s : State) : Out :=
  match s.me.answer with
  | .flt f => s.finish (.error (.flt f))
  | .val v =>
    let t := if Bits v 32 2 = 0 then s.acquire s.myCore .ti else s
    s.run (.ok (t.wx d v))
  | .none =>
    let cells := s.rx a 0
    let r := (s.rx b 1).toNat
    s.finish (do
      failIf (tileKind s.myTid != .s) .jobKind 0
      s.relGate
      let k ← s.binOf slot.val
      failIf (decide (binNreg k.desc < r)) .binIndex s.openWord
      s.binCells cells (64 * 2 ^ binRs k.desc)
      let t := s.release s.myCore .ti
      let (pa, t) ← t.binSite (State.engAgent s.myTid s.myAsid) (binCnt k.desc + W (8 * r)) 8
      let c := t.rawLoad pa 8
      if cntClosed c then .ok (.done (t.wx d (W (2 ^ 32))))
      else
        let t := t.rawStore pa 8 (c + 2 ^ 63)
        let run : BinRun := { id := s.cur.id, slot := slot.val, region := r, cells := cells, clr := clr, n := cntClaimed c,
                              cls := Nat.max s.me.cls.toNat 1, beats := 0, dst := d, grp := s.group,
                              colour := s.me.colour }
        let n := (t.kick s.myTid 10 (cells.toNat + r * 2 ^ 64 + slot.val * 2 ^ 88)).modEng s.myTid fun e =>
          { e with runs := e.runs ++ [run] }
        .error (.wait .answer (s.attachFloor n s.myTid)))

namespace State

/-- An entry is applied to its cell (R328). -/
def replayEntry (a : Agent) (b : BinSlot) (r : BinRun) (s : State) : M State := do
  let (w, s) ← s.loadHeld a (binBase b.desc + W ((r.region * binCap b.desc + r.applied) * 16)) 16
  let w0 := w % 2 ^ 64
  let cell := r.cells + W (64 * (w0 % 2 ^ 40 % 2 ^ binRs b.desc))
  let (c, s) ← s.loadHeld a cell 64
  s.storeHeld a cell 64 (cellAdd c (binContribution b w0 (w / 2 ^ 64)))

/-- The result of a replay enters the group of results that a captured context owes for it (R81, R328). -/
def runGives (c : Ctx) (g : Nat) (a : Answer) : Ctx :=
  { c with pend := c.pend.map fun p =>
      if p.grp = g then
        match a with
        | .flt f => { p with grp := 0, flt := some f }
        | .val v => { p with grp := 0, wr := p.wr.orBits 0 0 v.toNat }
        | .none => p
      else p }

/-- The answer of a replay reaches its context: parked, captured, or saved (R81, R328). -/
def answerRun (s : State) (r : BinRun) (a : Answer) : State :=
  let owes (c : Ctx) : Bool := c.pend.any fun p => p.grp == r.grp
  if owes (s.ctx r.id) then s.modCtx r.id fun c => runGives c r.grp a
  else match s.savedAt r.id owes with
    | some (pa, c) => s.setSaved pa r.id (runGives c r.grp a) []
    | none => if !r.left && (s.ctx r.id).wait == .answer then s.answer r.id a else s

/-- Replay k of a tile is replaced. -/
def setRun (s : State) (tid k : Nat) (r : BinRun) : State := s.modEng tid fun e => { e with runs := setNth e.runs k r }

/-- A replay ends with an answer. -/
def endRun (s : State) (tid k : Nat) (r : BinRun) (a : Answer) : State :=
  ((s.modEng tid fun e => { e with runs := dropNth e.runs k }).floorEnds tid).answerRun r a

/-- What a piece of a replay's work leaves: a wait keeps what was done, a fault ends the replay. -/
def runDo (s : State) (tid k : Nat) (r : BinRun) (m : M State) (ok : State → State) : State :=
  match m with
  | .ok t => ok t
  | .error (.wait _ t) => t
  | .error (.flt f) => s.endRun tid k r (.flt f)
  | .error (.late l) => s.endRun tid k r (.flt l.flt)

/-- One move of replay k of a tile (R328): a beat, a cell zeroed, an entry applied, or the end. -/
def replayStep (s : State) (tid k : Nat) (r : BinRun) (b : BinSlot) : State :=
  match s.binSite (engAgent tid b.asid) (binCnt b.desc + W (8 * r.region)) 8 with
  | .error (.wait _ t) => t
  | .error (.flt f) => s.endRun tid k r (.flt f)
  | .error (.late l) => s.endRun tid k r (.flt l.flt)
  | .ok (pa, s) =>
    let c := s.rawLoad pa 8
    if cntWritten c ≠ r.n && !cntLost c then s
    else
      let s := s.engAcquire tid .mo
      let a := engAgent tid b.asid
      if cntLost c then (s.rawStore pa 8 0).endRun tid k r (.val (W (2 ^ 33)))
      else if r.beats < (r.n + 15) / 16 then
        match s.gateBeat tid b.asid r.cls with
        | none => s
        | some s => s.setRun tid k { r with beats := r.beats + 1 }
      else if r.clr && decide (r.zeroed < 2 ^ binRs b.desc) then
        s.runDo tid k r (s.storeHeld a (r.cells + W (64 * r.zeroed)) 64 0) fun t =>
          t.setRun tid k { r with zeroed := r.zeroed + 1 }
      else if r.applied < r.n then
        s.runDo tid k r (replayEntry a b r s) fun t => t.setRun tid k { r with applied := r.applied + 1 }
      else ((s.rawStore pa 8 0).engRelease tid .ti).endRun tid k r (.val (W r.n))

end State

/-- BINRUN_REPLAY (R328): replay v of tile u. -/
def execBinrunReplay (s : State) : Out :=
  .next (match (s.tile s.cur.u).eng.runs[s.cur.v]? with
    | none => s
    | some r => match find r.slot (s.tile s.cur.u).eng.bins with
      | none => s
      | some b => (s.workFor r.id r.colour).replayStep s.cur.u s.cur.v r b)

end Sys2Proof.Machine
end

