-- ==== Sys2Proof/Machine/JobRun.lean ====
section
/-! DEFINITION. What jobs do (R285, R287, R289-R300, R319-R323, R377, R378): issue, units of work, beats. -/

namespace Sys2Proof.Machine

/-! ### Running over units -/

/-- A job's computation for each index of a list. -/
def mapJ {α : Type} (f : Nat → State → JM (α × State)) : List Nat → State → JM (List α × State)
  | [], s => .ok ([], s)
  | i :: r, s => do
    let (a, s) ← f i s
    let (l, s) ← mapJ f r s
    .ok (a :: l, s)

/-- Snapshots as formats (R164). -/
def Job.snapN (j : Job) (i : Nat) : Snap := j.ents.getD i {}
def Job.fa (j : Job) : Fmt := fmtOf false (j.snapN 0).e
def Job.fas (j : Job) : Fmt := fmtOf false (j.snapN 0).s
def Job.fb (j : Job) : Fmt := fmtOf false (j.snapN 1).e
def Job.fp (j : Job) : Fmt := fmtOf false (j.snapN 2).e
def Job.fo (j : Job) : Fmt := fmtOf false (j.snapN 3).e

/-- Chunks of an A row (R293). -/
def Job.kc (j : Job) : Nat := if jBk j.desc = 2 && (j.kind == .mma || j.kind == .mmab) then 2 else 1

/-- Is the job tagged and its outcome REPLAY (R378)? -/
def Job.replays (j : Job) : Bool := match j.arc with
  | some a => a.decided && a.replay
  | none => false

namespace State

/-- Bytes of an access that serves a field and a unit (R287). -/
def jr (tid : Nat) (j : Job) (field unit n k : Nat) (ea : Word) (s : State) : JM (Nat × State) :=
  jloads tid j.asid (memDetail field unit) n k ea s

/-- A 512-byte chunk of an operand with its scale codes; an operand without a scale array has free ones (log 7). -/
def jchunk (tid : Nat) (j : Job) (field unit : Nat) (ea : Word) (f : Fmt) (scales : Option Word) (s : State) :
    JM (Nat × List Nat × State) := do
  let (d, s) ← jr tid j field unit 64 8 ea s
  if f.blk = 0 then .ok (d, [], s)
  else
    let k := chunkLen f / f.blk
    match scales with
    | none => .ok (d, (List.range k).map fun b => Config.freeNat (s.seq + b) % 256, s)
    | some a => do
      let (v, s) ← jr tid j 1 unit 1 k a s
      .ok (d, (List.range k).map fun b => v / 2 ^ (8 * b) % 256, s)

/-- Chunk c of A row i, aligned (R290, R296, R298). -/
def aRow (tid : Nat) (j : Job) (i c : Nat) (s : State) : JM (Chunk × State) := do
  let d := j.desc
  let f := j.fa
  let scales := match j.kind with
    | .grpmm => none
    | _ => some (jSrc1 d + W ((i * j.kc + c) * (chunkLen f / Nat.max 1 f.blk)))
  let (v, codes, s) ← jchunk tid j 0 i (jSrc0 d + W (i * jLda d * 64 + 512 * c)) f scales s
  .ok (readChunk f j.fas (planesA f) v fun b => codes.getD b 0, s)

/-- Column c of a B bank as its loader aligned it; a column at or above NB is zero (R289, R290). -/
def bankCol (b : BBank) (c : Nat) : Chunk :=
  match (if c < b.nb then find c b.cols else none) with
  | none => {}
  | some (v, codes) =>
    let f := fmtOf false b.snap.e
    readChunk f (fmtOf false b.snap.s) (planesB f) v.toNat fun k => codes.getD k 0

/-- Bank b of a tile. -/
def bbank (s : State) (tid b : Nat) : BBank := if b = 0 then (s.tile tid).b0 else (s.tile tid).b1
def setBbank (s : State) (tid b : Nat) (k : BBank) : State :=
  s.modTile tid fun t => if b = 0 then { t with b0 := k } else { t with b1 := k }

/-- The chunks, banks and columns that output column c takes (R296). -/
def columnParts (bk c : Nat) : List (Nat × Nat × Nat) :=
  match bk with
  | 0 => [(0, 0, c)]
  | 1 => [(0, 1, c)]
  | 2 => [(0, 0, c), (1, 1, c)]
  | _ => [(0, c / 128, c % 128)]

/-! ### Outputs (R296, R376) -/

/-- Consecutive elements of cb bytes are stored. -/
def putEls (tid : Nat) (asid : BitVec 10) (detail cb : Nat) : List Nat → Word → State → JM State
  | [], _, s => .ok s
  | v :: r, ea, s => do
    let s ← s.jstore tid asid detail ea cb v
    putEls tid asid detail cb r (ea + W cb) s

/-- Address of output element 0 of row i. -/
def outAddr (j : Job) (i : Nat) : Word := jDst j.desc + W (i * jLdo j.desc * 16)

/-- Width of a row of the stored output (R376; log 85). -/
def arcWidth (j : Job) (a : JobArc) : Nat := if j.kind = .attn then a.nb else jN j.desc + 1

/-- Output row i is written, and for a tagged job the stored output (R296, R378). -/
def outRow (tid : Nat) (j : Job) (i : Nat) (codes : List Nat) (s : State) : JM State := do
  let cb := j.fo.cbytes
  let s ← putEls tid j.asid (memDetail 2 i) cb codes (outAddr j i) s
  match j.arc with
  | none => .ok s
  | some a => putEls tid j.asid (arcDetail true i) cb codes (wordAt a.desc 2 + W (i * arcWidth j a * cb)) s

/-! ### The top-k epilogue (R297) -/

/-- Insertions of a row: (key, raw value) by column. -/
def topRow (s : State) (tid : Nat) (j : Job) (i : Nat) (l : List (Nat × Nat)) : State :=
  let k := jTk j.kind j.desc
  if k = 0 then s
  else
    s.modTile tid fun t =>
      let t := if jTkClr j.kind j.desc && i == 0 then
          let n : TopK := { k := k, asid := some j.asid, rows := [] }
          { t with topk := n }
        else t
      let row := (l.zipIdx).foldl (fun row (e, c) =>
        let n : TopE := { key := BitVec.ofNat 32 e.1, raw := BitVec.ofNat 32 e.2,
                          col := (jCol0 j.kind j.desc + c) % 2 ^ 16 }
        topInsert k n row) (getD [] t.topk.rows i)
      { t with topk := { t.topk with rows := put i row t.topk.rows } }

/-- The f32 bias words at SRC1, when the kind adds them (R296, R299). -/
def biasWords (tid : Nat) (j : Job) (need : Bool) (n : Nat) (s : State) : JM (List Num × State) :=
  if need then
    mapJ (fun c s => do
      let (v, s) ← jr tid j 1 c 4 1 (jSrc1 j.desc + W (4 * c)) s
      .ok (ofF32 v, s)) (List.range n) s
  else .ok ((List.range n).map fun _ => zeroNum, s)

/-! ### Rows of the dense kinds -/

/-- Row i of MMA, MMAB and GRPMM against the banks that bk selects (R291, R296, R300). -/
def mmaRow (tid : Nat) (j : Job) (bk i : Nat) (s : State) : JM State := do
  let d := j.desc
  let n := jN d + 1
  let cb := j.fo.cbytes
  let (as, s) ← mapJ (fun c s => aRow tid j i c s) (List.range j.kc) s
  let (olds, s) ← if j.kind = .mmab then
      mapJ (fun c s => do
        let (v, s) ← jr tid j 2 i cb 1 (outAddr j i + W (c * cb)) s
        .ok (j.fo.decode v, s)) (List.range n) s
    else .ok ((List.range n).map fun _ => zeroNum, s)
  let b0 := s.bbank tid 0
  let b1 := s.bbank tid 1
  let accs := (olds.zipIdx).map fun (o, c) =>
    (columnParts bk c).foldl (fun acc (k, b, col) =>
      accStep (as.getD k {}) (bankCol (if b = 0 then b0 else b1) col) acc) o
  let tkb := jTk j.kind d != 0 && jX d 21 1 == 1
  let (bias, s) ← biasWords tid j tkb n s
  let s ← outRow tid j i (accs.map fun a => j.fo.round j.orm 0 a) s
  .ok (s.topRow tid j i (List.zipWith (fun a b => (toF32 (if tkb then a.add false b else a), toF32 a)) accs bias))

/-- Row i of ATTN (R298). -/
def attnRow (tid : Nat) (j : Job) (i : Nat) (s : State) : JM State := do
  let d := j.desc
  let (q, s) ← aRow tid j i 0 s
  let b0 := s.bbank tid 0
  let b1 := s.bbank tid 1
  let sigma := ofF32 (jX d 0 32)
  let scores := (List.range (jN d + 1)).map fun c => accStep q (bankCol b0 c) zeroNum
  let z := scores.zipIdx.map fun (v, c) => if jX d 37 1 = 1 && i < c then Num.inf true else rnd32 (v.mul sigma)
  let nanRow := scores.any Num.isNan
  let m := maxRow z
  let e := z.map fun v => toF32 ((v.add false m.flip).exp)
  let l := sumTree e
  let fp := { j.fp with blk := 0 }
  let p := e.map fun c => fp.round 0 0 (ofF32 c)
  let pc := alignChunk fp (planesA fp) p (p.map fp.decode)
  let out := (List.range b1.nb).map fun c =>
    let o := accStep pc (bankCol b1 c) zeroNum
    let v := if jX d 38 1 = 1 then o.div (ofF32 l) else o
    j.fo.round j.orm 0 (if nanRow then .nan else v)
  let s ← outRow tid j i out s
  if jSrc1 d = 0 then .ok s
  else s.jstore tid j.asid (memDetail 1 i) (jSrc1 d + W (8 * i)) 8 (toF32 m + l * 2 ^ 32)

/-- max(v, 0) of R299: +0 for -0, NaN stays NaN. -/
def relu (v : Num) : Num :=
  match v with
  | .nan => .nan
  | .inf neg => if neg then zeroNum else .inf false
  | .fin x => if x.neg || x.m = 0 then zeroNum else v

/-- Row i of EPI (R299). -/
def epiRow (tid : Nat) (j : Job) (i : Nat) (s : State) : JM State := do
  let d := j.desc
  let n := jN d + 1
  let op := jX d 0 3
  let f := j.fa
  let (vs, s) ← mapJ (fun c s => do
    let (v, s) ← jr tid j 0 i f.cbytes 1 (jSrc0 d + W (i * jLda d * 64 + c * f.cbytes)) s
    let x := f.decode v
    .ok (if f.blk = 0 then x else scaled x (j.fas.decode (Config.freeNat (s.seq + c / f.blk) % 256)), s)) (List.range n) s
  let (bias, s) ← biasWords tid j (op == 1 || op == 3) n s
  let ts := List.zipWith (fun v b =>
    let t := if op = 1 || op = 3 then v.add false b else v
    if 2 ≤ op then relu t else t) vs bias
  let s ← outRow tid j i (ts.map fun t => j.fo.round j.orm 0 t) s
  .ok (s.topRow tid j i (ts.map fun t => (toF32 t, toF32 t)))

/-- Column c of a bank is loaded from an address (R295). -/
def loadColumn (tid : Nat) (j : Job) (bank c unit field : Nat) (ea : Word) (scales : Option Word) (s : State) : JM State := do
  let f := fmtOf false (s.bbank tid bank).snap.e
  let (v, codes, s) ← jchunk tid j field unit ea f scales s
  let b := s.bbank tid bank
  .ok (s.setBbank tid bank { b with nb := c + 1, cols := put c (BitVec.ofNat 4096 v, codes) b.cols })

/-- A bank is taken for a job that loads it (R289, R295). -/
def takeBank (s : State) (tid bank : Nat) (j : Job) (snap : Snap) : State :=
  s.setBbank tid bank { asid := some j.asid, snap := snap, nb := 0, cols := [] }

/-- Column c of BLOAD (R295). -/
def bloadColumn (tid : Nat) (j : Job) (c : Nat) (s : State) : JM State :=
  let d := j.desc
  let f := j.fa
  loadColumn tid j (jBk d) c c 0 (jSrc0 d + W (c * jLda d * 64))
    (some (jSrc1 d + W (c * (chunkLen f / Nat.max 1 f.blk)))) s

/-! ### Groups (R300): progress is [group, phase, index, ROW0, NROW, LDB, address] -/

/-- The next group with rows, from g on. -/
def nextGroup (tid : Nat) (j : Job) : Nat → Nat → State → JM (Option (List Nat) × State)
  | 0, _, s => .ok (none, s)
  | fuel + 1, g, s =>
    if jX j.desc 0 8 < g then .ok (none, s)
    else do
      let (v, s) ← match j.table with
        | some v => (.ok (v, s) : JM (Nat × State))
        | none => jr tid j 3 g 8 2 (jSrc1 j.desc + W (16 * g)) s
      let w := v / 2 ^ 64
      let row0 := w % 2 ^ 9
      let nrow := w / 2 ^ 9 % 2 ^ 10
      if 512 < row0 + nrow || w / 2 ^ 35 ≠ 0 then jfail .jobDesc g
      else if nrow = 0 then nextGroup tid j fuel (g + 1) s
      else .ok (some [g, 0, 0, row0, nrow, w / 2 ^ 19 % 2 ^ 16, v % 2 ^ 64], s.takeBank tid (g % 2) j (j.snapN 1))

/-- Element i of the progress list. -/
def accAt (j : Job) (i : Nat) : Nat := j.acc.getD i 0

/-- Progress of a GRPMM whose unit begins: none at the end. -/
def groupUnit (tid : Nat) (j : Job) (s : State) : JM (Option (List Nat) × State) :=
  if j.acc.isEmpty then nextGroup tid j 257 0 s
  else if accAt j 1 = 0 then
    (if accAt j 2 ≤ jN j.desc then .ok (some j.acc, s) else .ok (some (setNth (setNth j.acc 1 1) 2 0), s))
  else if accAt j 2 < accAt j 4 then .ok (some j.acc, s) else nextGroup tid j 257 (accAt j 0 + 1) s

/-- One unit of a GRPMM: a column or a row. -/
def groupStep (tid : Nat) (j : Job) (s : State) : JM State :=
  let bank := accAt j 0 % 2
  if accAt j 1 = 0 then
    loadColumn tid j bank (accAt j 2) (accAt j 2) 1 (W (accAt j 6 + accAt j 2 * accAt j 5 * 64)) none s
  else mmaRow tid j bank (accAt j 3 + accAt j 2) s

/-! ### Sparse kinds (R319-R322): the progress list begins with the two handles -/

/-- A job as a reader of a handle, for accesses that serve a field and a unit. -/
def jobLoader (tid : Nat) (j : Job) : Loader := fun s ea n => s.loadHeld (engAgent tid j.asid) ea n

/-- Stored elements of an outer coordinate of a handle, with the codes of their values. -/
def storedRow (tid : Nat) (j : Job) (field unit : Nat) (h : HWord) (f : Fmt) (i : Nat) (s : State) :
    JM (List (Nat × Nat) × State) := do
  let (l, s) ← jacc (memDetail field unit) (outerElems (jobLoader tid j) s h i)
  let (cs, s) ← mapJ (fun k s => jr tid j field unit f.cbytes 1 (hArr h 6 + W ((l.getD k (0, 0)).2 * f.cbytes)) s)
    (List.range l.length) s
  .ok (List.zipWith (fun e c => (e.1, c)) l cs, s)

/-- Chunk c of a stored row: absent positions read as the code 0 (R320). -/
def sparseChunk (f : Fmt) (l : List (Nat × Nat)) (c : Nat) : Chunk :=
  let codes := (List.range 1024).map fun k => getD 0 l (1024 * c + k)
  alignChunk f (planesA f) codes (codes.map f.decode)

/-- Positions of chunk c that two rows store both. -/
def pairsIn (a b : List (Nat × Nat)) (c : Nat) : Nat :=
  (a.filter fun e => e.1 / 1024 == c && b.any fun o => o.1 == e.1).length

/-- The handles of a sparse job. -/
def handleA (j : Job) : HWord := BitVec.ofNat 512 (accAt j 0)
def handleB (j : Job) : HWord := BitVec.ofNat 512 (accAt j 1)

/-- Rows of A and columns of B that row i of an SPMM takes (R320). -/
def spmmRows (tid : Nat) (j : Job) (i : Nat) (s : State) :
    JM (List (Nat × Nat) × List (List (Nat × Nat)) × State) := do
  let (a, s) ← storedRow tid j 0 i (handleA j) j.fa i s
  let (bs, s) ← mapJ (fun c s => storedRow tid j 1 c (handleB j) j.fb c s) (List.range (jN j.desc + 1)) s
  .ok (a, bs, s)

/-- Chunks of an SPMM. -/
def spmmChunks (j : Job) : Nat := (hNin (handleA j) + 1023) / 1024

/-- Beats of row i of an SPMM (R323). -/
def spmmBeats (tid : Nat) (j : Job) (i : Nat) (s : State) : JM (Nat × State) := do
  let (a, bs, s) ← spmmRows tid j i s
  let beat (c : Nat) : Nat := ((bs.foldl (fun n b => n + pairsIn a b c) 0) * planesA j.fa + 32767) / 32768
  .ok ((List.range (spmmChunks j)).foldl (fun n c => n + beat c) 0, s)

/-- Row i of an SPMM (R320). -/
def spmmRow (tid : Nat) (j : Job) (i : Nat) (s : State) : JM State := do
  let (a, bs, s) ← spmmRows tid j i s
  let cb := j.fo.cbytes
  let acc1 := jX j.desc 5 1 = 1
  let (olds, s) ← if acc1 then
      mapJ (fun c s => do
        let (v, s) ← jr tid j 2 i cb 1 (outAddr j i + W (c * cb)) s
        .ok (j.fo.decode v, s)) (List.range (jN j.desc + 1)) s
    else .ok ((List.range (jN j.desc + 1)).map fun _ => zeroNum, s)
  let outs := List.zipWith (fun b o =>
    j.fo.round j.orm 0 ((List.range (spmmChunks j)).foldl (fun acc c =>
      accStep (sparseChunk j.fa a c) (sparseChunk j.fb b c) acc) o)) bs olds
  outRow tid j i outs s

/-- Entries that outer coordinate k of an OPMUL appends: index, OP and PRD bits, value word (R321). -/
def opmulEntries (tid : Nat) (j : Job) (k : Nat) (s : State) : JM (List (Nat × Nat × Nat) × State) := do
  let (a, s) ← storedRow tid j 0 k (handleA j) j.fa k s
  let (b, s) ← storedRow tid j 1 k (handleB j) j.fb k s
  let ncol := jX j.desc 8 24
  let wild (f : Fmt) (l : List (Nat × Nat)) : List Nat := (l.filter fun e => (f.decode e.2).special).map (·.1)
  let free (l : List (Nat × Nat)) (n : Nat) : List Nat := (List.range n).filter fun i => !(l.any fun e => e.1 == i)
  let products := a.flatMap fun x => b.map fun y => (x.1 * ncol + y.1, 2 ^ 42, x.2 + y.2 * 2 ^ 16)
  let nanB := (wild j.fb b).flatMap fun c => (free a (hNin (handleA j))).map fun i => (i * ncol + c, 2 ^ 41, 0)
  let nanA := (wild j.fa a).flatMap fun i => (free b (hNin (handleB j))).map fun c => (i * ncol + c, 2 ^ 41, 0)
  .ok (products ++ nanB ++ nanA, s)

/-- Entries are appended as the winnower does; those appended before a fault stand (R321): the fault, and how many. -/
def appendAll (tid : Nat) (j : Job) (d : BitVec 512) (n : Nat) : List (Nat × Nat × Nat) → State → JM (Option Flt × Nat × State)
  | [], s => .ok (none, n, s)
  | (idx, op, v) :: r, s =>
    let mem : Flt := { code := .jobMem, info := W (Config.freeNat s.seq % 2 ^ 32) }
    match s.binAppend (engAgent tid j.asid) d idx (idx + op) v with
    | .error (.wait _ t) => .error (.wait t)
    | .error _ => .ok (some mem, n, s)
    | .ok (.error _, s) => .ok (some mem, n, s)
    | .ok (.ok 0, s) => appendAll tid j d (n + 1) r s
    | .ok (.ok _, s) => .ok (some { code := .binFull, info := W (idx / 2 ^ binRs d) }, n, s)

/-- Row i of an OPMRG (R322). -/
def opmrgRow (tid : Nat) (j : Job) (i : Nat) (s : State) : JM State := do
  let d := j.desc
  let n := jN d + 1
  let cell (c : Nat) : Word := jSrc0 d + W ((i * n + c) * 64)
  let own (a : Word) : Bool := Bits a 60 4 = 1 || (Bits a 60 4 = 2 && bankTile tid a == tid)
  if !((List.range n).all fun c => own (cell c)) then jfail .jobMem (memDetail 0 i)
  else do
    let (cs, s) ← mapJ (fun c s => jr tid j 0 i 64 1 (cell c) s) (List.range n) s
    let s ← outRow tid j i (cs.map fun c => cellRead c j.fo j.orm 0) s
    let s ← if jX d 1 1 = 1 then
        s.jstore tid j.asid (memDetail 1 i) (jSrc1 d + W (32 * i)) 32
          (bitsOf (cs.map fun c => cellFlags c % 2 ^ 40 != 0))
      else (.ok s : JM State)
    if jX d 0 1 = 1 then do
      let (_, s) ← mapJ (fun c s => do
        let s ← s.jstore tid j.asid (memDetail 0 i) (cell c) 64 0
        (.ok ((), s) : JM (Unit × State))) (List.range n) s
      .ok s
    else .ok s

/-- Row i of a REPLAY (R378). -/
def replayRow (tid : Nat) (j : Job) (a : JobArc) (i : Nat) (s : State) : JM State := do
  let cb := j.fo.cbytes
  let w := arcWidth j a
  let (vs, s) ← mapJ (fun c s => jloads tid j.asid (arcDetail true i) cb 1 (wordAt a.desc 2 + W ((i * w + c) * cb)) s)
    (List.range w) s
  putEls tid j.asid (memDetail 2 i) cb vs (outAddr j i) s

/-! ### Units -/

/-- The unit that begins: its beats and the progress list; none when the work is done (R293, R323). -/
def nextUnit (tid : Nat) (j : Job) (s : State) : JM (Option (Nat × List Nat) × State) :=
  let d := j.desc
  let rows (b : Nat) : JM (Option (Nat × List Nat) × State) :=
    .ok (if j.pos ≤ jM d then some (b, j.acc) else none, s)
  if j.replays then rows 0
  else match j.kind with
    | .bload => .ok (if j.pos ≤ jN d then some (1, j.acc) else none, s)
    | .mma | .mmab => rows (planesA j.fa * j.kc)
    | .attn => rows (planesA j.fa + (jN d + 32) / 32 + planesA j.fp)
    | .epi => rows ((jN d + 32) / 32)
    | .opmrg => rows ((jN d + 16) / 16)
    | .spmm =>
      if j.pos ≤ jM d then do
        let (b, s) ← spmmBeats tid j j.pos s
        .ok (some (b, j.acc), s)
      else .ok (none, s)
    | .opmul =>
      if j.pos < hNout (handleA j) then do
        let (l, s) ← opmulEntries tid j j.pos s
        .ok (some (if accAt j 2 % 16 = 0 && accAt j 3 < l.length then 1 else 0, j.acc), s)
      else .ok (none, s)
    | .grpmm => do
      let (a, s) ← groupUnit tid j s
      .ok (a.map fun a => (if a.getD 1 0 = 0 then 1 else planesA j.fa, a), s)

/-- The unit in progress is performed: the job after it, and a fault that lets the unit's effects stand. -/
def performUnit (tid : Nat) (j : Job) (s : State) : JM (Job × State) :=
  let i := j.pos
  let next : Job := { j with pos := i + 1, left := none }
  let plain (m : JM State) : JM (Job × State) := do
    let s ← m
    .ok (next, s)
  match j.arc, j.replays with
  | some a, true => plain (replayRow tid j a i s)
  | _, _ => match j.kind with
    | .bload => plain (bloadColumn tid j i s)
    | .mma | .mmab => plain (mmaRow tid j (jBk j.desc) i s)
    | .attn => plain (attnRow tid j i s)
    | .epi => plain (epiRow tid j i s)
    | .opmrg => plain (opmrgRow tid j i s)
    | .spmm => plain (spmmRow tid j i s)
    | .grpmm => do
      let s ← groupStep tid j s
      .ok ({ next with acc := setNth j.acc 2 (accAt j 2 + 1) }, s)
    | .opmul => do
      let (l, s) ← opmulEntries tid j i s
      match find (jX j.desc 5 3) (s.tile tid).eng.bins with
      | none => jfail .jobDesc 389
      | some b => do
        -- the entries of one beat: 16 of the job, or those that coordinate i still has
        let n := accAt j 2
        let m := accAt j 3
        let batch := (l.drop m).take (16 - n % 16)
        let (f, n, s) ← appendAll tid j b.desc n batch s
        let done : Job := { j with left := none, beats := (n + 15) / 16 }
        match f with
        | some f => .ok ({ done with stop := some f, ovr := true }, s)
        | none =>
          if l.length ≤ m + batch.length then .ok ({ done with pos := i + 1, acc := setNth (setNth j.acc 2 n) 3 0 }, s)
          else .ok ({ done with acc := setNth (setNth j.acc 2 n) 3 (m + batch.length) }, s)

/-! ### Issue (R285, R289, R297, R319, R376) -/

/-- Banks that a job reads, and that it writes (R285). -/
def bankUse (j : Job) : List Nat × List Nat :=
  match j.kind with
  | .bload => ([], [jBk j.desc])
  | .mma | .mmab => (if jBk j.desc = 0 then [0] else if jBk j.desc = 1 then [1] else [0, 1], [])
  | .attn => ([0, 1], [])
  | .grpmm => ([0, 1], [0, 1])
  | _ => ([], [])

/-- Must job j wait for the earlier-admitted job k (R285, R376)? -/
def orderedAfter (j k : Job) : Bool :=
  let (r, w) := bankUse j
  let (kr, kw) := bankUse k
  let entry (x : Job) : Option Nat := x.arc.map (·.ent)
  decide (k.seq < j.seq) &&
    (r.any kw.contains || w.any (fun b => kr.contains b || kw.contains b) || ((entry j).isSome && entry j == entry k))

/-- Jobs of a tile by slot. -/
def jobsOf (s : State) (tid : Nat) : List (Nat × Job) :=
  (s.tile tid).jobs.filterMap fun e => e.2.job.map fun j => (e.1, j)

/-- The job that the engine issues, if it is idle (R285). -/
def issuable (s : State) (tid : Nat) : Option (Nat × Job) :=
  let js := s.jobsOf tid
  if js.any (fun e => e.2.st == .running) || s.gates tid then none
  else
    (js.filter fun e => e.2.st == .ready && !e.2.ovr && !(js.any fun k => orderedAfter e.2 k.2)).foldl
      (fun a e => match a with
        | none => some e
        | some b => if e.2.seq < b.2.seq then some e else some b) none

/-- Checks of a sparse job at issue (R313, R319-R321): the job with its handles. -/
def readHandles (tid : Nat) (j : Job) (s : State) : JM (Job × State) := do
  let d := j.desc
  let fail (b : Bool) (p : Nat) : JM Unit := if b then jfail .jobDesc p else .ok ()
  let (a, s) ← jr tid j 0 0 64 1 (jSrc0 d) s
  let ha : HWord := BitVec.ofNat 512 a
  match handleBad ha j.fa.cbytes with
  | some p => jfail .jobDesc (512 + p)
  | none => do
    let (b, s) ← jr tid j 1 0 64 1 (jSrc1 d) s
    let hw : HWord := BitVec.ofNat 512 b
    match handleBad hw j.fb.cbytes with
    | some p => jfail .jobDesc (1024 + p)
    | none => do
      let mul := j.kind == .opmul
      fail (hHt ha != (if mul then 2 else 1)) 512
      fail (hHt hw != (if mul then 1 else 2)) 1024
      fail (hFe ha != jFa d) 339
      fail (hFe hw != jX d 0 5) 384
      if j.fa.blk ≠ 0 then jfail .entryKind (jFa d)
      else if j.fb.blk ≠ 0 then jfail .entryKind (jX d 0 5)
      else do
        if mul then
          let ncol := jX d 8 24
          fail (hNout ha != hNout hw) 1056
          fail (decide (ncol < hNin hw)) 392
          match find (jX d 5 3) (s.tile tid).eng.bins with
          | none => jfail .jobDesc 389
          | some k =>
            fail (decide (binElems k.desc ≤ (hNin ha - 1) * ncol + hNin hw - 1)) 392
            fail (k.asid != j.asid || k.fe != j.snapN 0 || k.fe2 != j.snapN 1) 389
        else
          fail (hNin ha != hNin hw) 1072
          fail (decide (hNout ha < jM d + 1)) 320
          fail (decide (hNout hw < jN d + 1)) 329
        .ok ({ j with acc := [a, b, 0, 0] }, s)

/-- What a job does as it issues: bank and top-k checks, handles. -/
def beginJob (tid : Nat) (j : Job) (s : State) : JM (Job × State) := do
  let writes := (bankUse j).2
  let alien := (bankUse j).1.find? fun b => !writes.contains b && (match (s.bbank tid b).asid with
    | some a => a != j.asid
    | none => false)
  match alien with
  | some b => jfail .bankAsid b
  | none => do
    let k := (s.tile tid).topk
    let tk := jTk j.kind j.desc
    if tk ≠ 0 && !jTkClr j.kind j.desc && (k.k != tk || k.asid != some j.asid) then
      jfail .topkState (Config.freeNat s.seq % 2 ^ 32)
    else do
      match j.kind with
        | .spmm | .opmul => readHandles tid j s
        | .bload => .ok (j, s.takeBank tid (jBk j.desc) j (j.snapN 0))
        | _ => .ok (j, s)

/-- The job of a slot is replaced. -/
def setJob (s : State) (tid slot : Nat) (j : Job) : State :=
  s.modTile tid fun t => { t with jobs := put slot { t.slot slot with job := some j } t.jobs }

/-- A job ends with a fault. -/
def stopJob (s : State) (tid slot : Nat) (j : Job) (f : Flt) : State :=
  s.setJob tid slot { j with st := .running, ovr := true, stop := some f }

/-- The engine issues a job (R209, R285). -/
def issueJob (s : State) (tid slot : Nat) (j : Job) : State :=
  let t := s.engAcquire tid (if idTid j.sub = tid && j.chain.isNone then .ti else .mo)
  match beginJob tid j t with
  | .error (.wait t) => t
  | .error (.flt f) => t.stopJob tid slot j f
  | .ok (j, t) => t.setJob tid slot { j with st := .running }

/-- What the end of a job's computation leaves: a wait keeps what was done, a fault stops the job. -/
def jobStop (s : State) (tid slot : Nat) (j : Job) (e : JStop) : State :=
  match e with
  | .wait t => t
  | .flt f => s.stopJob tid slot j f

/-- One move of the running job over its units: the next one begins, takes a beat, or is performed (R293, R294, R389).  The
beats of an OPMUL are those of the entries that it appended (R323). -/
def unitMove (s : State) (tid slot : Nat) (j : Job) : State :=
  let stop := s.jobStop tid slot j
  match j.left with
  | none =>
    match nextUnit tid j s with
    | .error e => stop e
    | .ok (none, s) => s.setJob tid slot { j with ovr := true }
    | .ok (some (n, acc), s) => s.setJob tid slot { j with left := some n, acc := acc }
  | some 0 =>
    match performUnit tid j s with
    | .error e => stop e
    | .ok (j, s) => s.setJob tid slot j
  | some (n + 1) =>
    match s.gateBeat tid j.asid j.weight with
    | none => s
    | some s => s.setJob tid slot { j with left := some n, beats := if j.kind = .opmul then j.beats else j.beats + 1 }

/-- One move of the running job: a tagged one compares and refreshes its stored input first (R377, R378). -/
def beatJob (s : State) (tid slot : Nat) (j : Job) : State :=
  match j.arc with
  | none => s.unitMove tid slot j
  | some a => match arcMove tid j a s with
    | .error e => s.jobStop tid slot j e
    | .ok none => s.unitMove tid slot j
    | .ok (some (a, s)) => s.setJob tid slot { j with arc := some a }

end State

/-- JOB_ISSUE (R281, R285): the engine of tile u. -/
def execJobIssue (s : State) : Out :=
  let s := s.refreshJobs s.cur.u
  .next (match s.issuable s.cur.u with
    | none => s
    | some (slot, j) => if s.halts s.cur.u j.asid then s else (s.workFor j.sub j.colour).issueJob s.cur.u slot j)

/-- ENGINE_BEAT (R293, R389): the running job of tile u. -/
def execEngineBeat (s : State) : Out :=
  .next (match (s.jobsOf s.cur.u).find? fun e => e.2.st == .running && !e.2.ovr with
    | none => s
    | some (slot, j) => if s.halts s.cur.u j.asid then s else (s.workFor j.sub j.colour).beatJob s.cur.u slot j)

/-- JOB_COMPLETION (R286): slot v of tile u. -/
def execJobCompletion (s : State) : Out :=
  .next (match ((s.tile s.cur.u).slot s.cur.v).job with
    | some j => if j.ovr then (s.workFor j.sub j.colour).completeJob s.cur.u s.cur.v j else s
    | none => s)

end Sys2Proof.Machine
end

