-- ==== Sys2Proof/Machine/Matrix.lean ====
section
/-! DEFINITION. Meanings of the job instructions (R302-R309) and of REMOTE_JOB_ARRIVAL (R304). -/

namespace Sys2Proof.Machine

namespace State

/-- Checks 1 and 2 of R303: the descriptor at X[a]. -/
def readDesc (s : State) (ea : Word) : M (BitVec 512 × State) := do
  failIf (ea.toNat % 64 != 0) .misaligned ea
  failIf (decide (2 < Bits ea 60 4)) .badPath ea
  let (v, s) ← s.loadHeld s.agent ea 64
  .ok (BitVec.ofNat 512 v, s)

/-- A request of the executing context. -/
def jobReq (s : State) (tid : Nat) (k : JobKind) (d : BitVec 512) (ents : List Snap) (orm : Nat) (cap : Word) : RemoteJob :=
  { id := s.cur.id, tid := tid, kind := k, desc := d, ents := ents, orm := orm, cap := cap, cls := s.me.cls.toNat,
    colour := s.me.colour, sub := s.cur.id }

/-- Container bytes of FO for check 4 of R303. -/
def foBytes (s : State) (k : JobKind) (d : BitVec 512) : Nat := if kindOut k then s.entryBytes (jFo d) else 1

/-- The answer of a submission: X[d] and P[c] (R303). -/
def submitted (s : State) (d : XReg) (c : PReg) (id : Nat) : State := (s.wx d (W id)).wp c (id != 0)

/-- A job id of the own tile: its slot and generation, if R305 lets it be named. -/
def jobId (s : State) (w : Word) : M (Nat × Nat) :=
  let slot := Bits w 10 6
  let gen := Bits w 0 10
  let k := (s.tile s.myTid).slot slot
  let owner := match k.job with
    | some j => j.asid
    | none => k.masid
  let foreign := (k.gen == gen && owner != s.myAsid) || (k.mgen == gen && k.masid != s.myAsid)
  if gen = 0 || foreign then fail .jobId s.openWord else .ok (slot, gen)

/-- The status of a job that is not live, with its acquire (R210, R305). -/
def jobDone (s : State) (slot gen : Nat) : Nat × State :=
  let k := (s.tile s.myTid).slot slot
  if k.mgen = gen then (k.mst, s.acquire s.myCore (csScope k.mcs)) else (3, s.acquire s.myCore .sy)

/-- Key of a job that is waited for. -/
def jobKey (tid slot gen : Nat) : Nat := tid + slot * 2 ^ 13 + gen * 2 ^ 19

/-- Is the job of a key live? -/
def jobKeyLive (s : State) (key : Nat) : Bool := (s.tile (key % 2 ^ 13)).jobLive (key / 2 ^ 13 % 64) (key / 2 ^ 19)

/-- Has the context an earlier top-k job that has not completed (R309)? -/
def topkPending (s : State) (id : Nat) : Bool :=
  (s.jobsOf (idTid id)).any fun e => e.2.sub == id && jTk e.2.kind e.2.desc != 0

end State

/-- MJOB (R303, R376). -/
def execMjob (d a : XReg) (c : PReg) (kind : JobKind) (s : State) : Out :=
  s.run (do
    s.relGate
    let tid := s.myTid
    let (w, t) ← s.readDesc (s.rx a 0)
    failIf (!kindOk (tileKind tid) kind) .jobKind (W (kindNum kind))
    match s.descBad tid s.myAsid kind w (s.foBytes kind w) with
    | some p => fail .jobDesc (W p)
    | none => do
      let ents ← s.snapJob kind w
      let (fut, t) ← t.jobTargets tid s.myAsid w
      match s.me.bind with
      | some _ => match s.arcBreach kind w with
        | some i => fail .arcDesc (W i)
        | none => .ok ()
      | none => .ok ()
      let orm := s.resolveOrm kind w ents
      failIf (decide (5 ≤ orm)) .jobDesc 349
      let t := t.release t.myCore .ti
      let arc := s.me.bind.map (s.arcOf kind w)
      let (id, n) := t.admitJob (s.jobReq tid kind w ents orm 0) s.myAsid fut arc
      let n := match arc with
        | some b =>
          if id = 0 then n
          else
            let busy (x : Arc) : Arc := { x with busy := x.busy + 1 }
            (n.modEng tid fun e => { e with arcs := put b.ent (busy (getD {} e.arcs b.ent)) e.arcs }).modMe fun c =>
              { c with bind := none }
        | none => n
      .ok (n.submitted d c id))

/-- MJOBR (R304): the answer of the target, or the sending. -/
def execMjobr (d a b : XReg) (c : PReg) (kind : JobKind) (s : State) : Out :=
  match s.me.answer with
  | .flt f => s.finish (.error (.flt f))
  | .val v => s.run (.ok (s.submitted d c v.toNat))
  | .none =>
    s.finish (do
      s.relGate
      let (w, t) ← s.readDesc (s.rx a 0)
      let ents ← s.snapJob kind w
      let tw := s.rx (xnext a) 1
      failIf (Bits tw 13 51 != 0 || !s.live (Bits tw 0 13)) .jobTarget s.openWord
      let t := t.release t.myCore .mo
      let r := s.jobReq (Bits tw 0 13) kind w ents (s.resolveOrm kind w ents) (s.rx b 2)
      let n : State := { (t.inject t.myTid s.me.colour) with rjobs := t.rjobs ++ [r] }
      .error (.wait .held n))

namespace State

/-- Container bytes of FO of a request, from its snapshot. -/
def reqFoBytes (r : RemoteJob) : Nat := if kindOut r.kind then (fmtOf false (r.ents.getD 3 {}).e).cbytes else 1

/-- The target's checks and admission of a remote job (R288, R304). -/
def admitRemote (s : State) (r : RemoteJob) : M (Nat × State) := do
  let asid := BitVec.ofNat 10 (Bits r.cap 26 10)
  failIf (!s.capOk r.cap r.tid r.kind) .jobCap s.openWord
  failIf (!kindOk (tileKind r.tid) r.kind) .jobKind (W (kindNum r.kind))
  match s.descBad r.tid asid r.kind r.desc (reqFoBytes r) with
  | some p => fail .jobDesc (W p)
  | none => do
    let (fut, s) ← s.jobTargets r.tid asid r.desc
    failIf (decide (5 ≤ r.orm)) .jobDesc 349
    .ok (s.admitJob r asid fut none)

end State

/-- REMOTE_JOB_ARRIVAL (R304): request u of those on their way. -/
def execRemoteJobArrival (s : State) : Out :=
  .next (match s.rjobs[s.cur.u]? with
    | none => s
    | some r =>
      let tid := idTid r.sub
      let s : State := { ((s.uninject tid r.colour).dlv r.tid r.colour) with rjobs := dropNth s.rjobs s.cur.u }
      match (s.workFor r.sub r.colour).admitRemote r with
      | .ok (id, s) => s.answer r.id (.val (W id))
      | .error (.flt f) => s.answer r.id (.flt f)
      | .error (.late l) => s.answer r.id (.flt l.flt)
      | .error (.wait _ _) => s.answer r.id (.val 0))

/-- JPOLL (R305). -/
def execJpoll (d a : XReg) (s : State) : Out :=
  s.run (do
    let (slot, gen) ← s.jobId (s.rx a 0)
    if (s.tile s.myTid).jobLive slot gen then .ok (s.wx d 0x100)
    else
      let (v, s) := s.jobDone slot gen
      .ok (s.wx d (W v)))

/-- JWAIT (R305). -/
def execJwait (d a : XReg) (s : State) : Out :=
  s.run (do
    let (slot, gen) ← s.jobId (s.rx a 0)
    if (s.tile s.myTid).jobLive slot gen then .error (.wait (.job (State.jobKey s.myTid slot gen)) s)
    else
      let (v, s) := s.jobDone slot gen
      .ok (s.wx d (W v)))

/-- JCANC (R306): the job's record, mailbox and future follow (JOB_COMPLETION). -/
def execJcanc (d a : XReg) (s : State) : Out :=
  s.run (do
    let (slot, gen) ← s.jobId (s.rx a 0)
    let t := s.tile s.myTid
    match (if t.jobLive slot gen then (t.slot slot).job else none) with
    | none => .ok (s.wx d 2)
    | some j =>
      if j.ovr then .ok (s.wx d 2)
      else
        let run := b2n (j.st == .running)
        let f : Flt := { code := .jobCancelled, info := W run }
        .ok ((s.setJob s.myTid slot { j with ovr := true, stop := some f }).wx d (W run)))

/-- JSTAT (R307). -/
def execJstat (d a : XReg) (s : State) : Out :=
  let s := s.refreshJobs s.myTid
  let t := s.tile s.myTid
  let k := t.slot (Bits (s.rx a 0) 0 6)
  let free := ((List.range 64).filter fun i => (t.slot i).job.isNone).length
  let st := match k.job with
    | none => 0
    | some j => match j.st with
      | .waiting => 1
      | .ready => 2
      | .running => 3
  let asid := match k.job with
    | some j => j.asid
    | none => k.masid
  let wait := match k.job with
    | some j =>
      if j.st == .waiting then bitsOf (j.deps.map fun o => !(t.depState o (s.depFault .jobDep)).1) else 0
    | none => 0
  let more := k.mkind * 2 ^ 2 + k.gen * 2 ^ 8 + asid.toNat * 2 ^ 18 + wait * 2 ^ 28
  s.run (.ok (s.wx d (W (st + (if asid = s.myAsid || s.priv then more else 0) + free * 2 ^ 32))))

/-- MCAP (R288, R308). -/
def execMcap (d a : XReg) (rights : Fin 8) (s : State) : Out :=
  let x := s.rx a 0
  let y := s.rx (xnext a) 1
  let high (w : Word) (o : Nat) : Option Nat := if Bits w 13 51 = 0 then none else some (o + 13 + ctzN 51 (Bits w 13 51))
  match lowestOf [high x 0, high y 64, posIf (rights.val == 0) 128] with
  | some p => s.run (fail .jobDesc (W p))
  | none =>
    let low := W (x.toNat + y.toNat * 2 ^ 13 + s.myAsid.toNat * 2 ^ 26 + rights.val * 2 ^ 36)
    s.run (.ok (s.wx d (low + W (s.capTag low * 2 ^ 40))))

/-- TOPKRD (R297, R309). -/
def execTopkrd (d a : XReg) (s : State) : Out :=
  let w := s.rx a 0
  s.run (do
    failIf (match tileKind s.myTid with | .d | .a => false | _ => true) .jobKind 0
    failIf (Bits w 12 52 != 0) .jobDesc s.openWord
    if s.topkPending s.cur.id then .error (.wait (.topk s.cur.id) s)
    else
      let k := (s.tile s.myTid).topk
      failIf (match k.asid with | some b => b != s.myAsid | none => false) .bankAsid s.openWord
      match (getD [] k.rows (Bits w 0 9))[Bits w 9 3]? with
      | some e => .ok ((s.wx d (W (e.raw.toNat * 2 ^ 32 + e.key.toNat))).wx (xnext d) (W (e.col + 2 ^ 16)))
      | none => .ok ((s.wx d 0).wx (xnext d) 0))

end Sys2Proof.Machine
end

