-- ==== Sys2Proof/Machine/Copies.lean ====
section
/-! DEFINITION. Copy channels, windows, quarry streams, colours and format windows (R330-R353). -/

namespace Sys2Proof.Machine

open State (cpF cpS copyAt copySrc copyDst copyTotal freeCopyEnt pushCopy csScope winRange bankTile
  slotBytes engAgent)

/-! ### Copies (R330-R335) -/

/-- CS and FUT of a copy or subscription descriptor (R331, R341). -/
def cCs (d : BitVec 512) : Nat := cpF d 5 4 2
def cFut (d : BitVec 512) : Word := W (cpF d 6 5 59 * 2 ^ 5)

/-- MBZ and scope conditions that every descriptor with REC, CS and FUT in words 5 and 6 has (R283). -/
def recMbz (d : BitVec 512) : List (Option Nat) := [lowSet d 320 4, posIf (cCs d == 0) 324, lowSet d 384 5]

/-- Where the destination of a copy lies, from DST on: its lowest byte and its highest one (R331, R334). -/
def copySpan (d : BitVec 512) : Int × Int :=
  let p : Int := cpF d 2 40 16 * cpS d 4 32
  let r : Int := cpF d 2 24 16 * cpS d 4 0
  (min p 0 + min r 0, max p 0 + max r 0 + cpF d 2 0 24)

/-- The address of the highest byte at and below which every byte is covered, in the private alias (R335). -/
def copyMark (y : Copy) : Word :=
  let n := copyTotal y.desc
  if y.pos < n then W (2 ^ 60 + Bits (copyDst y.desc y.pos) 0 22) - 1 else W (2 ^ 60 + Bits (copyDst y.desc (n - 1)) 0 22)

/-- Is the copy at its end? -/
def copyOver (y : Copy) : Bool := y.fault.isSome || (y.run && y.pos == copyTotal y.desc)

/-- Does the copy keep a watermark? -/
def copyWmon (y : Copy) : Bool := cpF y.desc 7 0 1 == 1

/-- Bytes that the next move of a copy carries: within a run and within 64 aligned bytes of the destination, so that an
aligned word there is written whole (R332). -/
def copyChunk (d : BitVec 512) (pos : Nat) : Nat :=
  let b := (copyAt d pos).2.2
  Nat.min (cpF d 2 0 24 + 1 - b) (64 - (copyDst d pos).toNat % 64)

/-- DETAIL of a copy's JOB_MEM (R333): field 0 SRC, 2 DST. -/
def copyDetail (d : BitVec 512) (pos field : Nat) : Nat := field + pos / (cpF d 2 0 24 + 1) % 2 ^ 30 * 4

/-- Id of a copy of a channel (R330). -/
def copyId (c : Channel) (ch ent : Nat) : Nat := (getD ({} : CopyDone) c.ents ent).gen + ent * 2 ^ 10 + ch * 2 ^ 13

namespace State

/-- Is every byte from one offset to another of a tile in SCRATCH banks of an ASID (R177)? -/
def inScratch (s : State) (tid : Nat) (span : Int × Int) (asid : BitVec 10) : Bool :=
  let lo := span.1.toNat
  let hi := span.2.toNat
  decide (0 ≤ span.1) && decide (hi < 2 ^ 22) && (List.range (hi / 2 ^ 17 - lo / 2 ^ 17 + 1)).all fun i =>
    let k := (s.tile tid).bank (lo / 2 ^ 17 + i)
    k.mode == .scratch && k.asid == asid

/-- A breach of R334 by a copy with WMON on a tile. -/
def wmonBad (s : State) (tid : Nat) (asid : BitVec 10) (d : BitVec 512) : Option Nat :=
  let dst := W (cpF d 1 0 64)
  let t := bankTile tid dst
  let place := (Bits dst 60 4 == 1 && Bits dst 22 38 == 0) ||
    (Bits dst 60 4 == 2 && Bits dst 35 25 == 0 && decide (Bits dst 22 7 ≤ 111) && s.live t)
  let ds1 := cpS d 4 0
  let ds2 := cpS d 4 32
  let l0 := cpF d 2 0 24
  let n1 := cpF d 2 24 16
  let at_ : Int := Bits dst 0 22
  let span := copySpan d
  if cpF d 7 0 1 = 0 then none
  else lowestOf [posIf (!place || !s.inScratch t (at_ + span.1, at_ + span.2) asid) 64,
    posIf (n1 != 0 && decide (ds1 < (l0 : Int) + 1)) 256,
    posIf (cpF d 2 40 16 != 0 && decide (ds2 < (n1 : Int) * ds1 + l0 + 1)) 288]

/-- Check 4 of R303 for a copy descriptor (R331, R334, R346). -/
def copyBad (s : State) (tid : Nat) (asid : BitVec 10) (d : BitVec 512) : Option Nat :=
  lowestOf ([lowSet d 184 8, lowSet d 469 43, posIf (decide (1 < cpF d 7 19 2)) 467,
    (if cpF d 7 19 2 = 0 then lowSet d 449 18 else if cpF d 7 19 2 = 1 then lowSet d 465 2 else none),
    s.wmonBad tid asid d] ++ recMbz d)

/-- The copy of an id, if it is live (R330). -/
def findCopy (s : State) (tid id : Nat) : Option Copy :=
  let c := s.chan tid (id / 2 ^ 13 % 8)
  let e := getD ({} : CopyDone) c.ents (id / 2 ^ 10 % 8)
  if e.live && e.gen == id % 2 ^ 10 then c.queue.find? fun y => y.ent == id / 2 ^ 10 % 8 else none

/-- Is a copy live? -/
def copyLive (s : State) (tid id : Nat) : Bool := (s.findCopy tid id).isSome

/-- The head of a channel's queue is replaced. -/
def setHead (s : State) (tid ch : Nat) (y : Copy) : State :=
  s.modChan tid ch fun c => { c with queue := match c.queue with | [] => [] | _ :: r => y :: r }

/-- A read of n bytes by a copy within 64 aligned bytes; every guard holds it, its own too (R335). -/
def copyReadAt (s : State) (tid : Nat) (y : Copy) (ea : Word) (n : Nat) : JM (Nat × State) := do
  let a := engAgent tid y.asid
  let detail := copyDetail y.desc y.pos 0
  let (v, f, s) ← jacc detail (do
    let (l, s) ← s.resolve a .load ea 1
    s.loadAt a l ea n)
  if f.isSome then jfail .jobMem detail else .ok (v, s)

/-- The bytes that the next move of a copy carries (R332). -/
def copyRead (s : State) (tid : Nat) (y : Copy) (n : Nat) : JM (Nat × State) := do
  let ea := copySrc y.desc y.pos
  let k := Nat.min n (64 - ea.toNat % 64)
  let (lo, s) ← s.copyReadAt tid y ea k
  if k = n then .ok (lo, s)
  else
    let (hi, s) ← s.copyReadAt tid y (ea + W k) (n - k)
    .ok (lo + 2 ^ (8 * k) * hi, s)

/-- A write of the copy at the head of a channel: it waits for the guards of other copies (R211), unless it keeps a watermark
itself, since a byte in the ranges of two copies waits until both cover it (R335; log 51). -/
def copyWrite (s : State) (tid : Nat) (y : Copy) (n v : Nat) : JM State :=
  let ea := copyDst y.desc y.pos
  let a := engAgent tid y.asid
  let bad {α : Type} : JM α := jfail .jobMem (copyDetail y.desc y.pos 2)
  match s.resolve a .store ea 1 with
  | .error _ => bad
  | .ok (.bank t o, s) => match s.touchFor a t o n with
    | .error _ => bad
    | .ok s =>
      if !copyWmon y && s.underGuard t o n then .error (.wait s)
      else match s.winFault t o n with
        | some _ => bad
        | none => .ok ((if t = tid then s else s.packet).bankStore t o n v)
  | .ok (.peer p o, s) =>
    if s.peerUp p then .ok (s.peerStore p o n v (cpF y.desc 2 0 24 == 63 && n == 64)) else bad
  | .ok (l, s) => match s.storeAt a l ea n v with
    | .ok (none, s) => .ok s
    | _ => bad

/-- Contexts that wait on a copy's watermark are answered (R349). -/
def serveMarks (s : State) (tid : Nat) : State :=
  (s.ctxs.map (·.1)).foldl (fun s id => match (s.ctx id).wait, (s.ctx id).answer with
    | .mark t k lvl, .none =>
      if t ≠ tid then s
      else match s.findCopy tid k with
        | none => s.answer id (.val (BitVec.allOnes 64))
        | some y => if lvl.ule (copyMark y) then s.answer id (.val (copyMark y)) else s
    | _, _ => s) s

/-- The running copy of a channel moves up to 64 bytes, and its watermark advances (R211, R332, R335). -/
def moveCopy (s : State) (tid ch : Nat) (y : Copy) : State :=
  let n := copyChunk y.desc y.pos
  let r : JM State := do
    let (v, s) ← s.copyRead tid y n
    let s ← s.copyWrite tid y n v
    .ok ((s.engRelease tid .ti).setHead tid ch { y with pos := y.pos + n })
  match r with
  | .ok s => s.serveMarks tid
  | .error (.wait s) => s
  | .error (.flt f) => s.setHead tid ch { y with fault := some f }

/-- The fault word of a copy, a stream or a run: CODE, KIND, id and DETAIL (R286). -/
def engWord (f : Option Flt) (kind id : Nat) : Nat :=
  let (c, d) := match f with
    | some f => (f.code.num, f.info.toNat % 2 ^ 32)
    | none => (0, 0)
  c + kind * 2 ^ 8 + id % 2 ^ 16 * 2 ^ 16 + d * 2 ^ 32

/-- A copy at its end completes: record, mailbox, future, window, queue (R333, R337). -/
def endCopy (s : State) (tid ch : Nat) (y : Copy) : State :=
  let id := copyId (s.chan tid ch) ch y.ent
  let st := b2n y.fault.isSome
  let w0 := id + 0x3F * 2 ^ 16 + st * 2 ^ 22 + y.asid.toNat * 2 ^ 26
  let word := engWord y.fault 0x3F id
  let w1 := if st = 0 then 0 else word
  let o : FaultSrc := { src := 1, tid := tid, asid := y.asid }
  let finish (s : State) : State :=
    let s := s.engRelease tid (csScope (cCs y.desc))
    let s := s.modChan tid ch fun c =>
      let e := getD ({} : CopyDone) c.ents y.ent
      { queue := c.queue.drop 1, ents := put y.ent { e with live := false, mgen := e.gen, st := st, cs := cCs y.desc } c.ents }
    let s := match y.fut with
      | none => s
      | some pa => (s.engRelease tid .mo).unitResolve pa (st == 0) (W (if st = 0 then w0 else w1))
          { tid := tid, core := 0, ctx := 15, kind := 1, asid := y.asid } y.colour (chipOf (idTid y.sub)) o
    let s := match y.win with
      | none => s
      | some n => s.modEng tid fun e =>
        let w := getD ({} : Window) e.wins n
        { e with wins := put n { w with st := if st = 0 then .present else .failed } e.wins }
    (((s.queueDue tid).serveMarks tid).refreshJobs tid).sweepBanks
  let lost (s : State) : State :=
    s.sendFault (chipOf (idTid y.sub)) { code := .jobRecord, info := W word } o false false 0 (cRec y.desc) 0
  if y.win.isSome then finish s
  else
    let free := s.setHead tid ch { y with desc := y.desc &&& ~~~(BitVec.ofNat 512 (2 ^ 448)) }
    match free.store (engAgent tid y.asid) (cRec y.desc) 32 (w0 + w1 * 2 ^ 64 + y.pos % 2 ^ 64 * 2 ^ 192) with
    | .ok (none, s) => finish s
    | .ok (some _, s) => finish (lost s)
    | .error (.wait _ s) => s.setHead tid ch y
    | .error _ => finish (lost s)

end State

/-- CPY (R346). -/
def execCpy (d a : XReg) (c : PReg) (ch : Fin 8) (s : State) : Out :=
  s.run (do
    s.relGate
    let tid := s.myTid
    let (w, t) ← s.readDesc (s.rx a 0)
    match s.copyBad tid s.myAsid w with
    | some p => fail .jobDesc (W p)
    | none => do
      let (fut, t) ← t.recTargets tid s.myAsid (cRec w) (cFut w)
      let t := (t.release t.myCore .ti).kick tid (1 + ch.val) w.toNat
      match freeCopyEnt (t.chan tid ch.val) with
      | none => .ok (t.submitted d c 0)
      | some e =>
        let y : Copy := { ent := e, desc := w, asid := s.myAsid, colour := s.me.colour, sub := s.cur.id, fut := fut }
        let t := t.sendArm fut
        let t := (t.modChan tid ch.val fun k => pushCopy k y).refreshJobs tid
        .ok (t.submitted d c (copyId (t.chan tid ch.val) ch.val e)))

/-- COPY_START (R209, R330, R332): the oldest copy of channel v of tile u, once its DEP is ready. -/
def execCopyStart (s : State) : Out :=
  let s := s.refreshJobs s.cur.u
  .next (match (s.chan s.cur.u s.cur.v).queue with
    | [] => s
    | y :: _ =>
      if y.ready && !y.run && y.fault.isNone && !s.halts s.cur.u y.asid then
        ((s.workFor y.sub y.colour).engAcquire s.cur.u (if y.far then .mo else .ti)).setHead s.cur.u s.cur.v { y with run := true }
      else s)

/-- WATERMARK_ADVANCE (R211, R332): the running copy of channel v of tile u. -/
def execWatermarkAdvance (s : State) : Out :=
  .next (match (s.chan s.cur.u s.cur.v).queue with
    | [] => s
    | y :: _ => if y.run && !copyOver y && !s.halts s.cur.u y.asid then (s.workFor y.sub y.colour).moveCopy s.cur.u s.cur.v y else s)

/-- COPY_COMPLETION (R333): the oldest copy of channel v of tile u. -/
def execCopyCompletion (s : State) : Out :=
  .next (match (s.chan s.cur.u s.cur.v).queue with
    | [] => s
    | y :: _ => if copyOver y then (s.workFor y.sub y.colour).endCopy s.cur.u s.cur.v y else s)

/-! ### Windows (R337-R340, R347, R348) -/

/-- A breach of R338 by a window descriptor, for an ASID on a tile. -/
def State.winBad (s : State) (tid : Nat) (asid : BitVec 10) (d : BitVec 256) : Option Nat :=
  let v := d.toNat
  let low (lo n : Nat) : Option Nat :=
    let x := v / 2 ^ lo % 2 ^ n
    if x = 0 then none else some (lo + ctzN n x)
  let r := winRange { desc := d }
  lowestOf [low 0 6, low 22 38, posIf (v / 2 ^ 60 % 16 != 1) 60, low 124 4, low 153 39, low 224 32,
    posIf (!s.inScratch tid ((r.1 : Int), (r.2 : Int)) asid) 0]

/-- A window's state as WINCLR answers it (R348). -/
def winCode : WinSt → Nat
  | .free => 0 | .absent => 1 | .filling => 2 | .present => 3 | .failed => 4

/-- WINSET (R347). -/
def execWinset (d a : XReg) (win : Fin 32) (s : State) : Out :=
  s.run (do
    let tid := s.myTid
    let (v, t) ← s.loadHeld s.agent (s.rx a 0) 32
    let w : BitVec 256 := BitVec.ofNat 256 v
    match s.winBad tid s.myAsid w with
    | some p => fail .winDesc (W p)
    | none =>
      if (getD ({} : Window) (s.tile tid).eng.wins win.val).st ≠ .free then .ok (t.wx d 1)
      else
        let k : Window := { st := .absent, asid := s.myAsid, desc := w }
        .ok ((t.modEng tid fun e => { e with wins := put win.val k e.wins }).wx d 0))

/-- WINCLR (R348). -/
def execWinclr (d : XReg) (win : Fin 32) (s : State) : Out :=
  s.run (do
    let tid := s.myTid
    let w := getD ({} : Window) (s.tile tid).eng.wins win.val
    failIf (w.st != .free && w.asid != s.myAsid) .bankAsid s.openWord
    if w.st = .filling then .error (.wait (.window tid win.val) s)
    else
      let t := s.modEng tid fun e => { e with wins := del win.val e.wins }
      .ok ((t.refreshJobs tid).wx d (W (winCode w.st))))

/-! ### WMARK (R349) -/

/-- The oldest live copy of a channel that keeps a watermark. -/
def State.oldestMark (s : State) (tid ch : Nat) : Option Copy := (s.chan tid ch).queue.find? copyWmon

/-- WMARK .rd (R345, R349): it neither parks nor holds its context, so that its result is a long-latency one (R77). -/
def execWmarkRd (d : XReg) (ch : Fin 8) (s : State) : Out :=
  s.run (.ok (s.wlong (.x d (match s.oldestMark s.myTid ch.val with
    | some y => copyMark y
    | none => BitVec.allOnes 64))))

/-- WMARK .wt (R349). -/
def execWmarkWt (d a : XReg) (ch : Fin 8) (s : State) : Out :=
  let tid := s.myTid
  let done (w : Word) : M State := .ok ((s.acquire s.myCore .ti).wx d w)
  s.run (match s.me.answer with
    | .val w => done w
    | .flt f => .error (.flt f)
    | .none =>
      match s.oldestMark tid ch.val with
      | none => done (BitVec.allOnes 64)
      | some y =>
        let lvl := s.rx a 0
        if lvl.ule (copyMark y) then done (copyMark y)
        else .error (.wait (.mark tid (copyId (s.chan tid ch.val) ch.val y.ent) lvl) s))

/-- WMARK .cw (R349). -/
def execWmarkCw (d a : XReg) (s : State) : Out :=
  let tid := s.myTid
  let id := Bits (s.rx a 0) 0 16
  s.run (do
    failIf (id % 2 ^ 10 == 0) .jobId s.openWord
    if s.copyLive tid id then .error (.wait (.copy tid id) s)
    else
      let e := getD ({} : CopyDone) (s.chan tid (id / 2 ^ 13)).ents (id / 2 ^ 10 % 8)
      if e.mgen = id % 2 ^ 10 then .ok ((s.acquire s.myCore (csScope e.cs)).wx d (W e.st))
      else .ok ((s.acquire s.myCore .sy).wx d 3))

/-! ### Streams (R341, R342, R350, R351) -/

/-- Bytes of a tile, number of tiles, and whether the stream stores (R341). -/
def subLines (d : BitVec 512) : Nat := cpF d 2 0 5 + 1
def subTiles (d : BitVec 512) : Nat := cpF d 2 6 24 + 1
def subStores (d : BitVec 512) : Bool := cpF d 2 5 1 == 1

/-- Address of tile t (R341). -/
def subTile (d : BitVec 512) (t : Nat) : Word :=
  let na := cpF d 2 30 16 + 1
  W (cpF d 0 0 64) + W (t % na) * W (cpF d 3 0 64) + W (t / na) * W (cpF d 4 0 64)

/-- RING, and the bank of the ring. -/
def subRing (d : BitVec 512) : Word := W (cpF d 1 0 64)
def subBank (d : BitVec 512) : Nat := Bits (subRing d) 17 5

/-- Check 4 of R303 for a subscription descriptor, beside the ring (R341, R350). -/
def subBad (d : BitVec 512) : Option Nat :=
  lowestOf ([lowSet d 0 6, lowSet d 60 4, lowSet d 174 18, lowSet d 192 6, lowSet d 256 6, lowSet d 448 64] ++ recMbz d)

/-- Id of a subscription (R341). -/
def subId (q entry gen : Nat) : Nat := q + entry * 2 ^ 6 + gen * 2 ^ 14

namespace State

def sub (s : State) (q e : Nat) : Sub := getD {} (s.quarry q).subs e
def setSub (s : State) (q e : Nat) (u : Sub) : State := s.modQuarry q fun k => { k with subs := put e u k.subs }

/-- The lines of tile t of a stream, translated with the ENG flag (R166, R350). -/
def subPlaces (s : State) (tid : Nat) (asid : BitVec 10) (d : BitVec 512) (t : Nat) : M (List Nat × State) :=
  (List.range (subLines d)).foldlM (fun (l, s) i => do
    let ea := subTile d t + W (64 * i)
    let (p, s) ← s.resolve (engAgent tid asid) (if subStores d then .store else .load) ea 64
    match p with
    | .mem pa => if s.underFwin pa 64 then fail .fwinAtomic ea else .ok (l ++ [pa / 64], s)
    | _ => fail .badPath ea) ([], s)

/-- Every tile of a stream is translated (R350). -/
def subCheck (s : State) (tid : Nat) (asid : BitVec 10) (d : BitVec 512) : M State :=
  (List.range (subTiles d)).foldlM (fun s t => do
    let (_, s) ← s.subPlaces tid asid d t
    .ok s) s

/-- Is the stream's ring still a ring of its ASID (R177)? -/
def subRingOk (s : State) (u : Sub) : Bool :=
  let k := (s.tile u.tid).bank (subBank u.desc)
  k.mode == .ring && k.asid == u.asid

/-- Offset in the bank SRAM of slot i of the stream's ring. -/
def subSlot (s : State) (u : Sub) (i : Nat) : Nat :=
  subBank u.desc * 2 ^ 17 + i * slotBytes (s.ring u.tid (subBank u.desc))

/-- A stream ends with a fault at its tile (R342). -/
def failSub (s : State) (q e : Nat) (u : Sub) : State :=
  s.setSub q e { u with fault := some { code := .jobMem, info := W u.t } }

/-- A slot that was taken and not consumed is FILLED again (R342). -/
def untake (s : State) (tid b i : Nat) : State :=
  s.modRing tid b fun r =>
    { r with slots := put i { r.slot i with st := .filled, mark := false } r.slots, filled := r.filled + 1,
             takeI := if r.takeI = (i + 1) % r.count then i else r.takeI }

/-- Tile u.t is moved through slot i (R342). -/
def subMove (s : State) (q e : Nat) (u : Sub) (i : Nat) : State :=
  let d := u.desc
  let b := subBank d
  match s.subPlaces (idTid u.sub) u.asid d u.t with
  | .error _ =>
    let s := if subStores d then s.untake u.tid b i else s
    s.failSub q e { u with slot := none }
  | .ok (pls, s) =>
    let off := s.subSlot u i
    let s := s.packet
    let s :=
      if subStores d then
        let s := pls.zipIdx.foldl (fun s (pl, j) =>
          s.homeStore pl (BitVec.ofNat 512 (s.bankLoad u.tid (off + 64 * j) 64)) (BitVec.allOnes 64)) s
        s.modRing u.tid b fun r => r.releaseSlot i
      else
        let s := (List.range (slotBytes (s.ring u.tid b) / 64)).foldl (fun s j =>
          s.bankStore u.tid (off + 64 * j) 64 (match pls[j]? with
            | some pl => (s.homeLine pl).toNat
            | none => 0)) s
        s.modRing u.tid b fun r => r.publishSlot i (s.profNfm u.asid) (attach q) false
    s.setSub q e { u with t := u.t + 1, slot := none }

/-- A write of a quarry unit of n bytes at an address of the submitter's tile, if it performs; a guarded byte makes it
wait, with the state as it then stands. -/
def quarryStore (s : State) (tid : Nat) (asid : BitVec 10) (ea : Word) (n v : Nat) : M (Bool × State) := do
  let a := engAgent tid asid
  let (l, s) ← s.resolve a .store ea n
  match l with
  | .mem pa =>
    .ok (true, s.homeStore (pa / 64) (BitVec.ofNat 512 (v * 2 ^ (8 * (pa % 64)))) (maskAt (pa % 64) n))
  | l => do
    let (f, s) ← s.storeAt a l ea n v
    .ok (f.isNone, s)

/-- A stream at its end completes: record, future, entry (R342). -/
def endSub (s : State) (q e : Nat) (u : Sub) : State :=
  let id := subId q e u.gen
  let st := if u.fault.isSome then 1 else if u.stop then 2 else 0
  let stop : Option Flt := match u.fault with
    | some f => some { f with info := W u.t }
    | none => if u.stop then some { code := .jobCancelled, info := W (Config.freeNat s.seq % 2 ^ 32) } else none
  let word := engWord stop 0x3E id
  let w0 := id % 2 ^ 16 + 0x3E * 2 ^ 16 + st * 2 ^ 22 + u.asid.toNat * 2 ^ 26 + id / 2 ^ 16 * 2 ^ 36
  let w1 := if st = 0 then 0 else word
  let o : FaultSrc := { src := 2, tid := attach q, asid := u.asid }
  let finish (s : State) : State :=
    let s := match u.fut with
      | none => s
      | some pa => s.unitResolve pa (st == 0) (W (if st = 0 then w0 else w1))
          { tid := attach q, core := 0, ctx := 15, kind := 2, asid := u.asid } u.colour (chipOf (idTid u.sub)) o
    (s.setSub q e { gen := u.gen }).sweepBanks
  let lost (s : State) : State :=
    s.sendFault (chipOf (idTid u.sub)) { code := .jobRecord, info := W word } o false false 0 (cRec u.desc) 0
  match s.quarryStore (idTid u.sub) u.asid (cRec u.desc) 32 (w0 + w1 * 2 ^ 64 + u.t * 2 ^ 192) with
  | .ok (true, s) => finish s
  | .ok (false, s) => finish (lost s)
  | .error (.wait _ s) => s
  | .error _ => finish (lost s)

/-- The next step of a stream (R342). -/
def stepSub (s : State) (q e : Nat) (u : Sub) : State :=
  if !u.live || s.halts u.tid u.asid then s
  else match u.slot with
    | some i => if s.subRingOk u then s.subMove q e u i else s.failSub q e { u with slot := none }
    | none =>
      if u.fault.isSome || u.stop || u.t = subTiles u.desc then s.endSub q e u
      else if u.asked then s
      else if !s.subRingOk u then s.failSub q e u
      else match s.subPlaces (idTid u.sub) u.asid u.desc u.t with
        | .error _ => s.failSub q e u
        | .ok (_, s) =>
          let s := s.setSub q e { u with asked := true }
          if subStores u.desc then s.engineRing u.tid (subBank u.desc) (.stake q e) true
          else s.engineRing u.tid (subBank u.desc) (.sclaim q e) false

end State

/-- SUBSCRIPTION_TILE_STEP (R342): entry v of quarry u. -/
def execSubscriptionTileStep (s : State) : Out :=
  let u := s.sub s.cur.u s.cur.v
  .next ((s.workFor u.sub u.colour).stepSub s.cur.u s.cur.v u)

/-- SUBSCR (R350). -/
def execSubscr (d a : XReg) (s : State) : Out :=
  s.run (do
    s.relGate
    let tid := s.myTid
    let (w, t) ← s.readDesc (s.rx a 0)
    match subBad w with
    | some p => fail .jobDesc (W p)
    | none => do
      let (fut, t) ← t.recTargets tid s.myAsid (cRec w) (cFut w)
      let (rt, b) ← s.ringBase (subRing w)
      failIf (decide (slotBytes (s.ring rt b) < 64 * subLines w)) .jobDesc 128
      let t ← t.subCheck tid s.myAsid w
      let (p, _) ← t.resolve (engAgent tid s.myAsid) (if subStores w then .store else .load) (subTile w 0) 64
      let q := match p with
        | .mem pa => quarryOf pa
        | _ => 0
      let t := ((t.release t.myCore .mo).kickQuarry q w.toNat).packet
      match (List.range 256).find? fun i => !(t.sub q i).live with
      | none => .ok (t.wx d 0)
      | some e =>
        let g := (t.sub q e).gen % 65535 + 1
        let u : Sub := { gen := g, live := true, desc := w, asid := s.myAsid, colour := s.me.colour, tid := rt,
                         sub := s.cur.id, fut := fut }
        .ok ((t.setSub q e u).wx d (W (subId q e g))))

/-- UNSUB (R351). -/
def execUnsub (d a : XReg) (s : State) : Out :=
  let id := s.rx a 0
  let q := Bits id 0 6
  let e := Bits id 6 8
  let u := s.sub q e
  let s := s.packet
  let done := u.slot.isNone && (u.fault.isSome || u.stop || u.t == subTiles u.desc)
  s.run (.ok (
    if !u.live || u.gen != Bits id 14 16 || Bits id 30 34 != 0 || done then s.wx d (W (2 ^ 32))
    else
      let t := s.modRing u.tid (subBank u.desc) fun r =>
        { r with claims := r.claims.filter (· != .sclaim q e), takes := r.takes.filter (· != .stake q e) }
      let t := match u.slot with
        | some i =>
          let w := t.workFor u.sub u.colour
          (if w.subRingOk u then w.subMove q e u i else w.failSub q e { u with slot := none }).workFor s.cur.sub s.cur.colour
        | none => t
      let k := t.sub q e
      (t.setSub q e { k with stop := true, asked := false }).wx d (W k.t)))

/-! ### Colours and format windows (R343, R352, R353) -/

/-- COLSET (R352). -/
def execColset (d : XReg) (c : Fin 16) (s : State) : Out :=
  s.run (do
    failIf (s.profField s.myAsid (128 + c.val) 1 == 0) .colourPerm (W c.val)
    .ok ((s.wx d (W s.me.colour.toNat)).modMe fun k => { k with colour := BitVec.ofNat 4 c.val }))

/-- R165 refuses an entry of a format window. -/
def fwinRefuses (e : EntryBits) : Bool :=
  let f := fmtOf false e
  f.kind == 2 || f.blk != 0 || eF e 36 2 == 3 || f.drm == 5 || f.drm == 7

/-- A TLB entry maps a byte of the granules from one number to another (R353). -/
def tlbMeets (e : TlbE) (lo hi : Nat) : Bool :=
  let pa := Bits e.leaf 12 45 * 2 ^ 12
  !Bit e.leaf 8 && decide (pa < (hi + 1) * 2 ^ 12) && decide (lo * 2 ^ 12 < pa + e.size)

/-- The check of R152 that an entry of a format window fails, SE before WE. -/
def fwinCheck (se we : EntryBits) : Option Nat :=
  match entryCheckOwn se with
  | some c => some c
  | none => entryCheckOwn we

/-- FWINSET (R353).  Its entries carry no number: ENT of the word of ILLEGAL_ENTRY is open (R152, R479; log 7).  An entry with
SCALE meets its own checks and is then refused, and two containers of unequal width refuse WE (R165; log 78). -/
def execFwinset (d a : XReg) (q : Fin 64) (w : Fin 16) (s : State) : Out :=
  s.run (do
    failIf (!s.priv) .privilege (s.encInfo 88 false)
    s.relGate
    let (v, t) ← s.loadHeld s.agent (s.rx a 0) 64
    let k : BitVec 512 := BitVec.ofNat 512 v
    let se : EntryBits := BitVec.ofNat 128 (jb k 128 128)
    let we : EntryBits := BitVec.ofNat 128 (jb k 256 128)
    let bad := fwinCheck se we
    failIf bad.isSome .illegalEntry (W (s.openWord.toNat % 2 ^ 5 + bad.getD 0 * 2 ^ 8))
    failIf (fwinRefuses se) .entryKind 128
    failIf (fwinRefuses we || containerBits (widthOf se) != containerBits (widthOf we)) .entryKind 256
    match lowestOf [lowSet k 0 12, lowSet k 57 7, lowSet k 64 12, lowSet k 121 7, lowSet k 385 127] with
    | some p => fail .winDesc (W p)
    | none =>
      let t := t.release t.myCore .sy
      let old := getD ({} : FWin) (t.quarry q.val).fwins w.val
      let new : FWin := { base := jb k 12 45, limit := jb k 76 45, se := se, we := we, v := jb k 384 1 == 1 }
      let t := t.modQuarry q.val fun x => { x with fwins := put w.val new x.fwins }
      let hit (e : TlbE) : Bool := (old.v && tlbMeets e old.base old.limit) || tlbMeets e new.base new.limit
      let t := t.keepPast ((t.tiles.map fun e => e.2.tlb.filter hit).flatten)
      let t : State := { t with tiles := t.tiles.map fun e => (e.1, { e.2 with tlb := e.2.tlb.filter fun x => !hit x }) }
      .ok (t.wx d (W (b2n old.v))))

end Sys2Proof.Machine
end

