-- ==== Sys2Proof/Machine/Tasks.lean ====
section
/-! DEFINITION. Meanings of the task family: sending, arrival, dequeue, regions, gangs (R256-R280). -/

namespace Sys2Proof.Machine

namespace State

/-! ### Sending (R259-R262, R275) -/

/-- A non-zero MBZ field of a header word (R257). -/
def hdrMbz (h : Word) : Bool := Bits h 27 5 != 0 || Bits h 48 16 != 0 || (!hdrRv h && hdrRid h != 0)

/-- Checks 3 to 7 of R259. -/
def sendChecks (s : State) (h : Word) : M Unit := do
  failIf (hdrMbz h) .taskMsg h
  failIf (!s.targetLive h) .taskTarget h
  failIf (s.targetSuper h && !s.priv) .taskTarget h
  failIf (!s.tileRight s.myAsid s.myTid (hdrTid h) 28) .taskPerm h
  failIf (hdrRv h && !s.regionOpen s.myAsid (hdrRid h)) .regionClosed h

/-- A 64-byte record that the context reads with a plain load on one of the given paths (R259, R275, R277). -/
def readRecord (s : State) (ea : Word) (paths : List Nat) : M (Vector Word 8 × State) := do
  failIf (ea.toNat % 64 == 0 && !paths.contains (Bits ea 60 4)) .badPath ea
  let (l, s) ← s.resolve s.agent .load ea 64
  s.accGate (Bits ea 60 4 == 2) l 64
  let (v, f, s) ← s.loadAt s.agent l ea 64
  match f with
  | some f => .error (.flt f)
  | none => .ok (words8 v, s)

/-- The context's message with its envelope (R258). -/
def myMsg (s : State) (w : Vector Word 8) : Msg :=
  { w := w, asid := s.myAsid, nfm := s.src.nfm, sender := s.myTid, colour := s.me.colour }

/-- A send of the context: released, counted, on its way; the context waits for the answer (R260, R273, R275). -/
def sendMsg (s : State) (w : Vector Word 8) (once : Bool) : M State :=
  let h := w[1]
  let s := s.release s.myCore .mo
  let s := if hdrRv h then s.countRegion s.myTid s.myAsid (hdrRid h) true else s
  let s := s.launchMsg (s.myMsg w) (if once then .once s.cur.id else .tsend s.cur.id)
  .error (.wait (.send none) s)

/-- A status that the fabric answers, or the first issue (R274). -/
def answered (s : State) (d : XReg) (start : M State) : Out :=
  s.run (match s.me.answer with
    | .val w => .ok (s.wx d w)
    | .flt f => .error (.flt f)
    | .none => start)

/-- TSEND and TSENDN (R275). -/
def sendFrom (s : State) (d a : XReg) (once : Bool) : Out :=
  s.answered d (do
    s.relGate
    let (w, t) ← s.readRecord (s.rx a 0) [0, 1, 2]
    s.sendChecks w[1]
    t.sendMsg w once)

end State

/-- TSEND (R275). -/
def execTsend (d a : XReg) (s : State) : Out := s.sendFrom d a false

/-- TSENDN (R275). -/
def execTsendn (d a : XReg) (s : State) : Out := s.sendFrom d a true

/-- TSELF (R280). -/
def execTself (d : XReg) (tgt : BitVec 58) (s : State) : Out :=
  s.answered d (do
    s.relGate
    let x7 := s.rx 7 7
    let h := W (Bits x7 16 32 * 2 ^ 16 + s.myCore)
    s.sendChecks h
    s.sendMsg #v[immTarget s.cur.pc tgt, h, s.rx 1 1, s.rx 2 2, s.rx 3 3, s.rx 4 4, s.rx 5 5, s.rx 6 6] true)

/-! ### MSEND (R276) -/

namespace State

/-- n bytes from an address, by 8 bytes: the checks of every piece come first. -/
def readBytes (s : State) (ea : Word) : Nat → M (Nat × State)
  | 0 => .ok (0, s)
  | n + 1 => do
    let (v, f, s) ← s.load s.agent ea 8
    match f with
    | some f => .error (.flt f)
    | none => do
      let (r, s) ← s.readBytes (ea + 8) n
      .ok (v + 2 ^ 64 * r, s)

/-- The tile that an ASID's message to a tile ends at, over the forwarding entries on its way (R444). -/
def forwarded (s : State) (a : BitVec 10) (tid : Nat) : Nat → Nat
  | 0 => tid
  | fuel + 1 => match find a.toNat (s.tile tid).fwd with
    | some t => s.forwarded a t fuel
    | none => tid

/-- The ring that MSEND names: tiles to which the ASID's state moved forward it, and the bank is checked once, where the
message ends (R177, R444); TK is needed (R276, R419). -/
def msendRing (s : State) (ea : Word) : M (Nat × Nat) := do
  let tid ← s.ringTile .rdwr ea true
  let tid := s.forwarded s.myAsid tid 8192
  let b ← s.ringBank tid ea
  if Bits ea 0 17 ≠ 0 || ((s.tile tid).bank b).mode ≠ .ring || (s.ring tid b).count = 0 then fail .ringAddr s.openWord
  else .ok (tid, b)

/-- MSEND fills the claimed slot and publishes it (R276). -/
def msendFill (s : State) (d : XReg) (tid b i : Nat) (src : Word) (len : Nat) : M State := do
  let n := slotBytes (s.ring tid b)
  let (v, s) ← s.readBytes src (len / 8)
  let s := (s.packetTo tid).bankStore tid (b * 2 ^ 17 + i * n) n v
  .ok ((s.modRing tid b fun r => r.publishSlot i s.src.nfm s.myTid true).wx d 0)

end State

/-- MSEND (R276). -/
def execMsend (d a b : XReg) (try_ : Bool) (len : BitVec 12) (s : State) : Out :=
  let ea := s.rx a 0
  let src := s.rx b 1
  let len := len.toNat
  s.run (do
    s.relGate
    let (tid, k) ← s.msendRing ea
    failIf (len % 8 != 0 || len == 0 || decide (State.slotBytes (s.ring tid k) < len)) .ringAddr ea
    failIf (Bits src 0 3 != 0) .misaligned src
    failIf (Bits src 60 4 != 0 && Bits src 60 4 != 1) .badPath src
    match s.me.answer with
    | .val i => s.msendFill d tid k i.toNat src len
    | .flt f => .error (.flt f)
    | .none => do
      let t := s.release s.myCore .mo
      if try_ && (s.ring tid k).freeN == 0 then .ok (t.wx d 1)
      else do
      let _ ← s.readBytes src (len / 8)
      let s := t
      match s.claimNow tid k with
      | some (i, s) => s.msendFill d tid k i src len
      | none =>
        .error (.wait (.ring tid k) (s.modRing tid k fun r => { r with claims := r.claims ++ [.msend s.cur.id] })))

/-! ### Gang records (R267-R269, R277) -/

namespace State

/-- Width and height of a launch record's rectangle. -/
def gangW (w1 : Word) : Nat := Bits w1 13 4 + 1
def gangH (w1 : Word) : Nat := Bits w1 17 4 + 1

/-- Does the rectangle lie in the grid (R277)? -/
def gangInGrid (w1 : Word) : Bool :=
  let o := Bits w1 0 13
  inGrid o && decide (tileX o + gangW w1 ≤ 112) && decide (tileY o + gangH w1 ≤ 64)

/-- Tiles of a rectangle at an origin, in ascending TID order. -/
def rectTiles (o w h : Nat) : List Nat :=
  (List.range (w * h)).map fun i => tidOf (tileX o + i % w) (tileY o + i / w)

/-- Core keys that a record names, ascending, without supervisor cores (R268). -/
def gangCores (s : State) (w1 : Word) : List Nat :=
  ((rectTiles (Bits w1 0 13) (gangW w1) (gangH w1)).map fun t =>
    ((List.range 8).filter fun c => Bit w1 (21 + c)).map fun c => t + c * 2 ^ 13).flatten.filter fun k => !s.isSuper k

/-- Rank of the i-th member of a core (R268). -/
def gangRank (w1 : Word) (core i : Nat) : Nat :=
  let o := Bits w1 0 13
  let dx := tileX (idTid core) - tileX o
  let dy := tileY (idTid core) - tileY o
  let bits := (List.range 8).filter fun c => Bit w1 (21 + c)
  let ci := (bits.filter fun c => decide (c < idCore core)).length
  ((dy * gangW w1 + dx) * bits.length + ci) * Bits w1 29 4 + i

/-- BADARG of a record (R277). -/
def gangBad (s : State) (w : Vector Word 8) : Bool :=
  let w1 := w[1]
  Bits w1 35 29 != 0 || Bits w1 21 8 == 0 || Bits w1 29 4 == 0 || decide (10 < Bits w1 29 4) || Bits w[2] 0 5 != 0 ||
    (s.gangCores w1).isEmpty

/-- The admission unit's answer to a record (R277). -/
def gangStatus (s : State) (w : Vector Word 8) : Nat :=
  let w1 := w[1]
  if s.gangBad w then 2
  else if !gangInGrid w1 then 3
  else if (rectTiles (Bits w1 0 13) (gangW w1) (gangH w1)).any fun t => !s.live t then 4
  else if 32 ≤ (s.chip (chipOf (Bits w1 0 13))).gangs.length then 1
  else 0

/-- The checks of a record's FUT, when the record is no BADARG: its physical address (R277). -/
def gangFut (s : State) (a : Agent) (w : Vector Word 8) : M (Option Nat × State) :=
  if s.gangBad w || w[2] = 0 then .ok (none, s)
  else do
    let (pa, s) ← s.futSite a .store w[2]
    .ok (some pa, s)

/-- A waiting record takes its place: in order of arrival, ties by the lower ORIGIN (R36, R269). -/
def insertGang (s : State) (g : Nat) (arr org : Nat) : List Nat → List Nat
  | [] => [g]
  | h :: r =>
    match find h s.gangs with
    | some k => if k.arr = arr && org < k.origin then g :: h :: r else h :: s.insertGang g arr org r
    | none => h :: s.insertGang g arr org r

/-- A record is accepted (R277). -/
def addGang (s : State) (w : Vector Word 8) (asid : BitVec 10) (colour : BitVec 4) (fut : Option Nat) : State :=
  let o := Bits w[1] 0 13
  let ci := chipOf o
  let g := s.gangNo
  let k : Gang := { w := w, asid := asid, colour := colour, fut := fut, ci := ci, arr := s.fab, tries := 0,
                    admitted := false, live := [], total := 0, origin := o }
  let s := { s with gangs := put g k s.gangs, gangNo := g + 1 }
  s.modChip ci fun c => { c with gangs := s.insertGang g s.fab o c.gangs }

end State

/-! ### Arrival (R261, R262, R344, R444) -/

namespace State

/-- A message is accepted at a tile, or refused (R261, R443). -/
def acceptAt (s : State) (tid : Nat) (m : Msg) : Option State :=
  let t := s.tile tid
  let h := m.w[1]
  let core := tid + hdrCore h * 2 ^ 13
  let q := (s.core core).queue
  if t.closed.contains m.asid.toNat then none
  else if t.frozen.contains m.asid.toNat then some (s.modTile tid fun t => { t with img := t.img ++ [m] })
  else if q.length < 64 && !(t.ovr.any fun o => hdrCore o.w[1] == hdrCore h) then
    some (s.modCore core fun c => { c with queue := c.queue ++ [m] })
  else if t.ovr.length < 256 then some (s.modTile tid fun t => { t with ovr := t.ovr ++ [m] })
  else none

/-- The tile to which a message goes on from this one (R444). -/
def forwardOf (s : State) (tid : Nat) (m : Msg) : Option Nat := find m.asid.toNat (s.tile tid).fwd

/-- Must the flight let an earlier one of its origin pass first (R262)? -/
def mustFollow (s : State) (n : Nat) (f : Flight) : Bool :=
  (s.flights.take n).any fun g => g.org == f.org && g.msg.w[1].toNat % 2 ^ 16 == f.msg.w[1].toNat % 2 ^ 16

/-- The head of a launch window's buffer is done with (R454, R455). -/
def popLaunch (s : State) (ci w : Nat) : State :=
  s.modChip ci fun c =>
    let l := getD {} c.win w
    { c with win := put w { l with buf := l.buf.drop 1, acc := l.acc + 1 } c.win }

/-- A launch window reports the answer of an admission unit in LAST (R455). -/
def setLast (s : State) (ci w code : Nat) : State :=
  s.modChip ci fun c => { c with win := put w { (getD ({} : LaunchWin) c.win w) with last := code } c.win }

/-- A gang record of a launch window reaches its admission unit (R455): LAST takes the answer. -/
def launchGang (s : State) (ci w : Nat) (m : Msg) : State :=
  let a : Agent := { tid := m.sender, core := none, asid := m.asid }
  match s.gangFut a m.w with
  | .error _ => s.setLast ci w 2
  | .ok (fut, t) =>
    let code := t.gangStatus m.w
    (if code = 0 then t.addGang m.w m.asid 0 fut else t).setLast ci w code

/-- The check of a launch that fails, if any (R263, R455 step 3). -/
def launchBad (s : State) (l : Launch) : Option Code :=
  let h := l.msg.w[1]
  if !s.targetLive h || (s.targetSuper h && !l.priv) then some .taskTarget
  else if !s.tileRight l.msg.asid l.msg.sender (hdrTid h) 28 then some .taskPerm
  else none

/-- The head of a window's buffer is checked and sent, unless it is on its way already (R455). -/
def serveWindow (s : State) (ci w : Nat) : Nat → State
  | 0 => s
  | fuel + 1 =>
    match (getD ({} : LaunchWin) (s.chip ci).win w).buf with
    | [] => s
    | l :: _ =>
      let h := l.msg.w[1]
      if s.flights.any fun f => f.org == .window ci w then s
      else if l.gang then ((s.launchGang ci w l.msg).popLaunch ci w).serveWindow ci w fuel
      else match s.launchBad l with
        | some c =>
          let s := s.sendCarry (chipOf (hdrTid h)) { code := c, info := h } { src := 4, tid := hdrTid h, asid := l.msg.asid } l.msg.w
          (s.popLaunch ci w).serveWindow ci w fuel
        | none =>
          if hdrRv h && !s.regionOpen l.msg.asid (hdrRid h) then
            s.launchMsg { l.msg with w := l.msg.w.set 1 (h &&& ~~~(W (0x1FF * 2 ^ 18))) } (.window ci w)
          else
            let s := if hdrRv h then s.countRegion l.msg.sender l.msg.asid (hdrRid h) true else s
            s.launchMsg l.msg (.window ci w)

/-- What a delivered or dropped message leaves at its origin (R262, R273). -/
def flightDone (s : State) (f : Flight) (accepted : Bool) : State :=
  let s := (s.uninject f.msg.sender f.msg.colour).dlv f.tid f.msg.colour
  match f.org with
  | .tsend id => s.answer id (.val 0)
  | .once id => s.answer id (.val (if accepted then 0 else 1))
  | .unit _ => s
  | .window ci w => (s.popLaunch ci w).serveWindow ci w 65

/-- Flight n reaches the NI it is on its way to (R261, R262). -/
def arriveFlight (s : State) (n : Nat) (f : Flight) : State :=
  match s.forwardOf f.tid f.msg with
  | some t => { s with flights := setNth s.flights n { f with tid := t } }
  | none =>
    match s.acceptAt f.tid f.msg with
    | some s => { s with flights := dropNth s.flights n }.flightDone f true
    | none =>
      match f.org with
      | .once _ =>
        let h := f.msg.w[1]
        let s := { s with flights := dropNth s.flights n }
        let s := if hdrRv h then
            s.modTile f.msg.sender fun t =>
              let k := f.msg.asid.toNat * 256 + hdrRid h
              let (a, b) := getD (0, 0) t.regs k
              { t with regs := put k ((a + 2 ^ 32 - 1) % 2 ^ 32, b) t.regs }
          else s
        s.flightDone f false
      | .tsend id =>
        let s := { s with flights := setNth s.flights n { f with resend := some (s.fab + 256) } }
        s.modCtx id fun c => { c with wait := .send (some (s.fab + 256)) }
      | _ => { s with flights := setNth s.flights n { f with resend := some (s.fab + 256), kept := true } }

/-- Flight n is sent again, when its time has come (R262). -/
def resendFlight (s : State) (p : Origin → Bool) : State :=
  let n := s.cur.u
  match s.flights[n]? with
  | some f =>
    match f.resend with
    | some t =>
      if s.fab < t || !p f.org then s
      else
        let s := { s with flights := setNth s.flights n { f with resend := none, tid := hdrTid f.msg.w[1] } }
        match f.org with
        | .tsend id => s.modCtx id fun c => { c with wait := .send none }
        | _ => s
    | none => s
  | none => s

end State

/-- TASK_MESSAGE_ARRIVAL (R261): flight u reaches its target's NI. -/
def execTaskMessageArrival (s : State) : Out :=
  .next (match s.flights[s.cur.u]? with
    | none => s
    | some f => if f.resend.isSome || s.mustFollow s.cur.u f then s else s.arriveFlight s.cur.u f)

/-- TSEND_RESEND (R262): flight u, of a parked TSEND. -/
def execTsendResend (s : State) : Out :=
  .next (s.resendFlight fun o => match o with | .tsend _ => true | _ => false)

/-- DEFERRED_RESEND (R262): flight u, of a home, an engine, the gleaner or an admission unit. -/
def execDeferredResend (s : State) : Out :=
  .next (s.resendFlight fun o => match o with | .unit _ => true | _ => false)

/-! ### Dequeue (R264, R265, R421, R429, R437, R447) -/

namespace State

/-- A run-queue entry frees: the oldest overflow message for the core takes it (R261). -/
def refillQueue (s : State) (core : Nat) : State :=
  let tid := idTid core
  if 64 ≤ (s.core core).queue.length then s
  else match (s.tile tid).ovr.findIdx? fun m => hdrCore m.w[1] == idCore core with
    | none => s
    | some n =>
      let m := (s.tile tid).ovr.getD n {}
      (s.modTile tid fun t => { t with ovr := dropNth t.ovr n }).modCore core fun c => { c with queue := c.queue ++ [m] }

/-- Every core of a tile takes messages from the overflow while it has free entries (R261). -/
def refillTile (s : State) (tid : Nat) : State :=
  (List.range (8 * 64)).foldl (fun s i => s.refillQueue (tid + i % 8 * 2 ^ 13)) s

/-- A pager restart takes the control context (R437): it resumes a task and starts none (R74, R183; log 74). -/
def restartPager (s : State) (core tid slot : Nat) (m : Msg) : State :=
  let pa := s.pagerSlot tid slot + 0x800
  let id := ctxOn core 0
  let base := match find pa s.saved with
    | some { parts := [.ctx _ c], .. } => c
    | _ => {}
  let frec := ((s.tile tid).pgused.find? fun u => u.1 == slot).bind (·.2)
  let s := s.restoreAt pa id { base with frec := none }
  let s := (s.dropSaved pa).modTile tid fun t => { t with pgused := t.pgused.filter fun u => u.1 != slot }
  match frec with
  | some r => if m.w[2] = 0 then s else s.halted id r.flt false 0
  | none => s

/-- A dequeued message starts what it names (R264, R421, R437, R447). -/
def startMsg (s : State) (core : Nat) (m : Msg) : State :=
  if (s.profile m.asid).isNone then
    s.sendCarry (chipOf (idTid core)) { code := .asidUnbound, info := s.openWord }
      { src := 5, tid := idTid core, core := idCore core, asid := m.asid } m.w
  else match m.kind with
    | .pager tid slot => s.restartPager core tid slot m
    | .quota tid slot ctx => s.restartQuota core tid slot ctx
    | _ => s.startTask core m

/-- May a message of the ASID be dequeued on a tile (R264, R443 step 1)? -/
def mayStart (s : State) (tid : Nat) (m : Msg) : Bool :=
  !(s.space m.asid.toNat).susp && !(s.tile tid).frozen.contains m.asid.toNat

/-- The quota restart whose context is free, in order of suspension (R264, R447). -/
def dueRestart (s : State) (core : Nat) : Option Nat :=
  (s.core core).qrest.findIdx? fun m => match m.kind with
    | .quota _ _ c => (s.ctx (ctxOn core c)).st == .free && (c != 0 || (s.core core).drain.isNone) && s.mayStart (idTid core) m
    | _ => false

/-- A core dequeues (R264, R429, R447). -/
def dequeue (s : State) (core : Nat) : State :=
  let c := s.core core
  let tid := idTid core
  let ci := chipOf tid
  let free := (s.ctx (ctxOn core 0)).st == .free && c.drain.isNone
  if !s.live tid then s
  else if free && s.isSuper core && !(s.chip ci).fq.isEmpty then
    match (s.chip ci).fq with
    | [] => s
    | m :: r => (s.modChip ci fun c => { c with fq := r }).startMsg core m
  else match s.dueRestart core with
    | some n => (s.modCore core fun c => { c with qrest := dropNth c.qrest n }).startMsg core (c.qrest.getD n {})
    | none =>
      if !free then s
      else match c.queue.findIdx? (s.mayStart tid) with
        | none => s
        | some n =>
          ((s.modCore core fun c => { c with queue := dropNth c.queue n }).refillQueue core).startMsg core
            (c.queue.getD n {})

end State

/-- TASK_DEQUEUE (R264): at core u. -/
def execTaskDequeue (s : State) : Out := .next (s.dequeue s.cur.u)

/-- FAULT_MESSAGE_RESEND (R429): the oldest waiting fault message of chiplet u. -/
def execFaultMessageResend (s : State) : Out :=
  let ci := s.cur.u
  let c := s.chip ci
  .next (match c.fwait with
    | [] => s
    | (m, t) :: r =>
      if s.fab < t then s
      else if c.fq.length < 64 then
        (s.packetOf m.colour).modChip ci fun c => { c with fq := c.fq ++ [m], fwait := r, fqT := some s.fab }
      else s.modChip ci fun c => { c with fwait := (m, s.fab + 256) :: r })

/-! ### Gangs (R267-R271, R277) -/

namespace State

/-- Helpers of a core that a gang may take, ascending (R269). -/
def gangFree (s : State) (core g : Nat) : List Nat :=
  let own := if (s.core core).drain = some g then (s.core core).rsv else []
  ((List.range 10).map (· + 1)).filter fun h =>
    (s.freeHelpers core).contains h || (own.contains h && (s.ctx (ctxOn core h)).st == .free)

/-- Does a gang go before another: by arrival, and by the lower ORIGIN among those that arrived together (R36)? -/
def gangBefore (a b : Nat × Gang) : Bool :=
  decide (a.2.arr < b.2.arr) || (a.2.arr == b.2.arr && (decide (a.2.origin < b.2.origin) ||
    (a.2.origin == b.2.origin && decide (a.1 < b.1))))

/-- A core is put into drain for a gang, unless it drains for an earlier one: free helpers are reserved, up to HLP, with
those that a later gang had (R36, R269). -/
def drainFor (s : State) (core : Nat) (g : Nat × Gang) : State :=
  let stands := match (s.core core).drain with
    | none => false
    | some h => match find h s.gangs with
      | some k => !gangBefore g (h, k)
      | none => false
  if stands then s
  else
    let s := s.modCore core fun c => { c with drain := none, rsv := [] }
    let r := (s.freeHelpers core).take (Bits g.2.w[1] 29 4)
    s.modCore core fun c => { c with drain := some g.1, rsv := r }

/-- Drain of a core ends; it drains then for the earliest of the gangs that wait for it so (R36, R269). -/
def endDrain (s : State) (core g : Nat) : State :=
  let s := if (s.core core).drain = some g then s.modCore core fun c => { c with drain := none, rsv := [] } else s
  (s.gangs.filter fun (e : Nat × Gang) =>
    e.1 != g && !e.2.admitted && e.2.drains && (s.gangCores e.2.w[1]).contains core).foldl (fun s e => s.drainFor core e) s

/-- A member starts (R46, R270, R426): helper h of a core, of rank n. -/
def startMember (s : State) (g : Nat) (k : Gang) (core h n : Nat) : State :=
  let id := ctxOn core h
  let x := (List.range 5).foldl (fun (x : Vector Word 64) i => setV x (i + 1) (k.w.toList.getD (i + 3) 0))
    ((Vector.replicate 64 (0 : Word)).set 6 (W n) |>.set 7 k.w[1])
  let c : Ctx :=
    { st := .ready, pc := k.w[0], x := x, ft := profileTable s k.asid, nfm := s.profNfm k.asid, colour := k.colour,
      cls := BitVec.ofNat 2 (Bits k.w[1] 33 2), srctr := BitVec.ofNat 128 (n * 2 ^ 64), asid := k.asid,
      gang := some (g, n), gap := (s.core core).cyc + 1 }
  let s := (s.setCtx id c).acquire core .mo
  match s.legal core k.asid k.w[0] 0 with
  | .ok t => t
  | .error (.flt f) => s.raiseAt id f
  | .error _ => s

/-- A gang is admitted: every taken helper becomes a member, and drain ends (R269, R270). -/
def admitGang (s : State) (g : Nat) (k : Gang) (cores : List Nat) : State :=
  let hlp := Bits k.w[1] 29 4
  let picks := cores.map fun c => (c, (s.gangFree c g).take hlp)
  let ids := (picks.map fun p => p.2.map fun h => ctxOn p.1 h).flatten
  let s := { s with gangs := put g { k with admitted := true, live := ids, total := ids.length } s.gangs }
  let s := s.modChip k.ci fun c => { c with gangs := c.gangs.filter (· != g) }
  let s := picks.foldl (fun s p =>
    ((List.range p.2.length).zip p.2).foldl (fun s (i, h) => s.startMember g k p.1 h (gangRank k.w[1] p.1 i)) s) s
  cores.foldl (fun s c => s.endDrain c g) s

/-- The attempt of a waiting gang (R269); it fails while a tile that it names is frozen for its ASID (log 82). -/
def attemptGang (s : State) (g : Nat) (k : Gang) : State :=
  let cores := s.gangCores k.w[1]
  let hlp := Bits k.w[1] 29 4
  if cores.all fun c => decide (hlp ≤ (s.gangFree c g).length) && !s.halts (idTid c) k.asid then s.admitGang g k cores
  else
    let late := decide (k.arr + 50 * Config.usCycles ≤ s.fab)
    let s := { s with gangs := put g { k with tries := k.tries + 1, drains := k.drains || late } s.gangs }
    if late then cores.foldl (fun s c => s.drainFor c (g, k)) s else s

/-- Is the attempt of a waiting gang due (R269)? -/
def gangDue (s : State) (g : Nat) : Bool :=
  match find g s.gangs with
  | some k => !k.admitted && decide (k.arr + k.tries * Config.usCycles ≤ s.fab)
  | none => false

/-- Does a gang whose attempt is due go before this one: an earlier one of its unit, or of any unit if the two compete for a
core (R36, R269)? -/
def gangWaits (s : State) (g : Nat) (k : Gang) : Bool :=
  s.gangs.any fun e => e.1 != g && s.gangDue e.1 && gangBefore e (g, k) &&
    (e.2.ci == k.ci || (s.gangCores e.2.w[1]).any (s.gangCores k.w[1]).contains)

/-- A launch record as GLAUNCH sends it (R277). -/
def gangRecord (w : Vector Word 8) (o : Option Word) : Vector Word 8 :=
  match o with
  | none => w
  | some b => w.set 1 (W (w[1].toNat / 2 ^ 13 * 2 ^ 13 + Bits b 0 13))

end State

/-- GLAUNCH (R277): a record outside paths 0 and 1 raises BAD_PATH (log 44). -/
def execGlaunch (d a : XReg) (o : Option XReg) (s : State) : Out :=
  let ea := s.rx a 0
  s.run (do
    s.relGate
    let (w, t) ← s.readRecord ea [0, 1]
    let w := State.gangRecord w (o.map fun b => s.rx b 1)
    let (fut, t) ← t.gangFut s.agent w
    let t := (t.release t.myCore .mo).packet
    let st := t.gangStatus w
    let t := if st = 0 then t.addGang w s.myAsid s.me.colour fut else t
    .ok (t.wx d (W st)))

/-- GANG_ADMISSION_ATTEMPT (R269): of gang u, in the order of arrival (R36). -/
def execGangAdmissionAttempt (s : State) : Out :=
  let g := s.cur.u
  .next (match find g s.gangs with
    | none => s
    | some k =>
      if !s.gangDue g || s.gangWaits g k then s else s.attemptGang g k)

/-! ### Regions (R38-R41, R272, R278, R279) -/

/-- RGOPEN (R278). -/
def execRgopen (d a : XReg) (s : State) : Out :=
  let ea := s.rx a 0
  s.run (do
    s.relGate
    let (pa, t) ← s.futSite s.agent .store ea
    let t := (t.release t.myCore .mo).pushHome t.myCore (pa / 64)
    let sp := t.space s.myAsid.toNat
    match (List.range 256).find? fun i => (find i sp.regions).isNone with
    | none => .ok (t.wx d 0x100)
    | some i =>
      if futSt (t.rawLoad pa 8) ≠ 0 then .ok (t.wx d 0x200)
      else
        let r : Region := { closed := false, fut := pa, mark := 0, prev := none, colour := s.me.colour, ci := chipOf s.myTid }
        .ok (((t.armFut pa).modSpace s.myAsid.toNat fun p => { p with regions := put i r p.regions }).wx d (W i)))

/-- RGCLOSE (R279). -/
def execRgclose (d : XReg) (rid : BitVec 8) (s : State) : Out :=
  s.run (do
    s.relGate
    let t := (s.release s.myCore .mo).packet
    let a := s.myAsid.toNat
    match find rid.toNat (t.space a).regions with
    | none => .ok (t.wx d 1)
    | some r =>
      let t := if r.closed then t else
        t.modSpace a fun p => { p with regions := put rid.toNat { r with closed := true, mark := t.waves } p.regions }
      .ok (t.wx d 0))

namespace State

/-- Totals of a region over the NIs, of 32 bits (R39, R232). -/
def regionTotals (s : State) (a r : Nat) : Nat × Nat :=
  s.tiles.foldl (fun n t =>
    let p := getD (0, 0) t.2.regs (a * 256 + r)
    ((n.1 + p.1) % 2 ^ 32, (n.2 + p.2) % 2 ^ 32)) (0, 0)

/-- One wave for one region: it resolves under R40. -/
def waveRegion (s : State) (w a rid : Nat) (r : Region) : State :=
  let (st, rt) := s.regionTotals a rid
  if r.closed && st == rt && decide (r.mark + 1 < w) && r.prev == some (w - 1, st, rt) then
    let s := s.modSpace a fun p => { p with regions := del rid p.regions }
    let s := { s with tiles := s.tiles.map fun (e : Nat × Tile) => (e.1, { e.2 with regs := del (a * 256 + rid) e.2.regs }) }
    s.unitResolve r.fut true (W st) { tid := 0, core := 0, ctx := 15, kind := 3, asid := BitVec.ofNat 10 a } r.colour r.ci
      { src := 3, asid := BitVec.ofNat 10 a }
  else s.modSpace a fun p => { p with regions := put rid { r with prev := some (w, st, rt) } p.regions }

/-- Sums of one colour at a wave, of 32 bits (R232, R344): a packet that a step carried all the way counts in both. -/
def waveColour (s : State) (c : Nat) : ColWave :=
  let (i, d) := s.tiles.foldl (fun n t =>
    let p := getD (0, 0, 0) t.2.cols c
    ((n.1 + p.2.1) % 2 ^ 32, (n.2 + p.2.2) % 2 ^ 32))
    ((getD 0 s.packets c + s.faultsHeld fun m => m.colour.toNat == c) % 2 ^ 32, getD 0 s.packets c % 2 ^ 32)
  let old := getD {} s.colT c
  { inj := i, dlv := d, flat := i == d && old.inj == i && old.dlv == d }

end State

/-- GLEANER_WAVE (R39, R40, R344): wave w comes 4 µs after the one before it. -/
def execGleanerWave (s : State) : Out :=
  let w := s.waves + 1
  if s.fab < 4 * Config.usCycles * w then .next s
  else
  let s := { s with waves := w, colT := (List.range 16).map fun c => (c, s.waveColour c) }
  .next (s.spaces.foldl (fun s e => e.2.regions.foldl (fun s r => s.waveRegion w e.1 r.1 r.2) s) s)

end Sys2Proof.Machine
end

