-- ==== Sys2Proof/Machine/Chain.lean ====
section
/-! DEFINITION. The expert chain and slot ranges (R354-R372): runs, shards, claim rounds, CHGO, CHSTAT, CHSTOP, RCSNAP,
SLOTCLM and the events of the chain. -/

namespace Sys2Proof.Machine

open State (engAgent csScope)

/-! ### The layer config block (R356, R357) -/

/-- Field [lo+n-1:lo] of word w of an LCB. -/
def lb (d : BitVec 8192) (w lo n : Nat) : Nat := d.toNat / 2 ^ (64 * w + lo) % 2 ^ n
/-- Word w. -/
def lw (d : BitVec 8192) (w : Nat) : Word := W (lb d w 0 64)

def lE (d : BitVec 8192) : Nat := lb d 0 0 8 + 1
def lK (d : BitVec 8192) : Nat := lb d 0 8 4
def lRenorm (d : BitVec 8192) : Bool := lb d 0 12 1 == 1
def lCap (d : BitVec 8192) : Nat := lb d 0 16 16 + 1
def lNt (d : BitVec 8192) : Nat := lb d 0 32 16 + 1
def lNout (d : BitVec 8192) : Nat := lb d 1 10 7 + 1
/-- Blocks of 512 tokens (R354). -/
def lBlocks (d : BitVec 8192) : Nat := (lNt d + 511) / 512
/-- Groups of 32 experts (R360). -/
def lGroups (d : BitVec 8192) : Nat := (lE d + 31) / 32
def lRec (d : BitVec 8192) : Word := W (lb d 13 6 58 * 2 ^ 6)
def lCs (d : BitVec 8192) : Nat := lb d 13 4 2
def lFut (d : BitVec 8192) : Word := W (lb d 14 5 59 * 2 ^ 5)
/-- Tile of group g (R357). -/
def lTile (d : BitVec 8192) (g : Nat) : Nat := d.toNat / 2 ^ (1024 + 16 * g) % 2 ^ 13
/-- First group and replicas of expert e (R357). -/
def lFirst (d : BitVec 8192) (e : Nat) : Nat := d.toNat / 2 ^ (4096 + 16 * e) % 2 ^ 8
def lRep (d : BitVec 8192) (e : Nat) : Nat := d.toNat / 2 ^ (4096 + 16 * e + 8) % 2 ^ 3 + 1
/-- Domain of an LCB as the low word of a claim without its TAG (R360, R372). -/
def lDom (d : BitVec 8192) : Nat := lb d 1 17 13 + lb d 1 30 4 * 2 ^ 13 + lb d 1 34 4 * 2 ^ 17
/-- Address of row slot i of expert e in an array of 512-byte rows. -/
def rowAt (base : Word) (d : BitVec 8192) (e i : Nat) : Word := base + W ((e * lCap d + i) * 512)

/-- The gate tile of a shard (R354). -/
def gateTile (tid : Nat) : Nat := if tid % 4 = 0 then tid + 1 else tid - 1

/-- Position of the lowest set bit of n bits of an LCB. -/
def lcbLow (d : BitVec 8192) (lo n : Nat) : Option Nat :=
  let v := d.toNat / 2 ^ lo % 2 ^ n
  if v = 0 then none else some (lo + ctzN n v)

namespace State

/-- Live V tiles of a domain, in ascending TID (R354, R372): those of its rectangle that lie in the grid (log 73). -/
def domTiles (s : State) (dom : Nat) : List Nat :=
  let o := dom % 2 ^ 13
  (rectTiles o (Nat.min (dom / 2 ^ 13 % 16 + 1) (112 - tileX o)) (Nat.min (dom / 2 ^ 17 % 16 + 1) (64 - tileY o))).filter fun t =>
    s.live t && tileKind t == .v

/-- Breaches of R357 by expert e. -/
def expertBad (s : State) (d : BitVec 8192) (e : Nat) : Option Nat :=
  let lo := 4096 + 16 * e
  if lE d ≤ e then lcbLow d lo 16
  else if lb d 1 38 8 < lFirst d e + lRep d e - 1 then some lo
  else lowestOf ([lcbLow d (lo + 11) 5] ++ (List.range (lRep d e)).map fun i =>
    let t := lTile d (lFirst d e + i)
    let dense := match tileKind t with | .d | .a => true | _ => false
    posIf (!(s.live t && dense && s.tileRight s.myAsid s.myTid t 29)) (1024 + 16 * (lFirst d e + i)))

/-- The lowest position of an LCB that breaks the third check of R368. -/
def lcbBad (s : State) (d : BitVec 8192) : Option Nat :=
  let ts := s.domTiles (lDom d)
  let addr := [2, 3, 4, 5, 7, 8, 10, 11, 12, 15].map fun w => lowestOf [lcbLow d (64 * w) 6, lcbLow d (64 * w + 60) 4]
  lowestOf ([posIf (lK d == 0 || decide (8 < lK d) || decide (lE d < lK d)) 8, lcbLow d 13 3, lcbLow d 58 6,
    lcbLow d 110 18, posIf (decide (191 < lb d 1 38 8)) 102, posIf (ts.isEmpty || ts.any fun t => !s.live (gateTile t)) 81,
    lcbLow d 384 6, lcbLow d 592 48, lcbLow d 832 4, posIf (lCs d == 0) 836, lcbLow d 892 4, lcbLow d 896 5] ++ addr ++
    (List.range 192).map (fun g => lcbLow d (1024 + 16 * g + 13) 3) ++ (List.range 256).map (s.expertBad d))

/-- The snapshots of FX, FG, FW and FY (R152, R289, R296, R368). -/
def lcbEntries (s : State) (d : BitVec 8192) : M (List Snap) := do
  let x ← s.snapEntry (some (lb d 0 48 5)) fun f => decide (f.width ≤ 16)
  let g ← s.snapEntry (some (lb d 0 53 5)) fun f => decide (f.width ≤ 16) && bEntryOk f
  let w ← s.snapEntry (some (lb d 1 0 5)) fun f => decide (f.width ≤ 16) && bEntryOk f
  let y ← s.snapEntry (some (lb d 1 5 5)) fun f => f.blk == 0 && decide (f.cbits ≤ 32)
  .ok [x, g, w, y]

/-- The 1,024 bytes of an LCB, by lines. -/
def readLcb (s : State) (ea : Word) : M (BitVec 8192 × State) := do
  failIf (ea.toNat % 1024 != 0) .misaligned ea
  failIf (Bits ea 60 4 != 0) .badPath ea
  let (v, s) ← s.loadLines s.agent ea 16
  .ok (BitVec.ofNat 8192 v, s)

/-- n lines from an address, writable by an agent and under no format window (R166, R368, R371). -/
def plainLines (s : State) (a : Agent) (ea : Word) (n : Nat) : M (List Nat × State) :=
  (List.range n).foldlM (fun (l, s) i => do
    let e := ea + W (64 * i)
    let (p, s) ← s.resolve a .store e 64
    match p with
    | .mem pa => if s.underFwin pa 64 then fail .fwinAtomic e else .ok (l ++ [pa], s)
    | _ => fail .badPath e) ([], s)

/-! ### Runs at a lead -/

def runAt (s : State) (lead tag : Nat) : Option Run := (s.tile lead).eng.leadq.find? fun r => r.tag == tag

/-- Runs that wait at a lead (R355). -/
def waitingRuns (s : State) (lead : Nat) : List Run := (s.tile lead).eng.leadq.filter fun r => !r.started

def setShard (s : State) (tid : Nat) (h : Option Shard) : State := s.modEng tid fun e => { e with shard := h }

/-- A fault of the chain's own work, or of the gate, ends the run (R366); the job id of the gate's job and the DETAIL of
the chain's own accesses are not stated (log 7). -/
def failRun (s : State) (h : Shard) (f : Flt) (kind : Nat) : State :=
  let w := f.code.num + kind * 2 ^ 8 + (if kind = 0x3D then h.tag else Config.freeNat s.seq % 2 ^ 16) * 2 ^ 16 +
    (if kind = 0x3D then Config.freeNat (s.seq + 1) % 2 ^ 32 else f.info.toNat % 2 ^ 32) * 2 ^ 32
  s.modRun h.lead h.tag fun r => { r with fault := some (r.fault.getD w) }

/-- What a move of a shard computes; a fault ends its run, a wait leaves it where it is. -/
def shardDo (s : State) (h : Shard) (kind : Nat) (m : JM State) : State :=
  match m with
  | .ok s => s
  | .error (.wait s) => s
  | .error (.flt f) => s.failRun h f kind

/-- The shard of a tile with its run, while the run goes on. -/
def shardRun (s : State) (tid : Nat) : Option (Shard × Run) :=
  match (s.tile tid).eng.shard with
  | none => none
  | some h => match s.runAt h.lead h.tag with
    | some r => if r.fault.isSome || s.halts tid r.asid then none else some (h, r)
    | none => none

/-! ### The gate (R359) -/

/-- The gate's job on a shard's gate tile: rows of tokens from `tok` on, n of them. -/
def gateJob (r : Run) (tok n : Nat) : Job :=
  let d := r.lcb
  let desc := ((lw d 2).toNat + 512 * tok) % 2 ^ 64 + (lw d 4).toNat * 2 ^ 64 + (n - 1) * 2 ^ 320 + (lE d - 1) * 2 ^ 329 +
    8 * 2 ^ 352 + (lK d + 2 ^ 4 + b2n (lw d 4 != 0) * 2 ^ 21) * 2 ^ 384
  { st := .running, kind := .mma, desc := BitVec.ofNat 512 desc, asid := r.asid, cls := r.cls, colour := r.colour,
    sub := r.sub, ents := [r.ents.getD 0 {}, {}, {}, {}], orm := 0, seq := 0, deps := [], fut := none,
    beats := 0, pos := 0, left := none, stop := none, ovr := false, arc := none, acc := [] }

/-- The bank of gate column c, and its place there (R359). -/
def gateBank (c : Nat) : Nat × Nat := (c / 128, c % 128)

/-- The banks of the gate tile that a unit of the gate reads: no other ASID's (R289). -/
def gateAlien (s : State) (g : Nat) (r : Run) (cols : Nat) : Option Nat :=
  let used := if cols < lE r.lcb then (if cols % 128 = 0 then [] else [cols / 128])
              else if 128 < lE r.lcb then [0, 1] else [0]
  used.find? fun b => (s.bbank g b).asid.any fun a => a != r.asid

/-- Gate column c goes to its bank of the gate tile (R295, R359). -/
def gateColumn (g : Nat) (r : Run) (c : Nat) (s : State) : JM State :=
  let j := { gateJob r 0 1 with kind := .grpmm }
  let (b, k) := gateBank c
  let s := if k = 0 then s.takeBank g b j (r.ents.getD 1 {}) else s
  loadColumn g j b k c 1 (lw r.lcb 3 + W (512 * c)) none s

/-- The gate tile's top-k state is the run's while its gate runs (R297, R359). -/
def gateTopk (s : State) (g : Nat) (r : Run) : State :=
  s.modTile g fun t =>
    if t.topk.asid = some r.asid && t.topk.k = lK r.lcb then t
    else
      let n : TopK := { k := lK r.lcb, asid := some r.asid, rows := [] }
      { t with topk := n }

/-- Row i of the gate: its top-k row, best first (R296, R297, R359). -/
def gateRow (tid : Nat) (r : Run) (j : Job) (i : Nat) (s : State) : JM (List TopE × State) := do
  let d := r.lcb
  let (a, s) ← aRow tid { j with kind := .grpmm } i 0 s
  let b0 := s.bbank tid 0
  let b1 := s.bbank tid 1
  let accs := (List.range (lE d)).map fun c => accStep a (bankCol (if c < 128 then b0 else b1) (c % 128)) zeroNum
  let tkb := lw d 4 != 0
  let (bias, s) ← biasWords tid j tkb (lE d) s
  let s := (s.gateTopk tid r).topRow tid j i (List.zipWith (fun a b => (toF32 (if tkb then a.add false b else a), toF32 a)) accs bias)
  .ok (getD [] (s.tile tid).topk.rows i, s)

/-- The weights of a token from its top-k row (R359). -/
def gateWeights (l : List TopE) : List (Nat × Nat) :=
  let rs := l.map fun e => ofF32 e.raw.toNat
  let m := maxRow rs
  let es := rs.map fun v => toF32 ((v.add false m.flip).exp)
  let t := ofF32 (sumTree es)
  List.zipWith (fun (e : TopE) (c : Nat) => (e.col, toF32 ((ofF32 c).div t))) l es

/-- Tokens of a shard's block: the first one, and how many (R354). -/
def blockOf (h : Shard) (r : Run) : Nat × Nat :=
  let tok := (h.round * r.shards.length + h.rank) * 512
  (tok, Nat.min 512 (lNt r.lcb - tok))

/-- The gate of a shard ends: it goes on to its claims with what it selected, or not at all (R359, R370). -/
def endGate (s : State) (tid : Nat) (h : Shard) : State :=
  let s := if h.gate.isSome then s.floorEnds (gateTile tid) else s
  s.setShard tid (some { h with gate := none })

/-- A unit of the gate: the next column, or the next row (R359). -/
def gateUnit (tid : Nat) (h : Shard) (r : Run) (i : Nat) (s : State) : JM State := do
  let g := gateTile tid
  let (tok, n) := blockOf h r
  if h.cols < lE r.lcb then do
    let s ← gateColumn g r h.cols s
    .ok (s.setShard tid (some { h with cols := h.cols + 1, gate := some (i, none) }))
  else do
    let (l, s) ← gateRow g r (gateJob r tok n) i s
    .ok (s.setShard tid (some { h with gate := some (i + 1, none), sel := h.sel ++ [(tok + i, gateWeights l)] }))

/-- A move of the gate's MMA on the gate tile: it begins, as any job of an idle engine, its next unit begins, takes a beat
or is performed, and it ends with its block routed (R209, R285, R293, R359, R389). -/
def gateMove (s : State) (tid : Nat) (h : Shard) (r : Run) : State :=
  let g := gateTile tid
  let at_ (x : Nat × Option Nat) (s : State) : State := s.setShard tid (some { h with gate := some x })
  match h.gate with
  | none =>
    if (s.jobsOf g).any fun e => e.2.st == .running then s
    else
      let t := (s.engAcquire g .mo).setShard tid (some { h with gate := some (0, none), sel := [] })
      s.attachFloor t g
  | some (i, none) =>
    if h.cols < lE r.lcb then at_ (i, some 1) s
    else if i < (blockOf h r).2 then at_ (i, some (planesA (fmtOf false (r.ents.getD 0 {}).e))) s
    else ((s.floorEnds g).modRun h.lead h.tag fun r => { r with routed := r.routed + (blockOf h r).2 }).setShard tid
      (some { h with st := .claim, gate := none, group := 0, pre := [], tot := [] })
  | some (i, some 0) =>
    let lost (f : Flt) : State := (s.endGate tid h).failRun h f 1
    match s.gateAlien g r h.cols with
    | some b => lost { code := .bankAsid, info := W b }
    | none => match gateUnit tid h r i s with
      | .ok s => s
      | .error (.wait s) => s
      | .error (.flt f) => lost f
  | some (i, some (b + 1)) =>
    let w := Nat.max r.cls 2
    match s.gateBeat g r.asid w with
    | none => s
    | some s => at_ (i, some b) (s.modRun h.lead h.tag fun r => { r with eu := r.eu + w })

end State

/-- CHAIN_GATE (R359): the shard of tile u. A stopped run routes no further block (R370), a failed one none at all. -/
def execChainGate (s : State) : Out :=
  let tid := s.cur.u
  .next (match (s.tile tid).eng.shard with
    | none => s
    | some h => match s.runAt h.lead h.tag with
      | none => s
      | some r =>
        let s := s.workFor r.sub r.colour
        if h.st ≠ .gate || s.halts tid r.asid || s.halts (gateTile tid) r.asid then s
        else if r.fault.isSome then s.endGate tid h
        else if r.stop && decide (r.last < h.round) then (s.endGate tid { h with st := .dispatch })
        else if r.stop || lBlocks r.lcb ≤ h.round * r.shards.length + h.rank then
          s.endGate tid { h with st := .claim, group := 0, sel := [], pre := [], tot := [] }
        else s.gateMove tid h r)

/-! ### Claim rounds (R360, R361, R365, R372) -/

namespace State

/-- Number of the round's tokens that selected an expert. -/
def demand (h : Shard) (e : Nat) : Nat := (h.sel.filter fun t => t.2.any fun x => x.1 == e).length

/-- The claim of a shard for an expert group (R360). -/
def shardClaim (h : Shard) (r : Run) : Claim :=
  { id := none, dom := lDom r.lcb, tag := h.tag * 2 ^ 16 + (h.round * lGroups r.lcb + h.group) % 2 ^ 16,
    dem := (List.range 32).map fun i => demand h (32 * h.group + i), out := 0 }

/-- Claim indices of a round's selections, tokens ascending (R361). -/
def claimIndices (h : Shard) : List (Nat × List (Nat × Nat × Nat)) :=
  (h.sel.foldl (fun (a : List (Nat × List (Nat × Nat × Nat)) × List (Nat × Nat)) t =>
    let l := t.2.map fun x => (x.1, x.2, getD 0 h.base x.1 + getD 0 h.pre x.1 + getD 0 a.2 x.1)
    let n := t.2.foldl (fun n x => put x.1 (getD 0 n x.1 + 1) n) a.2
    (a.1 ++ [(t.1, l)], n)) ([], [])).1

/-- An access of the chain unit (R366). -/
def chainAcc {α : Type} (m : M α) : JM α := jacc 0 m

/-- Route entries of a token are written (R358). -/
def writeRoute (tid : Nat) (r : Run) (t : Nat) (l : List (Nat × Nat × Nat)) (s : State) : JM State :=
  l.zipIdx.foldlM (fun s (x, i) =>
    s.jstore tid r.asid 0 (lw r.lcb 10 + W ((8 * t + i) * 8)) 8
      (x.1 + b2n (decide (x.2.2 < lCap r.lcb)) * 2 ^ 8 + 2 ^ 9 + x.2.2 % 2 ^ 16 * 2 ^ 10 + x.2.1 * 2 ^ 32)) s

/-- The counter of an expert takes a round's selections of a shard, in one step at its home (R365). -/
def countExpert (tid : Nat) (r : Run) (ts : List (Nat × List (Nat × Nat × Nat))) (e : Nat) (s : State) : JM State :=
  let sel := ts.flatMap fun t => t.2.filter fun x => x.1 == e
  if sel.isEmpty then .ok s
  else do
    let a := engAgent tid r.asid
    let (pas, s) ← chainAcc (s.plainLines a (lw r.lcb 15 + W (128 * e)) 2)
    let s := pas.foldl (fun s pa => s.agentHome a (pa / 64)) s
    let p0 := pas.getD 0 0
    let p1 := pas.getD 1 0
    let part := sel.foldl (fun c x => cellAdd c (ofF32 x.2.1)) 0
    let w := s.rawLoad p1 8
    let drops := (sel.filter fun x => decide (lCap r.lcb ≤ x.2.2)).length
    let s := s.rawStore p0 64 (cellMerge (s.rawLoad p0 64) part)
    .ok (s.rawStore p1 8 ((w % 2 ^ 32 + sel.length) % 2 ^ 32 + (w / 2 ^ 32 + drops) % 2 ^ 32 * 2 ^ 32))

/-- The end of a shard's claim round: route entries, counters, the next round (R358, R361, R365, R370). -/
def endRound (tid : Nat) (h : Shard) (r : Run) (s : State) : JM State := do
  let ts := claimIndices h
  let s ← ts.foldlM (fun s t => writeRoute tid r t.1 t.2 s) s
  let s ← if lw r.lcb 15 = 0 then (.ok s : JM State)
    else (List.range (lE r.lcb)).foldlM (fun s e => countExpert tid r ts e s) s
  let all := ts.flatMap (·.2)
  let adm := (all.filter fun x => decide (x.2.2 < lCap r.lcb)).length
  let s := s.modRun h.lead h.tag fun r => { r with adm := r.adm + adm, drop := r.drop + (all.length - adm) }
  let base := (List.range (lE r.lcb)).foldl (fun b e => put e (getD 0 h.base e + getD 0 h.tot e) b) []
  let rounds := (lBlocks r.lcb + r.shards.length - 1) / r.shards.length
  let more := decide (h.round + 1 < rounds) && !(r.stop && decide (r.last ≤ h.round))
  .ok (s.setShard tid (some { h with st := if more then .gate else .dispatch, round := h.round + 1, base := base,
                                     toks := h.toks ++ ts, sel := [] }))

end State

/-- CHAIN_CLAIM_ROUND (R360, R361): the shard of tile u posts its next claim, or ends its round. -/
def execChainClaimRound (s : State) : Out :=
  let tid := s.cur.u
  .next (match s.shardRun tid with
    | none => s
    | some (h, r) =>
      let s := s.workFor r.sub r.colour
      if h.st ≠ .claim || h.posted then s
      else if h.group < lGroups r.lcb then
        let s := (s.engRelease tid .mo).modEng tid fun e => { e with claims := e.claims ++ [State.shardClaim h r] }
        s.setShard tid (some { h with posted := true })
      else s.shardDo h 0x3D (State.endRound tid h r s))

namespace State

/-- Lines of a claim's result are stored for the context that claimed, and it is answered; what guarded bytes hold up is
left for a later round of the tile (R335, R372). -/
def claimLines (s : State) (a : Agent) (id : Nat) (out : Word) (v : Nat) : List Nat → State
  | [] => s.answer id (.val 0)
  | i :: l =>
    match s.storeHeld a (out + W (64 * i)) 64 (v / 2 ^ (512 * i) % 2 ^ 512) with
    | .ok s => s.claimLines a id out v l
    | .error (.flt f) => s.answer id (.flt f)
    | .error (.late f) => s.answer id (.flt f.flt)
    | .error (.wait _ t) => t.modEng a.tid fun e => { e with outs := e.outs ++ [(id, out, v, i)] }

/-- A context's claim is answered with its result from line i on (R372). -/
def answerClaim (s : State) (id : Nat) (out : Word) (v i : Nat) : State :=
  let c := s.ctx id
  (s.workFor id c.colour).claimLines { tid := idTid id, core := some (coreOf id), asid := c.asid } id out v
    ((List.range 4).drop i)

/-- A head claim is served: prefixes and totals of its demands, or a TAG mismatch (R372). -/
def serveHead (s : State) (tid : Nat) (c : Claim) (pre tot : List Nat) (same : Bool) : State :=
  let s := s.modEng tid fun e => { e with claims := e.claims.drop 1 }
  match c.id with
  | some id =>
    if same then
      let num (l : List Nat) : Nat := l.foldr (fun x acc => x % 2 ^ 32 + 2 ^ 32 * acc) 0
      s.answerClaim id c.out (num pre + num tot * 2 ^ 1024) 0
    else s.answer id (.val 1)
  | none => match (s.tile tid).eng.shard with
    | none => s
    | some h =>
      let s := s.engAcquire tid .mo
      if same then
        let ins (l : List (Nat × Nat)) (v : List Nat) : List (Nat × Nat) :=
          v.zipIdx.foldl (fun l (x, i) => put (32 * h.group + i) x l) l
        s.setShard tid (some { h with posted := false, group := h.group + 1, pre := ins h.pre pre, tot := ins h.tot tot })
      else s.setShard tid (some { h with posted := false })

/-- Sum of demand j over claims, modulo 2^32. -/
def sumDem (l : List Claim) : List Nat :=
  (List.range 32).map fun j => (l.foldl (fun n c => n + c.dem.getD j 0) 0) % 2 ^ 32

end State

/-- CLAIM_ROUND (R372): of the domain that the head claim of tile u carries; a result that guarded bytes held up goes on
first. -/
def execClaimRound (s : State) : Out :=
  .next (match (s.tile s.cur.u).eng.outs, (s.tile s.cur.u).eng.claims with
    | (id, out, v, i) :: l, _ => (s.modEng s.cur.u fun e => { e with outs := l }).answerClaim id out v i
    | [], [] => s
    | [], c :: _ =>
      let ts := s.domTiles c.dom
      let heads := ts.map fun t => (t, (s.tile t).eng.claims.head?)
      if !ts.contains s.cur.u || heads.any (fun x => (x.2.map (·.dom)) != some c.dom) then s
      else
        let cs : List (Nat × Claim) := heads.filterMap fun x => x.2.map fun k => (x.1, k)
        let same := cs.all fun x => x.2.tag == c.tag
        let tot := State.sumDem (cs.map (·.2))
        cs.foldl (fun s x =>
          s.serveHead x.1 x.2 (State.sumDem ((cs.filter fun y => decide (y.1 < x.1)).map (·.2))) tot same) s)

/-! ### Dispatch, combine, completion (R362, R363, R366) -/

namespace State

/-- The token row at a place is copied to the staging rows of its admitted slots (R361). -/
def stageToken (tid : Nat) (r : Run) (t : Nat) (l : List (Nat × Nat × Nat)) (s : State) : JM State := do
  let (v, s) ← jloads tid r.asid 0 64 8 (lw r.lcb 2 + W (512 * t)) s
  l.foldlM (fun s x =>
    if x.2.2 < lCap r.lcb then jstores tid r.asid 0 64 8 (rowAt (lw r.lcb 11) r.lcb x.1 x.2.2) v s else .ok s) s

/-- The pieces of all replicas (R361, R362): slots of each expert by replica, at most 512 to a job. -/
def planPieces (d : BitVec 8192) (tot : List (Nat × Nat)) : List Piece :=
  (List.range (lE d)).flatMap fun e =>
    let a := Nat.min (getD 0 tot e) (lCap d)
    let c := (a + lRep d e - 1) / lRep d e
    (List.range (lRep d e)).flatMap fun q =>
      let n := Nat.min a ((q + 1) * c) - q * c
      (List.range ((n + 511) / 512)).map fun i =>
        let p : Piece := { expert := e, tid := lTile d (lFirst d e + q), lo := q * c + 512 * i, n := Nat.min 512 (n - 512 * i) }
        p

/-- The GRPMM of a piece (R300, R362) is submitted, if its tile's table has a free slot. -/
def sendPiece (s : State) (lead : Nat) (r : Run) (n : Nat) (p : Piece) : State :=
  let d := r.lcb
  let desc := (rowAt (lw d 11) d p.expert p.lo).toNat + (rowAt (lw d 12) d p.expert p.lo).toNat * 2 ^ 128 + 2 * 2 ^ 196 +
    (lNout d - 1) * 2 ^ 329 + 8 * 2 ^ 352 + 32 * 2 ^ 368
  let q : RemoteJob :=
    { id := r.sub, tid := p.tid, kind := .grpmm, desc := BitVec.ofNat 512 desc,
      ents := [r.ents.getD 0 {}, r.ents.getD 2 {}, {}, { e := fixedEntry 0, s := 0 }], orm := 0, cap := 0, cls := r.cls,
      colour := r.colour, sub := r.sub }
  let cols := (lw d 5).toNat + p.expert * (lw d 6).toNat
  match s.freeJob p.tid with
  | none => s
  | some slot =>
    let (_, s) := s.admitJob q r.asid none none
    let s := s.modTile p.tid fun t =>
      let k := t.slot slot
      { t with jobs := put slot { k with job := k.job.map fun j =>
        { j with chain := some (lead, r.tag, n), table := some (cols % 2 ^ 64 + (p.n * 2 ^ 9 + 8 * 2 ^ 19) * 2 ^ 64) } } t.jobs }
    s.modRun lead r.tag fun x => { x with pieces := x.pieces.map fun l => setNth l n { p with sent := true } }

/-- Have all shards of a run passed dispatch? -/
def allStaged (s : State) (r : Run) : Bool :=
  r.shards.all fun t => match (s.tile t).eng.shard with
    | some h => h.st == .combine || h.st == .done
    | none => false

end State

/-- CHAIN_DISPATCH (R361, R362): the shard of tile u stages its next token; the lead submits the next job. -/
def execChainDispatch (s : State) : Out :=
  let tid := s.cur.u
  .next (match s.shardRun tid with
    | none => s
    | some (h, r) =>
      let s := s.workFor r.sub r.colour
      if h.st = .dispatch then
        match h.toks[h.staged]? with
        | none => (s.engRelease tid .mo).setShard tid (some { h with st := .combine })
        | some t => s.shardDo h 0x3D (do
          let s ← State.stageToken tid r t.1 t.2 s
          .ok (s.setShard tid (some { h with staged := h.staged + 1 })))
      else if tid ≠ h.lead || !s.allStaged r then s
      else match r.pieces with
        | none =>
          s.modRun h.lead h.tag fun r => { r with pieces := some (State.planPieces r.lcb h.base) }
        | some l => match l.findIdx? fun p => !p.sent with
          | none => s
          | some n => s.sendPiece h.lead r n (l.getD n default))

namespace State

/-- Has the product of a slot been computed (R363)? -/
def productDone (r : Run) (e i : Nat) : Bool :=
  match r.pieces with
  | none => false
  | some l => l.any fun p => p.done && p.expert == e && decide (p.lo ≤ i) && decide (i < p.lo + p.n)

/-- The exact value of a cell (R226, R228). -/
def cellNum (c : Nat) : Num :=
  let g := cellFlags c
  let has (b : Nat) : Bool := g / b % 2 == 1
  if has cellNan || has cellOvf || (has cellPinf && has cellNinf) then .nan
  else if has cellPinf then .inf false
  else if has cellNinf then .inf true
  else .fin { neg := decide (cellSum c < 0), m := (cellSum c).natAbs, e := -160 }

/-- Output element c of a token (R363): products in pairs (weight, product), the dropped weights, the residual. -/
def combineEl (s : State) (r : Run) (prods : List (Num × Num)) (dropped : List Num) (res : Num) : Nat :=
  let fy := fmtOf false (r.ents.getD 3 {}).e
  let u := Config.freeNat s.seq
  let sum := prods.foldl (fun c x => cellAdd c (x.1.mul x.2)) 0
  if !lRenorm r.lcb then
    let d := dropped.foldl (fun a b => a.add false b) zeroNum
    cellRead (cellAdd sum (d.mul res)) fy r.rm u
  else if prods.isEmpty then fy.round r.rm u res
  else fy.round r.rm u ((cellNum sum).div (cellNum (prods.foldl (fun c x => cellAdd c x.1) 0)))

/-- The output row of a token (R363). -/
def combineToken (tid : Nat) (r : Run) (t : Nat) (l : List (Nat × Nat × Nat)) (s : State) : JM State := do
  let d := r.lcb
  let fy := fmtOf false (r.ents.getD 3 {}).e
  let cb := fy.cbytes
  let adm := l.filter fun x => decide (x.2.2 < lCap d)
  let dropped := (l.filter fun x => decide (lCap d ≤ x.2.2)).map fun x => ofF32 x.2.1
  let row (base : Word) : Word := base + W (t * lb d 9 0 16 * 16)
  let (vals, s) ← mapJ (fun c s => do
    let (ys, s) ← mapJ (fun i s => do
      let x := adm.getD i (0, 0, 0)
      let (y, s) ← s.jload tid r.asid 0 (rowAt (lw d 12) d x.1 x.2.2 + W (4 * c)) 4
      (.ok ((ofF32 x.2.1, ofF32 y), s) : JM ((Num × Num) × State))) (List.range adm.length) s
    let (v, s) ← if lw d 7 = 0 then (.ok (0, s) : JM (Nat × State)) else s.jload tid r.asid 0 (row (lw d 7) + W (c * cb)) cb
    let res := if lw d 7 = 0 then zeroNum else fy.decode v
    (.ok (s.combineEl r ys dropped res, s) : JM (Nat × State))) (List.range (lNout d)) s
  putEls tid r.asid 0 cb vals (row (lw d 8)) s

end State

/-- CHAIN_COMBINE (R363): the shard of tile u, its next token in order. -/
def execChainCombine (s : State) : Out :=
  let tid := s.cur.u
  .next (match s.shardRun tid with
    | none => s
    | some (h, r) =>
      let s := s.workFor r.sub r.colour
      if h.st ≠ .combine then s
      else match h.toks[h.comb]? with
        | none => (s.engRelease tid .mo).setShard tid (some { h with st := .done })
        | some t =>
          if t.2.any fun x => decide (x.2.2 < lCap r.lcb) && !State.productDone r x.1 x.2.2 then s
          else s.shardDo h 0x3D (do
            let s := s.engAcquire tid .mo
            let s ← State.combineToken tid r t.1 t.2 s
            let s := s.modRun h.lead h.tag fun r => { r with comb := r.comb + 1 }
            .ok (s.setShard tid (some { h with comb := h.comb + 1 }))))

namespace State

/-- Is the run at its end: stopped before its start, faulted with no job left, or combined (R366, R370)? -/
def runOver (s : State) (r : Run) : Bool :=
  if !r.started then r.stop
  else
    let idle := match r.pieces with
      | none => true
      | some l => l.all fun p => !p.sent || p.done
    if r.fault.isSome then idle
    else r.shards.all fun t => match (s.tile t).eng.shard with
      | some h => h.st == .done
      | none => false

/-- A run completes (R366). -/
def endChainRun (s : State) (lead : Nat) (r : Run) : State :=
  let st := if r.fault.isSome then 1 else if r.stop then 2 else 0
  let stopped : Option Flt := some { code := .jobCancelled, info := W (Config.freeNat s.seq % 2 ^ 32) }
  let word := match r.fault with
    | some w => w
    | none => engWord (if r.stop then stopped else none) 0x3D r.tag
  let w0 := r.tag + 0x3D * 2 ^ 16 + st * 2 ^ 22 + r.asid.toNat * 2 ^ 26
  let w1 := if st = 0 then 0 else word
  let o : FaultSrc := { src := 1, tid := lead, asid := r.asid }
  let finish (s : State) : State :=
    let s := s.engRelease lead (csScope (lCs r.lcb))
    let s := match r.fut with
      | none => s
      | some pa => (s.engRelease lead .mo).unitResolve pa (st == 0) (W (if st = 0 then w0 else w1))
          { tid := lead, core := 0, ctx := 15, kind := 1, asid := r.asid } r.colour (chipOf (idTid r.sub)) o
    let s := r.shards.foldl (fun s t => s.modEng t fun e =>
      { e with shard := none, claims := e.claims.filter fun c => c.id.isSome }) s
    s.modEng lead fun e => { e with leadq := e.leadq.filter fun x => x.tag != r.tag }
  let lost (s : State) : State :=
    s.sendFault (chipOf (idTid r.sub)) { code := .jobRecord, info := W word } o false false 0 (lRec r.lcb) 0
  let v := w0 + w1 * 2 ^ 64 + r.eu % 2 ^ 64 * 2 ^ 128 + (r.adm % 2 ^ 32 + r.drop % 2 ^ 32 * 2 ^ 32) * 2 ^ 192
  match s.store (engAgent lead r.asid) (lRec r.lcb) 32 v with
  | .ok (none, s) => finish s
  | .ok (some _, s) => finish (lost s)
  | .error (.wait _ s) => s
  | .error _ => finish (lost s)

/-- The first waiting run of a lead claims every chain unit of its domain, or tries again after a microsecond (R355). -/
def startRun (s : State) (lead : Nat) (r : Run) : State :=
  let ts := s.domTiles (lDom r.lcb)
  if ts.any fun t => (s.tile t).eng.shard.isSome then s.modRun lead r.tag fun r => { r with next := s.fab + Config.usCycles }
  else
    let s := ts.zipIdx.foldl (fun s (t, i) => (s.engAcquire t .mo).setShard t (some { lead := lead, tag := r.tag, rank := i, asid := r.asid })) s
    s.modRun lead r.tag fun r => { r with started := true, shards := ts }

end State

/-- CHAIN_RUN_COMPLETE (R366): the first run at its end, at lead u. -/
def execChainRunComplete (s : State) : Out :=
  .next (match (s.tile s.cur.u).eng.leadq.find? s.runOver with
    | none => s
    | some r => if s.halts s.cur.u r.asid then s else (s.workFor r.sub r.colour).endChainRun s.cur.u r)

/-- CHAIN_START_ATTEMPT (R355): the oldest waiting run at lead u. -/
def execChainStartAttempt (s : State) : Out :=
  .next (match (s.waitingRuns s.cur.u).find? fun r => !r.stop with
    | none => s
    | some r => if r.next ≤ s.fab && !s.halts s.cur.u r.asid then s.startRun s.cur.u r else s)

/-! ### CHGO, CHSTAT, CHSTOP (R368-R370) -/

/-- CHGO (R368). -/
def execChgo (d a : XReg) (s : State) : Out :=
  s.run (do
    s.relGate
    let (l, t) ← s.readLcb (s.rx a 0)
    match s.lcbBad l with
    | some p => fail .chainDesc (W p)
    | none => do
      let ents ← s.lcbEntries l
      let ts := s.domTiles (lDom l)
      let lead := ts.headD 0
      let (fut, t) ← t.recTargets lead s.myAsid (lRec l) (lFut l)
      let t ← (if lw l 15 = 0 then (.ok t : M State) else do
        let (_, t) ← t.plainLines (engAgent s.myTid s.myAsid) (lw l 15) (2 * lE l)
        .ok t)
      let rm ← s.drmOf (fmtOf false (ents.getD 3 {}).e) 67
      let t := match fut with
        | some pa => t.armFut pa
        | none => t
      let t := (t.release t.myCore .mo).kick lead 9 l.toNat
      if 4 ≤ (t.waitingRuns lead).length then .ok (t.wx d 0)
      else
        let tag := (t.tile lead).eng.ltag % 65535 + 1
        let r : Run := { tag := tag, lcb := l, asid := s.myAsid, cls := s.me.cls.toNat, colour := s.me.colour,
                         sub := s.cur.id, ents := ents, rm := rm, next := s.fab,
                         fut := fut }
        .ok ((t.modEng lead fun e => { e with ltag := tag, leadq := e.leadq ++ [r] }).wx d (W (lead * 2 ^ 16 + tag))))

namespace State

/-- The run that a run id names, if it is live (R369). -/
def namedRun (s : State) (w : Word) : M (Option (Nat × Run)) := do
  failIf (Bits w 0 16 == 0) .chainId s.openWord
  match (if Bits w 29 35 = 0 then s.runAt (Bits w 16 13) (Bits w 0 16) else none) with
  | none => .ok none
  | some r => if r.asid ≠ s.myAsid then fail .chainId s.openWord else .ok (some (Bits w 16 13, r))

end State

/-- CHSTAT (R369). -/
def execChstat (d a : XReg) (s : State) : Out :=
  s.run (do
    match ← s.namedRun (s.rx a 0) with
    | none => .ok (s.wx d 2)
    | some (_, r) =>
      let st := if s.runOver r || r.fault.isSome then 2 else if r.started then 1 else 0
      .ok (s.wx d (W (st + r.routed % 2 ^ 17 * 2 ^ 2 + r.comb % 2 ^ 17 * 2 ^ 19))))

/-- CHSTOP (R370): rounds whose claims some shard has begun go on. -/
def execChstop (d a : XReg) (s : State) : Out :=
  s.run (do
    match ← s.namedRun (s.rx a 0) with
    | none => .ok (s.wx d 2)
    | some (lead, r) =>
      if s.runOver r || r.fault.isSome then .ok (s.wx d 2)
      else
        let lastOf (t : Nat) : Nat := match (s.tile t).eng.shard with
          | some h => if h.st = .gate then h.round - 1 else h.round
          | none => 0
        let last := r.shards.foldl (fun n t => Nat.max n (lastOf t)) 0
        let begun := r.shards.any fun t => match (s.tile t).eng.shard with
          | some h => h.st != .gate || h.round != 0
          | none => false
        let r' : Run := { r with stop := true, last := if r.stop then r.last else last }
        let s' := s.modRun lead r.tag fun _ => r'
        let s' := if begun || r.stop then s' else
          r.shards.foldl (fun s t => s.modEng t fun e => { e with shard := e.shard.map fun h => { h with st := .dispatch } }) s'
        .ok (s'.wx d (W (b2n r.started))))

/-! ### RCSNAP and SLOTCLM (R371, R372) -/

/-- RCSNAP (R371). -/
def execRcsnap (d a b : XReg) (n : BitVec 8) (s : State) : Out :=
  let check (s : State) (ea : Word) : M (List Nat × State) := do
    failIf (ea.toNat % 64 != 0) .misaligned ea
    failIf (Bits ea 60 4 != 0) .badPath ea
    s.plainLines s.agent ea (2 * (n.toNat + 1))
  s.run (do
    s.relGate
    let (from_, t) ← check s (s.rx a 0)
    let (dest, t) ← check t (s.rx b 1)
    let t := t.release t.myCore .mo
    let t := (from_ ++ dest).foldl (fun t pa => t.pushHome t.myCore (pa / 64)) t
    let (t, total) := (List.range (n.toNat + 1)).foldl (fun (t, total) e =>
      let lines := [2 * e, 2 * e + 1]
      let vs := lines.map fun i => t.rawLoad (from_.getD i 0) 64
      let t : State := lines.foldl (fun t i => t.rawStore (from_.getD i 0) 64 0) t
      let t : State := (lines.zip vs).foldl (fun t (i, v) => t.rawStore (dest.getD i 0) 64 v) t
      (t, total + vs.getD 1 0 % 2 ^ 32)) (t, 0)
    .ok ((t.acquire t.myCore .mo).wx d (W total)))

/-- n lines from an address may be stored by the executing context. -/
def State.storable (s : State) (ea : Word) (n : Nat) : M State :=
  (List.range n).foldlM (fun t i => do
    let (_, t) ← t.resolve t.agent .store (ea + W (64 * i)) 64
    .ok t) s

/-- SLOTCLM (R372). -/
def execSlotclm (d a b : XReg) (s : State) : Out :=
  let ea := s.rx a 0
  let out := s.rx b 1
  match s.me.answer with
  | .flt f => s.finish (.error (.flt f))
  | .val v => s.run (.ok ((s.acquire s.myCore .mo).wx d v))
  | .none =>
    s.finish (do
      failIf (tileKind s.myTid != .v) .jobKind 0
      s.relGate
      failIf (ea.toNat % 64 != 0) .misaligned ea
      let (v, t) ← s.loadLines s.agent ea 3
      failIf (out.toNat % 64 != 0) .misaligned out
      let t ← t.storable out 4
      failIf (v / 2 ^ 53 % 2 ^ 459 != 0 || (s.domTiles (v % 2 ^ 21)).isEmpty) .claimDesc s.openWord
      let c : Claim := { id := some s.cur.id, dom := v % 2 ^ 21, tag := v / 2 ^ 21 % 2 ^ 32,
                         dem := (List.range 32).map fun j => v / 2 ^ (512 + 32 * j) % 2 ^ 32, out := out }
      let t := (t.release t.myCore .mo).modEng t.myTid fun e => { e with claims := e.claims ++ [c] }
      .error (.wait .held t))

end Sys2Proof.Machine
end

