-- ==== Sys2Proof/Machine/Control.lean ====
section
/-! DEFINITION. Meanings of the control family (R88-R100). -/

namespace Sys2Proof.Machine

namespace State

/-- The PC after the executing instruction (R88 nextpc). -/
def nextpc (s : State) : Word := seqPc s.cur.pc

/-- The transfer cycles of R83 are charged. -/
def withCost (s : State) (likely other : Nat) : State :=
  { s with cur := { s.cur with cost := if s.cur.hint = .likely then likely else other } }

/-- A PC-relative transfer to a target, taken (R83, R97). -/
def branchTo (s : State) (t : Word) : Act := do
  let s ← s.legalHere t
  .ok (.jump (s.withCost 0 3) t)

/-- A branch on a condition (R97). -/
def branchIf (s : State) (c : Bool) (t : Word) : Act :=
  if c then s.branchTo t else .ok (.done (s.withCost 3 0))

/-- A register transfer (R83, R98). -/
def regTo (s : State) (t : Word) : Act := do
  let s ← s.legalHere t
  .ok (.jump (s.withCost 2 4) t)

/-- Loop set n of the executing context is replaced. -/
def setLoop (s : State) (n : Fin 2) (f : LoopSet → LoopSet) : State :=
  s.modMe fun c => if n = 0 then { c with l0 := f c.l0 } else { c with l1 := f c.l1 }

/-- LOOP and LOOPI (R99): set n, end PC e, count. -/
def armLoop (s : State) (set : Fin 2) (e count : Word) : Act := do
  let st := s.nextpc
  failIf (e.ult st) .loopRange e
  let s ← s.legalHere st
  if count = 0 then
    let a := seqPc e
    let s ← s.legalHere a
    .ok (.keep (((s.setLoop set fun l => { l with lc := 0, armed := false }).withCost 0 3).goto a))
  else .ok (.done (s.setLoop set fun _ => { lc := count, ls := st, le := e, armed := true }))

/-- GETID (R95). -/
def idValue (s : State) (sel : Nat) : Word :=
  let c := s.me
  match sel with
  | 0 => W (idCtx s.cur.id)
  | 1 => W (idCore s.cur.id)
  | 2 => W s.myTid
  | 3 => W c.asid.toNat
  | 4 => c.childWord
  | 5 => c.l0.lc
  | 6 => c.l1.lc
  | 7 => (match c.region with
    | some r => W (256 + r.toNat)
    | none => 0)
  | 8 => (match c.gang with
    | some (g, _) => (match find g s.gangs with
      | some k =>
        W (2 ^ 16 + Bits k.w[1] 17 4 * 2 ^ 12 + Bits k.w[1] 13 4 * 2 ^ 8 +
          (tileY s.myTid - tileY k.origin) * 2 ^ 4 + (tileX s.myTid - tileX k.origin))
      | none => 0)
    | none => 0)
  | 9 => W (b2n s.priv)
  | _ => W c.cls.toNat

end State

/-- NOP (R90). -/
def execNop (s : State) : Out := s.finish (.ok (.done s))

/-- HALT (R33, R73, R82, R91): a late fault that has come stops it at once; only `.retain` of this HALT retains. -/
def execHalt (a : XReg) (retain : Bool) (s : State) : Out :=
  let t := s.modMe fun c => { c with retain := if retain && idCtx s.cur.id == 0 then some (s.rx a 0) else none }
  s.finish (
    if s.me.late.isNone && !State.haltReady s.me then .error (.wait .halt t)
    else .ok (.keep ((t.modMe fun c => { c with pc := s.cur.pc }).haltEnd s.cur.id)))

/-- SPAWN (R70-R72, R92). -/
def execSpawn (d a : XReg) (imm : BitVec 58) (s : State) : Out :=
  s.run (do
    let t := immTarget s.cur.pc imm
    let s ← s.legalHere t
    match s.freeHelper s.myCore with
    | none => .ok (s.wx d 0)
    | some h => do
      s.relGate
      .ok (((s.release s.myCore .co).startHelper h t (s.rx a 0)).wx d (W h)))

/-- HWAIT (R77, R93): one that parked has its result. -/
def execHwait (d a : XReg) (s : State) : Out :=
  let m := s.rx a 0 &&& 0x7FE
  s.run (match s.me.answer with
    | .val v => .ok ((s.acquire s.myCore .co).wx d v)
    | _ => if s.me.childWord &&& m ≠ 0 then .error (.wait (.hwait m) s)
      else .ok ((s.acquire s.myCore .co).wx d s.me.childWord))

/-- TRAP (R94). -/
def execTrap (imm : BitVec 58) (s : State) : Out := s.run (fail .trap (W imm.toNat))

/-- GETID (R95). -/
def execGetid (d : XReg) (sel : BitVec 58) (s : State) : Out :=
  s.run (.ok (s.wx d (s.idValue sel.toNat)))

/-- LI (R96). -/
def execLi (d : XReg) (imm : BitVec 58) (s : State) : Out := s.run (.ok (s.wx d (Wi (sextN imm.toNat 58))))

/-- LIH (R96). -/
def execLih (d : XReg) (imm : BitVec 32) (s : State) : Out :=
  s.run (.ok (s.wx d (W (imm.toNat * 2 ^ 32 + Bits (s.rx d 3) 0 32))))

/-- BR (R97). -/
def execBr (t : BrTarget) (s : State) : Out := s.finish (s.branchTo (brTarget s.cur.pc t))

/-- BC (R97). -/
def execBc (a b : XReg) (c : Cond) (t : BrTarget) (s : State) : Out :=
  s.finish (s.branchIf (condHolds c (s.rx a 0) (s.rx b 1)) (brTarget s.cur.pc t))

/-- BCZ (R97). -/
def execBcz (a : XReg) (c : Cond) (t : BrTarget) (s : State) : Out :=
  s.finish (s.branchIf (condHolds c (s.rx a 0) 0) (brTarget s.cur.pc t))

/-- BP (R97). -/
def execBp (p : PReg) (neg : Bool) (t : BrTarget) (s : State) : Out :=
  s.finish (s.branchIf (xor (s.rp p 0) neg) (brTarget s.cur.pc t))

/-- CALL (R98). -/
def execCall (link : XReg) (t : BrTarget) (s : State) : Out :=
  s.finish (do
    let s ← s.legalHere (brTarget s.cur.pc t)
    .ok (.jump ((s.wx link s.nextpc).withCost 0 3) (brTarget s.cur.pc t)))

/-- JR (R98). -/
def execJr (a : XReg) (s : State) : Out := s.finish (s.regTo (s.rx a 0))

/-- CALLR (R98). -/
def execCallr (a link : XReg) (s : State) : Out :=
  let t := s.rx a 0
  s.finish (do
    let s ← s.legalHere t
    .ok (.jump ((s.wx link s.nextpc).withCost 2 4) t))

/-- RET (R98). -/
def execRet (a : XReg) (s : State) : Out := s.finish (s.regTo (s.rx a 0))

/-- LOOP (R99). -/
def execLoop (a : XReg) (set : Fin 2) (t : BrTarget) (s : State) : Out :=
  s.finish (s.armLoop set (brTarget s.cur.pc t) (s.rx a 0))

/-- LOOPI (R89, R99). -/
def execLoopi (set : Fin 2) (count : BitVec 18) (ldisp : BitVec 37) (slot : Fin 8) (s : State) : Out :=
  s.finish (s.armLoop set (lineRel s.cur.pc ldisp.toInt slot.val) (W count.toNat))

/-- LBRK (R100). -/
def execLbrk (set : Fin 2) (t : BrTarget) (s : State) : Out :=
  s.finish (do
    let s ← s.legalHere (brTarget s.cur.pc t)
    .ok (.jump ((s.setLoop set fun l => { l with lc := 0, armed := false }).withCost 0 3) (brTarget s.cur.pc t)))

/-! ### What happens at issue -/

/-- UNASSIGNED_MAJOR (R60, R64, R65): the slot that reached issue has an unassigned major. -/
def execUnassignedMajor (_w : BitVec 96) (s : State) : Out := s.slotFault .illegalOpcode 88 false

/-- DEBUG_BREAKPOINT (R450): the context is about to issue its breakpoint PC. -/
def execDebugBreakpoint (s : State) : Out := .next (s.raise { code := .debugBrk, info := s.cur.pc })

/-- A core's L1I takes a line and, when it is full, loses another, which no rule names (R178); a lost line arrives bad once
more (R47, R431). -/
def State.codeIn (s : State) (core pl : Nat) (d : BitVec 512) : State :=
  let held := (s.core core).l1i.map (·.1)
  let bad := (s.core core).lost == some pl
  let line := if bad then State.badLine d else d
  let (out, s) := if held.contains pl || held.length < l1Lines then (none, s) else s.pickOf held
  s.modCore core fun k =>
    { k with l1i := put pl line (match out with | some o => del o k.l1i | none => k.l1i), lost := if bad then none else k.lost }

/-- INSTRUCTION_LINE_ARRIVAL (R83, R178): line v arrives in the L1 instruction cache of core u, for the contexts parked
on it. -/
def execInstructionLineArrival (s : State) : Out :=
  let core := s.cur.u
  let pl := s.cur.v
  let waits (c : Nat) : Bool := (s.ctx (ctxOn core c)).wait == .line pl
  .next (
    if !(List.range 11).any waits then s
    else
      let (d, t) := s.l2Fill core pl
      let t := t.codeIn core pl d
      (List.range 11).foldl (fun t c =>
        if waits c then t.modCtx (ctxOn core c) fun c => { c with st := .ready, wait := .none } else t) t)

end Sys2Proof.Machine
end

