-- ==== Sys2Proof/Machine/System.lean ====
section
/-! DEFINITION. Meanings of the system rows: system registers (R425), the context window (R432-R435), breakpoints and
steps (R450), address spaces (R407-R409, R421), invalidation (R422), the end of a page fault (R438) and the dump request
(R449, R464). -/

namespace Sys2Proof.Machine

namespace State

/-- A privileged row raises PRIVILEGE for another context (R62, R448). -/
def needPriv (s : State) (pos : Nat) : M Unit := failIf (!s.priv) .privilege (s.encInfo pos false)

/-- The privileged view needs privilege (R62, R425). -/
def selPriv (s : State) (sel : BitVec 16) : M Unit := failIf (sel.getLsbD 15 && !s.priv) .privilege (s.encInfo 51 false)

end State

/-! ### System registers (R425) -/

/-- SGET (R201, R425). -/
def execSget (d : XReg) (sel : BitVec 16) (s : State) : Out :=
  s.run (do
    s.selPriv sel
    s.accGate false (.sys sel.toNat) 8
    match s.sysRead s.cur.id sel.toNat with
    | none => fail .sysreg (W sel.toNat)
    | some v => .ok (s.wlong (.x d v)))

/-- SSET (R5, R201, R425). -/
def execSset (a : XReg) (sel : BitVec 16) (s : State) : Out :=
  s.run (do
    s.selPriv sel
    s.accGate false (.sys sel.toNat) 8
    match s.sysWrite s.cur.id sel.toNat (s.rx a 0) with
    | none => fail .sysreg (W sel.toNat)
    | some t => .ok t)

/-- SYSREG_WRITE (R5, R425): of a register by a context. -/
def execSysregWrite (id : Nat) (sel : BitVec 16) (value : Word) (s : State) : Out :=
  .next ((s.sysWrite id sel.toNat value).getD s)

/-! ### The context window (R432-R435) -/

namespace State

/-- The target that X[A] names: on the executing chiplet, and in a state that meets p (R432). -/
def ctxTarget (s : State) (a : XReg) (p : CtxSt → Bool) : M Nat :=
  let w := s.rx a 0
  let id := Bits w 0 20
  if Bits w 20 44 ≠ 0 || 10 < idCtx id || !inGrid (idTid id) || chipOf (idTid id) ≠ chipOf s.myTid || !p (s.ctx id).st then
    fail .ctxState w
  else .ok id

/-- A FAULTED target (R432). -/
def faultedTarget (s : State) (a : XReg) : M Nat := s.ctxTarget a (· == .faulted)

/-- The items that a context does not let be written (R433). -/
def itemFixed (n : Nat) : Bool := n == 0 || (decide (2 ≤ n) && decide (n ≤ 8)) || n == 100

/-- A result on its way to a register of which word n of the image is written: what it brings to that word is discarded,
and so is a result of one word (R80). -/
def itemOver (n : Nat) (v : Word) (e : Pend) : Pend :=
  if e.due.isSome || !e.wr.words.contains n then e
  else match e.wr with
    | .v r w => { e with wr := .v r (withWord w (n - (256 + 16 * r.val)) v) }
    | .k r w => { e with wr := .k r (withWord w (n - (79 + 2 * r.val)) v) }
    | .h r w => { e with wr := .h r (withWord w (n - (192 + 8 * r.val)) v) }
    | _ => { e with dead := true }

/-- Item n of a stopped context is written (R433, R434), after every earlier write of it (R80). -/
def itemWritten (c : Ctx) (n : Nat) (v : Word) : Ctx :=
  let c := c.land
  { c with pend := c.pend.map (itemOver n v), pcset := c.pcset || n == 1 }.setImageWord n v

/-- The PC at which a TRET `.next` acts: one that CTXWR set is checked under R46 (R433). -/
def pcCheck (s : State) (id : Nat) : M State :=
  let c := s.ctx id
  if c.pcset then s.legal (coreOf id) c.asid c.pc (s.encInfo 0 false) else .ok s

/-- A target goes on after its faulting slot (R435, R450). -/
def tretNext (s : State) (a : XReg) (step : Bool) : M State := do
  s.needPriv 88
  s.relGate
  let id ← s.faultedTarget a
  let s ← s.pcCheck id
  .ok (s.resumeNext id step)

end State

/-- CTXRD (R432-R434). -/
def execCtxrd (d a : XReg) (n : BitVec 12) (s : State) : Out :=
  s.run (do
    s.needPriv 88
    let id ← s.faultedTarget a
    failIf (decide (768 ≤ n.toNat)) .sysreg s.openWord
    .ok (s.wlong (.x d (imageWord (s.isSuper (coreOf id)) id (State.captured (s.ctx id)) n.toNat))))

/-- CTXWR (R432-R434). -/
def execCtxwr (d a : XReg) (n : BitVec 12) (s : State) : Out :=
  let v := s.rx d 1
  s.run (do
    s.needPriv 88
    let id ← s.faultedTarget a
    failIf (decide (768 ≤ n.toNat)) .sysreg s.openWord
    .ok (if State.itemFixed n.toNat then s else s.modCtx id fun c => State.itemWritten c n.toNat v))

/-- TRET `.next` (R435). -/
def execTretNext (a : XReg) (s : State) : Out := s.run (s.tretNext a false)

/-- TRET `.at` (R435). -/
def execTretAt (d a : XReg) (s : State) : Out :=
  let t := s.rx d 1
  s.run (do
    s.needPriv 88
    s.relGate
    let id ← s.faultedTarget a
    s.resumeAt id t)

/-- TRET `.end` (R32, R73, R435): the target ends as HALT ends it, at once or when HALT's first step is done. -/
def execTretEnd (a : XReg) (s : State) : Out :=
  s.run (do
    s.needPriv 88
    let id ← s.faultedTarget a
    let s := s.modCtx id fun c => { c with frec := none }
    if State.haltReady (s.ctx id) || (s.ctx id).late.isSome then .ok (s.haltEnd id)
    else .ok (s.modCtx id fun c => { c with st := .parked, wait := .ending, answer := .none }))

/-! ### Debug (R450) -/

/-- DBG `.brk` (R450). -/
def execDbgBrk (d a : XReg) (s : State) : Out :=
  let t := s.rx d 1
  s.run (do
    s.needPriv 88
    let id ← s.ctxTarget a (· != .free)
    .ok (s.modCtx id fun c => { c with brk := some t }))

/-- DBG `.clr` (R450). -/
def execDbgClr (a : XReg) (s : State) : Out :=
  s.run (do
    s.needPriv 88
    let id ← s.ctxTarget a (· != .free)
    .ok (s.modCtx id fun c => { c with brk := none }))

/-- DBG `.step` (R450). -/
def execDbgStep (a : XReg) (s : State) : Out := s.run (s.tretNext a true)

/-! ### Invalidation of translations (R422) -/

namespace State

/-- TLB entries that meet p are marked invalid, everywhere. -/
def dropTlbs (s : State) (p : TlbE → Bool) : State :=
  { s with
    cores := s.cores.map fun (e : Nat × Core) => (e.1, { e.2 with tlb := e.2.tlb.filter fun t => !p t })
    tiles := s.tiles.map fun (e : Nat × Tile) => (e.1, { e.2 with tlb := e.2.tlb.filter fun t => !p t })
    past := s.past.filter fun t => !p t }

/-- The lines that meet p leave every L1D, L1I and tile L2, their dirty bytes written back. -/
def dropLines (s : State) (p : Nat → Bool) : State :=
  let s := (keysOf s.cores).foldl (fun s k =>
    let s := ((keysOf (s.core k).l1d).filter p).foldl (fun s pl => s.l1Evict k pl) s
    s.modCore k fun c => { c with l1i := c.l1i.filter fun e => !p e.1 }) s
  (keysOf s.tiles).foldl (fun s t => ((keysOf (s.tile t).l2).filter p).foldl (fun s pl => s.l2Evict t pl) s) s

/-- Frame of a leaf in the model's physical address space. -/
def leafFrame (leaf : Word) : Nat := Bits leaf 12 45 * 2 ^ 12 + (if Bit leaf 8 then Config.hostBase else 0)

/-- Frames and sizes of the page that holds a VA in an ASID: the frame of its valid leaf (R412), and those of the entries
that translate it, or that translated a store to it since its last invalidation (R423). -/
def framesOf (s : State) (asid : BitVec 10) (va : Nat) : List (Nat × Nat) :=
  let now := match s.profile asid with
    | none => []
    | some _ => match s.walkFrom va .load 5 0 (s.root asid) with
      | .ok (leaf, lvl, _) => [(leafFrame leaf, leafSize lvl)]
      | .error _ => []
  let old (l : List TlbE) : List (Nat × Nat) :=
    (l.filter fun e => e.asid == asid && decide (e.va ≤ va) && decide (va < e.va + e.size)).map fun e => (leafFrame e.leaf, e.size)
  now ++ old s.past ++ (s.cores.map fun (e : Nat × Core) => old e.2.tlb).flatten ++ (s.tiles.map fun (e : Nat × Tile) => old e.2.tlb).flatten

/-- The page of a VA in an ASID is invalidated (R422). -/
def invPage (s : State) (asid : BitVec 10) (ea : Word) : State :=
  if Bits ea 60 4 ≠ 0 && Bits ea 60 4 ≠ 4 then s
  else
    let va := Bits ea 0 57
    let fr := (s.framesOf asid va).eraseDups
    let s := s.dropTlbs fun e => e.asid == asid && decide (e.va ≤ va) && decide (va < e.va + e.size)
    if fr.isEmpty then s
    else s.dropLines fun pl => fr.any fun f => decide (f.1 ≤ 64 * pl) && decide (64 * pl < f.1 + f.2)

/-- Every page of the ASIDs that meet p is invalidated (R422). -/
def invSpaces (s : State) (p : BitVec 10 → Bool) : State := (s.dropTlbs fun e => p e.asid).dropLines fun _ => true

/-- What every form of TLBINV does around its marks (R422). -/
def tlbinv (s : State) (f : State → State) : M State := do
  s.needPriv 88
  s.relGate
  .ok ((f (s.release s.myCore .sy)).acquire s.myCore .sy)

end State

/-- TLBINV `.va` (R422). -/
def execTlbinvVa (a : XReg) (asid : BitVec 10) (s : State) : Out :=
  let ea := s.rx a 0
  s.run (s.tlbinv fun t => t.invPage asid ea)

/-- TLBINV `.asid` (R422). -/
def execTlbinvAsid (asid : BitVec 10) (s : State) : Out := s.run (s.tlbinv fun t => t.invSpaces (· == asid))

/-- TLBINV `.all` (R422). -/
def execTlbinvAll (s : State) : Out := s.run (s.tlbinv fun t => t.invSpaces fun _ => true)

/-- PAGE_WALK (R412, R415-R417): a walk for a core completes; one that faults installs nothing. -/
def execPageWalk (core : Nat) (asid : BitVec 10) (va : Word) (k : AccKind) (s : State) : Out :=
  let core := core % 2 ^ 16
  let a : Agent := { tid := idTid core, core := some core, asid := asid }
  .next (if (s.profile asid).isNone then s
    else match s.leafFor a va k with
      | .error _ => s
      | .ok (e, t) =>
        match t.setDirty a e va k with
        | .error _ => t
        | .ok (_, t) => t)

/-! ### Address spaces (R407-R409, R421) -/

namespace State

/-- Lowest bit set among n bits from bit lo of a profile. -/
def profLow (p lo n : Nat) : Option Nat :=
  let v := p / 2 ^ lo % 2 ^ n
  if v = 0 then none else some (lo + ctzN n v)

/-- The lowest position of what tile window w of a profile breaks (R409 check 3). -/
def windowBad (p w : Nat) : Option Nat :=
  let o := 512 + 64 * w
  let f (lo n : Nat) : Nat := p / 2 ^ (o + lo) % 2 ^ n
  if f 26 4 = 0 then none
  else if 111 < f 13 7 then some (o + 13)
  else if f 13 7 < f 0 7 then some o
  else if f 20 6 < f 7 6 then some (o + 7)
  else none

/-- The position that the checks of R409 give for a profile, if any fails. -/
def profileBad (p : Nat) : Option Nat :=
  let one := lowestOf ([profLow p 3 9, profLow p 57 7, profLow p 144 48, profLow p 192 16, profLow p 249 7, profLow p 288 32,
    profLow p 320 6, profLow p 377 7, profLow p 384 128] ++ (List.range 8).map fun w => profLow p (512 + 64 * w + 30) 34)
  match one with
  | some b => some b
  | none =>
    if Config.moduleBytes ≤ p / 2 ^ 12 % 2 ^ 45 * 2 ^ 12 then some 12
    else if p / 2 % 2 = 1 && Config.moduleBytes ≤ p / 2 ^ 326 % 2 ^ 51 * 2 ^ 6 then some 326
    else (List.range 8).findSome? (windowBad p)

/-- 512 bytes of a profile (R421). -/
def readProfile (s : State) (ea : Word) : M (Nat × State) := do
  failIf (ea.toNat % 512 != 0) .misaligned ea
  s.loadLines s.agent ea 8

/-- A message held at a tile or a core carries the ASID (R421). -/
def msgCarries (s : State) (a : BitVec 10) : Bool :=
  s.cores.any (fun e => e.2.queue.any (·.asid == a) || e.2.qrest.any (·.asid == a)) ||
  s.tiles.any (fun e => (e.2.ovr ++ e.2.img).any (·.asid == a)) ||
  s.flights.any (fun f => (f.resend.isSome || f.kept) && f.msg.asid == a) ||
  s.chips.any (fun e => e.2.fq.any (·.asid == a) || e.2.fwait.any (·.1.asid == a) ||
    e.2.win.any fun w => w.2.buf.any (·.msg.asid == a))

/-- Engine work of a tile carries the ASID (R421). -/
def tileCarries (t : Tile) (a : BitVec 10) : Bool :=
  t.jobs.any (fun j => match j.2.job with
    | some j => j.asid == a
    | none => false) ||
  t.eng.chans.any (fun c => c.2.queue.any (·.asid == a)) || t.eng.leadq.any (·.asid == a) ||
  t.banks.any (fun b => b.2.mode != .cache && b.2.asid == a) || t.bars.any (fun b => b.2.use && b.2.asid == a) ||
  t.eng.wins.any (fun w => w.2.st != .free && w.2.asid == a) || t.eng.arcs.any (fun c => c.2.held && c.2.asid == a) ||
  t.eng.bins.any (·.2.asid == a)

/-- Does any state of R421 carry the ASID? -/
def asidCarried (s : State) (a : BitVec 10) : Bool :=
  s.ctxs.any (fun e => e.2.st != .free && e.2.asid == a) || s.msgCarries a || s.tiles.any (fun e => tileCarries e.2 a) ||
  s.rjobs.any (fun r => (s.ctx r.sub).asid == a) || s.quars.any (fun q => q.2.subs.any fun u => u.2.live && u.2.asid == a) ||
  !(s.space a.toNat).regions.isEmpty

/-- An unbound ASID is bound, or a bound one freed: its quota goes off and its counters clear; QPERIOD and QOVER stay
(R396, R407). -/
def resetSpace (s : State) (n : BitVec 10) (prof : Option (BitVec 4096)) : State :=
  let s := if (s.space n.toNat).susp then s.unsuspend n.toNat else s
  s.modSpace n.toNat fun k => { k with prof := prof, qrefill := 0, qremain := 0, hit := 0, miss := 0, inval := 0 }

end State

/-- ASIDSET `.bind` (R407, R409, R421). -/
def execAsidsetBind (d a : XReg) (n : BitVec 10) (s : State) : Out :=
  let ea := s.rx a 0
  s.run (do
    s.needPriv 88
    s.relGate
    let (p, t) ← s.readProfile ea
    match State.profileBad p with
    | some b => fail .asidProfile (W b)
    | none =>
      let t := t.release t.myCore .sy
      let prof : BitVec 4096 := BitVec.ofNat 4096 p
      if (t.profile n).isSome then
        let t := t.modSpace n.toNat fun k => { k with prof := some prof }
        .ok ((t.invSpaces (· == n)).wx d 1)
      else .ok ((t.resetSpace n (some prof)).wx d 0))

/-- ASIDSET `.free` (R421, R444). -/
def execAsidsetFree (d : XReg) (n : BitVec 10) (s : State) : Out :=
  s.run (do
    s.needPriv 88
    if n = 0 || s.asidCarried n then .ok (s.wx d 2)
    else if (s.profile n).isNone then .ok (s.wx d 3)
    else
      let s := s.resetSpace n none
      let s := { s with tiles := s.tiles.map fun (e : Nat × Tile) => (e.1, { e.2 with fwd := del n.toNat e.2.fwd }) }
      .ok ((s.invSpaces (· == n)).wx d 0))

/-- ASIDSET `.query` (R421). -/
def execAsidsetQuery (d : XReg) (n : BitVec 10) (s : State) : Out :=
  s.run (do
    s.needPriv 88
    .ok (s.wx d (W (b2n (s.profile n).isSome + s.profField n 0 3 * 2))))

/-! ### The end of a page fault (R438) -/

namespace State

/-- The faulting VA of a pager slot's fault and the ASID of its image (R437, R438), by the future's OWN. -/
def pagerFault (s : State) (own : Nat) : Option (Word × BitVec 10) :=
  let tid := own / 2 ^ 8 % 2 ^ 13
  let slot := own % 2 ^ 8
  match ((s.tile tid).pgused.find? fun u => u.1 == slot).bind (·.2) with
  | none => none
  | some r => some (W (Bits r.flt.info 0 57), BitVec.ofNat 10 (s.rawLoad (s.pagerSlot tid slot + 0x800) 8 / 2 ^ 16))

end State

/-- PGDONE (R438). -/
def execPgdone (d a : XReg) (s : State) : Out :=
  let ea := s.rx a 0
  let v := s.rx (xnext a) 1
  s.run (do
    s.needPriv 88
    s.relGate
    let (pa, t) ← s.futSite s.agent .store ea
    let t := (t.release t.myCore .sy).pushHome t.myCore (pa / 64)
    let w := t.rawLoad pa 8
    if futOwn w = 0 then .ok (t.wx d 1)
    else if futSt w ≠ 1 then .ok (t.wx d 2)
    else
      let t := match t.pagerFault (futOwn w) with
        | some (va, asid) => t.invPage asid va
        | none => t
      let (_, t) := t.resolveFut pa true v s.meResolver s.me.colour
      .ok (t.wx d 0))

/-! ### Fatal dump requests (R449, R464) -/

namespace State

/-- A trigger of a dump: source, code, reason, TID (R464).  The first stops the module; among triggers of one fabric cycle
the lowest chiplet is the primary; of the others the first, or the lowest of that cycle, is SECOND. -/
def trigger (s : State) (src code : Nat) (reason : Word) (tid : Nat) : State :=
  match s.norb.trig with
  | none =>
    if s.norb.halted then s
    else { s with norb := { s.norb with trig := some (src, code, reason, tid), trigAt := s.fab, second := none,
                                        halted := true, status := .dumping } }
  | some (src1, code1, _, tid1) =>
    let same := s.norb.trigAt == s.fab
    if same && decide (chipOf tid < chipOf tid1) then
      { s with norb := { s.norb with trig := some (src, code, reason, tid), second := some (src1, code1, chipOf tid1) } }
    else
      match s.norb.second with
      | none => { s with norb := { s.norb with second := some (src, code, chipOf tid) } }
      | some (_, _, ci) =>
        if same && decide (chipOf tid < ci) then { s with norb := { s.norb with second := some (src, code, chipOf tid) } }
        else s

end State

/-- DUMPREQ (R449): it never completes; the fault code that its dump carries is open, and POS of a refused reason, which lies
in no field of the slot (R65; log 7). -/
def execDumpreq (a : XReg) (s : State) : Out :=
  let w := s.rx a 0
  s.finish (do
    s.needPriv 88
    failIf (Bits w 32 32 != 0) .illegalEncoding (s.encInfo (Config.freeNat s.seq % 96) false)
    s.relGate
    .ok (.keep ((s.release s.myCore .sy).trigger 1 (Config.freeNat s.seq % 256) w s.myTid)))

/-- SCRATCH_POWER_LOSS (R183): on tile u, banks whose loss is due and no longer deferred lose their contents. -/
def execScratchPowerLoss (s : State) : Out := .next (s.sweepTile s.cur.u)

end Sys2Proof.Machine
end

