-- ==== Sys2Proof/Machine/Preempt.lean ====
section
/-! DEFINITION. Pre-emption: the unit and its images (R439-R442), capture (R440, R443), writing and closing (R442-R445),
and RESUME (R444, R446).

An image body whose bytes the spec does not lay out is written with free bytes (log 20), and what it stands for is kept as
data beside it (log 32). -/

namespace Sys2Proof.Machine

/-! ### The unit descriptor (R445) -/

def uUnit (w : Word) : Nat := Bits w 0 2
def uTid (w : Word) : Nat := Bits w 2 13
def uW (w : Word) : Nat := Bits w 22 4 + 1
def uH (w : Word) : Nat := Bits w 26 4 + 1
def uAsid (w : Word) : BitVec 10 := BitVec.ofNat 10 (Bits w 30 10)
def uMask (w : Word) : Nat := Bits w 40 16
/-- The identity that a context, group or gang unit names. -/
def uId (w : Word) : Nat := ident (uTid w) (Bits w 15 3) (Bits w 18 4)

/-- BADARG of PREEMPT (R445): a reserved or unused field, the area, or a rectangle outside the grid. -/
def preBad (w area size : Word) : Bool :=
  Bits w 56 8 != 0 || area.toNat % 4096 != 0 || decide (Config.moduleBytes ≤ area.toNat) ||
  decide (Config.moduleBytes < area.toNat + size.toNat) ||
  (if uUnit w = 3 then
    Bits w 15 7 != 0 || !inGrid (uTid w) || decide (112 < tileX (uTid w) + uW w) || decide (64 < tileY (uTid w) + uH w)
  else Bits w 22 34 != 0)

namespace State

/-- Contexts of the unit; none where a context, group or gang unit names nothing (R439, R445). -/
def unitIds (s : State) (w : Word) : Option (List Nat) :=
  let id := uId w
  let c := s.ctx id
  let on (g i : Nat) : Bool := (s.ctx i).st != .free && (s.ctx i).gang.any fun p => p.1 == g
  if uUnit w = 3 then
    let ts := rectTiles (uTid w) (uW w) (uH w)
    some ((s.ctxs.filter fun e => ts.contains (idTid e.1) && e.2.st != .free && e.2.asid == uAsid w).map (·.1))
  else if c.st = .free || 10 < idCtx id then none
  else if uUnit w = 0 then some [id]
  else match c.gang with
    | none => none
    | some (g, _) => match find g s.gangs with
      | none => none
      | some k => some (k.live.filter fun i => on g i && (uUnit w == 2 || idTid i == uTid w))

/-- Tiles of the unit (R446). -/
def unitTiles (s : State) (w : Word) (ids : List Nat) : List Nat :=
  if uUnit w = 3 then (rectTiles (uTid w) (uW w) (uH w)).filter s.live else (ids.map idTid).eraseDups

/-- The unit's ASID. -/
def unitAsid (s : State) (w : Word) (ids : List Nat) : BitVec 10 := if uUnit w = 3 then uAsid w else (s.ctx (ids.getD 0 0)).asid

end State

/-! ### What a tile holds for the unit (R439) -/

/-- Barrier records whose MEMB holds one of the contexts. -/
def barsOf (t : Tile) (tid : Nat) (ids : List Nat) : List (Nat × Bar) :=
  t.bars.filter fun e => e.2.use && ids.any fun i => idTid i == tid && e.2.memb.getLsbD (barBit i)

/-- A part that holds something. -/
def partIf {α : Type} (l : List α) (p : SavedPart) : List SavedPart := if l.isEmpty then [] else [p]

/-- Jobs of the ASID, with the B banks and the top-k state that are its own. -/
def jobParts (t : Tile) (tid : Nat) (a : BitVec 10) : List SavedPart :=
  let js := t.jobs.filter fun e => e.2.job.any (·.asid == a)
  let own (b : BBank) : BBank := if b.asid = some a then b else {}
  let k : TopK := if t.topk.asid = some a then t.topk else {}
  if js.isEmpty && own t.b0 == {} && own t.b1 == {} && k == {} then [] else [.jobs tid js (own t.b0) (own t.b1) k]

/-- The copies of the ASID by channel, with their queue entries. -/
def chanParts (t : Tile) (a : BitVec 10) : List (Nat × Channel) :=
  t.eng.chans.filterMap fun e =>
    let q := e.2.queue.filter (·.asid == a)
    if q.isEmpty then none
    else
      let c : Channel := { queue := q, ents := e.2.ents.filter fun x => q.any fun y => y.ent == x.1 }
      some (e.1, c)

namespace State

/-- All state of an ASID on a tile but its contexts (R439). -/
def asidParts (s : State) (tid : Nat) (a : BitVec 10) : List SavedPart :=
  let t := s.tile tid
  let banks := (t.banks.filter fun e => e.2.mode != .cache && e.2.asid == a).map fun e => SavedPart.bank tid e.1 e.2 0
  let bars := t.bars.filter fun e => e.2.use && e.2.asid == a
  let cores := (List.range 8).map (tid + · * 2 ^ 13)
  let msgs := cores.flatMap fun c =>
    let l := (s.core c).queue.filter (·.asid == a)
    partIf l (.msgs tid c l)
  let ovr := (t.ovr ++ t.img).filter (·.asid == a)
  let wins := t.eng.wins.filter fun e => e.2.st != .free && e.2.asid == a
  let bins := t.eng.bins.filter fun e => e.2.asid == a
  let arcs := t.eng.arcs.filter fun e => e.2.held && e.2.asid == a
  let counts := t.regs.filter fun e => e.1 / 256 == a.toNat
  let chans := chanParts t a
  let sh := t.eng.shard.filter fun h => h.asid == a
  let runs := t.eng.leadq.filter (·.asid == a)
  let subs := s.quars.flatMap fun q => (q.2.subs.filter fun u => u.2.live && u.2.tid == tid && u.2.asid == a).map fun u =>
    SavedPart.sub q.1 u.1 u.2
  banks ++ partIf bars (.bars tid bars) ++ msgs ++ partIf ovr (.ovr tid ovr) ++ partIf wins (.wins tid wins) ++
    partIf bins (.bins tid bins) ++ partIf arcs (.arcs tid arcs) ++ partIf counts (.counts tid counts) ++ jobParts t tid a ++
    partIf chans (.chans tid chans) ++ (if sh.isNone && runs.isEmpty then [] else [.chain tid sh runs]) ++ subs

/-- What a tile holds for the unit, beside contexts (R439). -/
def tileParts (s : State) (w : Word) (ids : List Nat) (a : BitVec 10) (tid : Nat) : List SavedPart :=
  match uUnit w with
  | 0 => []
  | 3 => s.asidParts tid a
  | _ => let l := barsOf (s.tile tid) tid ids; partIf l (.bars tid l)

end State

/-! ### Images and the directory (R442) -/

/-- An image of an area: KIND, TID, SUB and bytes, and the part that it alone stands for. -/
structure Img where
  kind  : Nat
  tid   : Nat
  sub   : Nat
  bytes : Nat
  part  : Option SavedPart := none
deriving DecidableEq, Repr

/-- KIND of the image that holds a part (R442). -/
def partKind : SavedPart → Nat
  | .ctx _ _ => 1
  | .bank _ _ _ _ => 2
  | .bars _ _ => 3
  | .msgs _ _ _ | .ovr _ _ | .wins _ _ | .bins _ _ | .arcs _ _ | .counts _ _ => 4
  | .jobs _ _ _ _ _ => 5
  | .chans _ _ => 6
  | .chain _ _ _ => 7
  | .sub _ _ _ => 8

/-- The images that hold the parts of a tile (R442). -/
def tileImages (tid : Nat) (ps : List SavedPart) : List Img :=
  let alone := ps.filterMap fun p => match p with
    | .bank _ b _ _ => some { kind := 2, tid := tid, sub := b, bytes := 131136, part := some p }
    | .bars _ l => some { kind := 3, tid := tid, sub := 0, bytes := 128 * l.length, part := some p }
    | .sub q e _ => some { kind := 8, tid := tid, sub := q + e * 64, bytes := 128, part := some p }
    | _ => none
  let one (k n : Nat) : List Img := if ps.any fun p => partKind p == k then [{ kind := k, tid := tid, sub := 0, bytes := n }] else []
  alone ++ one 4 65536 ++ one 5 262144 ++ one 6 8192 ++ one 7 16384

/-- Offsets of the images, from one on, each at a multiple of 64; and where they end. -/
def placeImages : Nat → List Img → List (Img × Nat) × Nat
  | o, [] => ([], o)
  | o, i :: r =>
    let (l, e) := placeImages ((o + i.bytes + 63) / 64 * 64) r
    ((i, o) :: l, e)

/-- Words of the directory (R442). -/
def dirWords (w : Word) (l : List (Img × Nat)) (total : Nat) : List Word :=
  [W (uUnit w + l.length * 2 ^ 16), W total, w, 0, 0, 0, 0, 0] ++
    l.flatMap fun e => [W (e.1.kind + e.1.tid * 2 ^ 4 + e.1.sub * 2 ^ 17), W e.2]

namespace State

/-- The images of a unit in their places, and the bytes of its area (R442). -/
def unitImages (s : State) (w : Word) (ids tiles : List Nat) (a : BitVec 10) : List (Img × Nat) × Nat :=
  let cs : List Img := ids.map fun i =>
    { kind := 1, tid := idTid i, sub := idCore i * 16 + idCtx i, bytes := 6144, part := some (.ctx i (s.ctx i)) }
  let l := cs ++ tiles.flatMap fun t => tileImages t (s.tileParts w ids a t)
  placeImages ((64 + 16 * l.length + 63) / 64 * 64) l

/-- n free bytes are written at the home (log 20). -/
def freeFill (s : State) (pa n : Nat) : State :=
  let t := (List.range n).foldl (fun t j => t.rawStore (pa + j) 1 (Config.freeByte s.seq (pa + j)).toNat) s
  { t with seq := t.seq + 1 }

/-- An image is written into its place of the area (R442). -/
def putImage (s : State) (area : Nat) (i : Img) (off : Nat) : State :=
  let pa := area + off
  match i.part with
  | some (.ctx id c) =>
    let c := captured c
    let s := s.writeImage pa id c
    { s with saved := put pa { asid := c.asid, parts := [.ctx id c] } s.saved }
  | some (.bank tid b _ _) =>
    (List.range 2048).foldl (fun s n => s.rawStore (pa + 64 + 64 * n) 64 (s.bankLoad tid (b * 2 ^ 17 + 64 * n) 64))
      (s.freeFill pa 64)
  | _ => s.freeFill pa i.bytes

/-! ### Freeing what was saved (R443 step 4) -/

/-- The columns of a gate leave its tile: the shard that uses it takes them again (R359, R366). -/
def regate (s : State) (tid : Nat) : State :=
  s.modEng (gateTile tid) fun e =>
    { e with shard := e.shard.map fun (h : Shard) => { h with cols := 0, gate := h.gate.map fun g => (g.1, none) } }

/-- A saved part leaves its place. -/
def freePart (s : State) (p : SavedPart) : State :=
  match p with
  | .ctx id _ => s.vacate id
  | .bank tid b _ _ => s.modTile tid fun t => (t.zeroBank b).setBank b {}
  | .bars tid l => s.modTile tid fun t => { t with bars := t.bars.filter fun e => !(keysOf l).contains e.1 }
  | .msgs _ c l => s.modCore c fun k => { k with queue := k.queue.filter fun m => !l.contains m }
  | .ovr tid l => s.modTile tid fun t =>
      { t with ovr := t.ovr.filter fun m => !l.contains m, img := t.img.filter fun m => !l.contains m }
  | .wins tid l => s.modEng tid fun e => { e with wins := e.wins.filter fun x => !(keysOf l).contains x.1 }
  | .bins tid l => s.modEng tid fun e => { e with bins := e.bins.filter fun x => !(keysOf l).contains x.1 }
  | .arcs tid l => s.modEng tid fun e => { e with arcs := e.arcs.filter fun x => !(keysOf l).contains x.1 }
  | .counts tid l => s.modTile tid fun t => { t with regs := t.regs.filter fun x => !(keysOf l).contains x.1 }
  | .jobs tid l b0 b1 k =>
    let s := if b0 == {} && b1 == {} then s else s.regate tid
    s.modTile tid fun t =>
      { t with jobs := t.jobs.map fun (e : Nat × JobSlot) => if (keysOf l).contains e.1 then (e.1, { e.2 with job := none }) else e
               b0 := if b0 == {} then t.b0 else {}
               b1 := if b1 == {} then t.b1 else {}
               topk := if k == {} then t.topk else {} }
  | .chans tid l => l.foldl (fun s e => s.modChan tid e.1 fun c =>
      { queue := c.queue.filter fun y => !e.2.queue.contains y
        ents := c.ents.map fun (x : Nat × CopyDone) =>
          if (keysOf e.2.ents).contains x.1 then (x.1, { x.2 with live := false }) else x }) s
  | .chain tid sh l => s.modEng tid fun e =>
      { e with shard := if sh.isSome then none else e.shard
               leadq := e.leadq.filter fun r => !l.contains r
               claims := if sh.isSome then e.claims.filter (·.id.isSome) else e.claims }
  | .sub q e u => s.setSub q e { u with live := false }

/-- Messages join a core's run queue, or the overflow store behind it (R261). -/
def joinMsgs (s : State) (tid : Nat) (l : List Msg) : State :=
  l.foldl (fun s m =>
    let k := tid + hdrCore m.w[1] * 2 ^ 13
    if (s.core k).queue.length < 64 && !((s.tile tid).ovr.any fun o => hdrCore o.w[1] == hdrCore m.w[1]) then
      s.modCore k fun c => { c with queue := c.queue ++ [m] }
    else s.modTile tid fun t => { t with ovr := t.ovr ++ [m] }) s

/-- The frozen ASID goes on again on a tile: what its NI image holds joins the run queues (R261, R443). -/
def thawTile (s : State) (a : BitVec 10) (tid : Nat) : State :=
  let l := (s.tile tid).img.filter (·.asid == a)
  let s := s.modTile tid fun k =>
    { k with frozen := k.frozen.filter (· != a.toNat), img := k.img.filter fun m => !(m.asid == a) }
  (s.joinMsgs tid l).refillTile tid

/-- The frozen ASID goes on again on the tiles of a PREEMPT that does not capture it (R443, R445). -/
def thaw (s : State) (tiles : List Nat) (a : BitVec 10) : State := tiles.foldl (fun s t => s.thawTile a t) s

/-- A captured context goes on in place, as RESUME restores (R445 status 2, R446). -/
def releaseCapture (s : State) (id : Nat) : State :=
  let c := s.ctx id
  if !c.capt then s
  else if !c.taken then s.setCtx id { c with capt := false }
  else
    let c := restored (captured c)
    let s := (s.setCtx id c).acquire (coreOf id) .sy
    match c.late with
    | some l => s.raiseLate id l
    | none => s

/-- Every context of the unit is out of the way: captured, or gone before it could be. -/
def allTaken (s : State) (p : Pre) : Bool := p.ids.all fun i => (s.ctx i).taken || !(s.ctx i).capt

/-- Nothing on its way bears on a barrier record of the captured tiles (R443 step 3, R445: no event is lost). -/
def treesQuiet (s : State) (p : Pre) : Bool :=
  !(s.kids.any fun k => p.tiles.contains k.ptid) &&
  !(s.trees.any fun r => p.tiles.any fun t => (s.tile t).bars.any fun b => b.2.use && b.2.root == (r.tid, r.idx))

/-- No image of the unit is waiting for a result (R81, R445), but for accesses that wait on a guard of the captured
partition itself: they perform after its RESUME (R336; log 68). -/
def allWhole (s : State) (p : Pre) : Bool :=
  p.ids.all fun i =>
    let c := s.ctx i
    let stays (e : BankAcc) : Bool := p.mask.isSome && s.underGuard e.tid e.off e.n
    !c.taken || (c.accs.all stays && c.status.isEmpty && c.pend.all fun e => e.due.isSome || c.accs.any fun k => e.grp == k.grp)

/-- A replay of the ASID goes on on the captured tiles: the partition waits for its end (R81, R328). -/
def replaying (s : State) (p : Pre) : Bool :=
  p.mask.isSome && p.tiles.any fun t => (s.tile t).eng.runs.any fun r =>
    ((find r.slot (s.tile t).eng.bins).map (·.asid)) == some p.asid

/-- Is the capture of a PREEMPT complete (R443 steps 2 and 3, R445)? -/
def preReady (s : State) (id : Nat) : Bool :=
  match find id s.pres with
  | none => true
  | some p => s.allTaken p && s.allWhole p && !s.replaying p &&
    (match p.mask, p.wave with
      | none, _ => p.tiles.isEmpty || s.treesQuiet p
      | some _, none => false
      | some m, some w => s.treesQuiet p && decide (w + 2 ≤ s.waves) &&
        (List.range 16).all fun c => m / 2 ^ c % 2 == 0 || (getD { flat := true } s.colT c).flat)

/-- The wave count is noted once every context of a partition is captured (R443 step 3). -/
def noteTaken (s : State) : State :=
  { s with pres := s.pres.map fun (e : Nat × Pre) =>
      if e.2.wave.isNone && s.allTaken e.2 then (e.1, { e.2 with wave := some s.waves }) else e }

/-- Every cache of the unit is written back at sy (R213, R439, R443 step 4). -/
def backAll (s : State) (ids tiles : List Nat) (all : Bool) : State :=
  let cores := if all then tiles.flatMap fun t => (List.range 8).map (t + · * 2 ^ 13) else (ids.map coreOf).eraseDups
  cores.foldl (fun s c => s.release c .sy) s

/-- A tagged job of a saved part that was stopped in its compare (R380). -/
def voidCompare (j : Job) : Job :=
  { j with arc := j.arc.map fun a =>
      if j.st == .running && !a.decided then { a with void := true, input := [] } else a }

/-- The compares of a partition that is restored in place are void, as after RESUME (R380, R445). -/
def voidTiles (s : State) (w : Word) (a : BitVec 10) (tiles : List Nat) : State :=
  if uUnit w ≠ 3 then s
  else tiles.foldl (fun s t => s.modTile t fun x =>
    { x with jobs := x.jobs.map fun (e : Nat × JobSlot) =>
        (e.1, { e.2 with job := e.2.job.map fun j => if j.asid = a then voidCompare j else j }) }) s

/-- The images are written, the unit leaves the hardware, and a partition is closed (R442, R443). -/
def preWrite (s : State) (w : Word) (area : Nat) (p : Pre) (a : BitVec 10) (l : List (Img × Nat)) (total : Nat) : State :=
  let ids := p.ids.filter fun i => (s.ctx i).taken
  let s := s.backAll ids p.tiles (uUnit w == 3)
  let parts := p.tiles.flatMap (s.tileParts w ids a)
  let offOf (tid b : Nat) : Nat := ((l.find? fun e => e.1.kind == 2 && e.1.tid == tid && e.1.sub == b).map (·.2)).getD 0
  let parts' := parts.map fun q => match q with
    | .bank t b k _ => .bank t b k (offOf t b)
    | .jobs t js b0 b1 k =>
      .jobs t (js.map fun (e : Nat × JobSlot) => (e.1, { e.2 with job := e.2.job.map voidCompare })) b0 b1 k
    | q => q
  let s := l.foldl (fun s e => s.putImage area e.1 e.2) s
  let dir := dirWords w l total
  let s := ((List.range dir.length).zip dir).foldl (fun s e => s.rawStore (area + 8 * e.1) 8 e.2.toNat) s
  let org := match uUnit w with
    | 2 => (match (s.ctx (uId w)).gang with
      | some (g, _) => ((find g s.gangs).map (·.origin)).getD (uTid w)
      | none => uTid w)
    | _ => uTid w
  let cs := l.filterMap fun e => match e.1.part with
    | some (.ctx i _) => some (i, e.2)
    | _ => none
  let u : SavedUnit := { desc := w, asid := a, origin := org, tiles := p.tiles, dir := dir, ctxs := cs, parts := parts' }
  let s := { s with saved := put area u s.saved }
  let s := ids.foldl (fun s i => s.vacate i) s
  let s := parts.foldl (fun s q => s.freePart q) s
  let s := p.tiles.foldl (fun s t => ((s.sweepTile t).refillTile t).queueDue t) s
  if uUnit w = 3 then
    let s := s.thaw p.tiles a
    p.tiles.foldl (fun s t => s.modTile t fun k => { k with closed := k.closed.filter (· != a.toNat) ++ [a.toNat] }) s
  else s

/-- PREEMPT as it starts: checks, freeze, and the wish for capture (R443 step 1, R445). -/
def preStart (s : State) (w area size : Word) : M (Except Nat (Pre × State)) :=
  if preBad w area size then .ok (.error 3)
  else match s.unitIds w with
    | none => .ok (.error 1)
    | some ids =>
      let tiles := s.unitTiles w ids
      let a := s.unitAsid w ids
      if ids.isEmpty && tiles.all fun t => (s.tileParts w ids a t).isEmpty then .ok (.error 1)
      else if ids.contains s.cur.id then fail .ctxState s.openWord
      else
        let s := s.release s.myCore .sy
        let s := ids.foldl (fun s i => s.modCtx i fun c => { c with capt := true }) s
        let s := if uUnit w = 3 then
            tiles.foldl (fun s t => s.modTile t fun k => { k with frozen := k.frozen.filter (· != a.toNat) ++ [a.toNat] }) s
          else s
        let p : Pre := { ids := ids, tiles := if uUnit w = 0 then [] else tiles,
                         mask := if uUnit w = 3 then some (uMask w) else none, asid := a }
        .ok (.ok (p, s))

/-- PREEMPT as it ends: the images are written, or do not fit (R445). -/
def preEnd (s : State) (w area size : Word) (p : Pre) : Nat × State :=
  let ids := p.ids.filter fun i => (s.ctx i).taken
  let a := s.unitAsid w ids
  let s := { s with pres := del s.cur.id s.pres }
  let (l, total) := s.unitImages w ids p.tiles a
  if size.toNat < total then (2, ((p.ids.foldl (fun s i => s.releaseCapture i) s).voidTiles w a p.tiles).thaw p.tiles a)
  else (0, s.preWrite w area.toNat p a l total)

end State

/-- PREEMPT (R439, R440, R443, R445): it parks until its unit is captured, and then writes it. -/
def execPreempt (d a : XReg) (s : State) : Out :=
  let w := s.rx a 0
  let area := s.rx (xnext a) 1
  let size := s.rx (xnext (xnext a)) 2
  s.run (do
    s.needPriv 88
    match find s.cur.id s.pres with
    | some p =>
      let (n, t) := s.preEnd w area size p
      .ok (t.wx d (W n))
    | none => do
      s.relGate
      match ← s.preStart w area size with
      | .error n => .ok (s.wx d (W n))
      | .ok (p, t) => .error (.wait (.capture s.cur.id) { t with pres := put s.cur.id p t.pres }.noteTaken))

/-- CONTEXT_CAPTURE (R440): of context u, at its instruction boundary; a wait that is not a barrier's is withdrawn. -/
def execContextCapture (s : State) : Out :=
  let id := s.cur.u
  let c := s.ctx id
  let t := if c.capt && !c.taken && s.canCapture c then
      ((s.withdraw id).leaveReplay id).modCtx id fun c => { c with taken := true } else s
  .next t.noteTaken

/-! ### RESUME (R444, R446) -/

/-- A tile of the captured ones at its destination, if that lies in the grid. -/
def shiftTid (org dst t : Nat) : Option Nat :=
  let x : Int := (tileX t : Int) + tileX dst - tileX org
  let y : Int := (tileY t : Int) + tileY dst - tileY org
  if 0 ≤ x && x < 112 && 0 ≤ y && y < 64 then some (tidOf x.toNat y.toNat) else none

/-- How TIDs and identities of restored state are renamed (R446). -/
structure Shift where
  org   : Nat
  dst   : Nat
  tiles : List Nat
deriving DecidableEq, Repr

/-- A TID as restored state holds it: that of a captured tile is shifted. -/
def Shift.tid (h : Shift) (t : Nat) : Nat := if h.tiles.contains t then (shiftTid h.org h.dst t).getD t else t

/-- An identity or a core key as restored state holds it. -/
def Shift.id (h : Shift) (i : Nat) : Nat := i / 2 ^ 13 * 2 ^ 13 + h.tid (i % 2 ^ 13)

/-- A message of a run queue or an overflow store (R446). -/
def Shift.msg (h : Shift) (m : Msg) : Msg :=
  let w := m.w[1]
  { m with w := m.w.set 1 (W (w.toNat / 2 ^ 13 * 2 ^ 13 + h.tid (State.hdrTid w))), sender := h.tid m.sender }

/-- A field of n bits of a wide value is replaced. -/
def putField {w : Nat} (v : BitVec w) (lo n x : Nat) : BitVec w :=
  BitVec.ofNat w (v.toNat - v.toNat / 2 ^ lo % 2 ^ n * 2 ^ lo + x % 2 ^ n * 2 ^ lo)

/-- Words of a wide value that hold addresses: on path 2, the tile that they name is renamed (R184, R336, R446). -/
def Shift.words {w : Nat} (h : Shift) (v : BitVec w) (l : List Nat) : BitVec w :=
  l.foldl (fun v i =>
    let a := wordOf v i
    let t := h.tid (State.bankTile 0 a)
    if Bits a 60 4 = 2 then putField (putField v (64 * i + 22) 7 (tileX t)) (64 * i + 29) 6 (tileY t) else v) v

/-- An address. -/
def Shift.addr (h : Shift) (a : Word) : Word := h.words a [0]

/-- The reuse of a job, with its stored input and output (R376, R446). -/
def Shift.arc (h : Shift) (a : JobArc) : JobArc :=
  { a with desc := a.desc.zipIdx.map fun (w, i) => if i = 1 || i = 2 then h.addr w else w
           shape := a.shape.zipIdx.map fun (x, i) => if 8 ≤ i && i ≤ 9 then (h.addr (W x)).toNat else x
           input := a.input.map fun p => { p with dst := h.addr p.dst } }

/-- A job's submitter, addresses, handles and run (R301, R446). -/
def Shift.job (h : Shift) (j : Job) : Job :=
  let handle (x i : Nat) : Nat := if (j.kind == .spmm || j.kind == .opmul) && decide (i < 2) then
      (h.words (BitVec.ofNat 512 x) [2, 3, 4, 5, 6]).toNat else x
  { j with sub := h.id j.sub, desc := h.words j.desc [0, 1, 2, 3], arc := j.arc.map h.arc,
           acc := j.acc.zipIdx.map fun (x, i) => handle x i, chain := j.chain.map fun c => (h.tid c.1, c.2) }

/-- A copy's submitter and addresses (R336, R446). -/
def Shift.copy (h : Shift) (y : Copy) : Copy := { y with sub := h.id y.sub, desc := h.words y.desc [0, 1, 5] }

/-- The TIDs of a run's control block: its domain and its expert tiles (R356, R446). -/
def Shift.lcb (h : Shift) (d : BitVec 8192) : BitVec 8192 :=
  let d := putField d 81 13 (h.tid (lb d 1 17 13))
  (List.range 192).foldl (fun d g => putField d (1024 + 16 * g) 13 (h.tid (lTile d g))) d

/-- A context's bank accesses that have not performed (R336, R446). -/
def Shift.ctx (h : Shift) (c : Ctx) : Ctx := { c with accs := c.accs.map fun e => { e with tid := h.tid e.tid } }

/-- A part of a unit as it is restored (R446). -/
def Shift.part (h : Shift) (p : SavedPart) : SavedPart :=
  match p with
  | .ctx i c => .ctx (h.id i) (h.ctx c)
  | .bank t b k o =>
    let ring := { k.ring with slots := k.ring.slots.map fun (e : Nat × RSlot) => (e.1, { e.2 with tid := h.tid e.2.tid }) }
    .bank (h.tid t) b { k with ring := ring } o
  | .bars t l => .bars (h.tid t) (l.map fun (e : Nat × Bar) =>
      (e.1, { e.2 with ptid := h.tid e.2.ptid, root := (h.tid e.2.root.1, e.2.root.2) }))
  | .msgs t c l => .msgs (h.tid t) (h.id c) (l.map h.msg)
  | .ovr t l => .ovr (h.tid t) (l.map h.msg)
  | .wins t l => .wins (h.tid t) l
  | .bins t l => .bins (h.tid t) l
  | .arcs t l => .arcs (h.tid t) (l.map fun (e : Nat × Arc) =>
      (e.1, { e.2 with shape := e.2.shape.zipIdx.map fun (x, i) => if 8 ≤ i && i ≤ 9 then (h.addr (W x)).toNat else x }))
  | .counts t l => .counts (h.tid t) l
  | .jobs t l b0 b1 k => .jobs (h.tid t) (l.map fun (e : Nat × JobSlot) => (e.1, { e.2 with job := e.2.job.map h.job })) b0 b1 k
  | .chans t l => .chans (h.tid t) (l.map fun (e : Nat × Channel) =>
      (e.1, { e.2 with queue := e.2.queue.map h.copy }))
  | .chain t sh l => .chain (h.tid t) (sh.map fun (x : Shard) =>
      { x with lead := h.tid x.lead, posted := false, cols := if h.tiles.contains (gateTile t) then x.cols else 0
               gate := x.gate.map fun g => (g.1, none) })
      (l.map fun r => { r with sub := h.id r.sub, lcb := h.lcb r.lcb, shards := r.shards.map h.tid,
                               pieces := r.pieces.map fun ps => ps.map fun p => { p with tid := h.tid p.tid } })
  | .sub q e u => .sub q e { u with tid := h.tid u.tid, sub := h.id u.sub, desc := h.words u.desc [1, 5] }

namespace State

/-- Does a restored part find its place taken (R446 BUSY)? -/
def partBusy (s : State) (p : SavedPart) : Bool :=
  match p with
  | .ctx i _ => (s.ctx i).st != .free
  | .bank t b _ _ => ((s.tile t).bank b).mode != .cache || ((s.tile t).bank b).pool
  | .bars t l => l.any fun e => ((s.tile t).bar e.1).use
  | .msgs _ _ _ | .ovr _ _ | .counts _ _ => false
  | .wins t l => l.any fun e => (getD ({} : Window) (s.tile t).eng.wins e.1).st != .free
  | .bins t l => l.any fun e => (find e.1 (s.tile t).eng.bins).isSome
  | .arcs t l => l.any fun e => (getD ({} : Arc) (s.tile t).eng.arcs e.1).held
  | .jobs t l b0 b1 k =>
    l.any (fun e => ((s.tile t).slot e.1).job.isSome || !e.2.job.any fun j => kindOk (tileKind t) j.kind) ||
    (b0 != {} && (s.tile t).b0.asid.isSome) || (b1 != {} && (s.tile t).b1.asid.isSome) ||
    (k != {} && (s.tile t).topk.asid.isSome)
  | .chans t l => l.any fun e => !(s.chan t e.1).queue.isEmpty || (s.chan t e.1).ents.any (·.2.live)
  | .chain t sh l => (sh.isSome && (s.tile t).eng.shard.isSome) || !l.isEmpty && !(s.tile t).eng.leadq.isEmpty
  | .sub q e _ => (s.sub q e).live

/-- A part takes its place (R446); a bank's contents come from the area. -/
def placePart (s : State) (area : Nat) (p : SavedPart) : State :=
  match p with
  | .ctx _ _ => s
  | .bank t b k o =>
    let s := (s.flushBank t b).modTile t fun x => (x.zeroBank b).setBank b { k with kept := false, on := true }
    (List.range 2048).foldl (fun s n => s.bankStore t (b * 2 ^ 17 + 64 * n) 64 (s.rawLoad (area + o + 64 + 64 * n) 64)) s
  | .bars t l => l.foldl (fun s e => s.setBar t e.1 e.2) s
  | .msgs t _ l | .ovr t l => s.joinMsgs t l
  | .wins t l => s.modEng t fun e => { e with wins := l.foldl (fun m x => put x.1 x.2 m) e.wins }
  | .bins t l => s.modEng t fun e => { e with bins := l.foldl (fun m x => put x.1 x.2 m) e.bins }
  | .arcs t l => s.modEng t fun e => { e with arcs := l.foldl (fun m x => put x.1 x.2 m) e.arcs }
  | .counts t l => s.modTile t fun k => { k with regs := l.foldl (fun m x =>
      let (a, b) := getD (0, 0) m x.1
      put x.1 ((a + x.2.1) % 2 ^ 32, (b + x.2.2) % 2 ^ 32) m) k.regs }
  | .jobs t l b0 b1 k =>
    s.attachFloor (s.modTile t fun x =>
      { x with jobs := l.foldl (fun m e => put e.1 e.2 m) x.jobs
               b0 := if b0 == {} then x.b0 else b0
               b1 := if b1 == {} then x.b1 else b1
               topk := if k == {} then x.topk else k }) t
  | .chans t l => l.foldl (fun s e => s.modChan t e.1 fun c =>
      { queue := c.queue ++ e.2.queue, ents := e.2.ents.foldl (fun m x => put x.1 x.2 m) c.ents }) s
  | .chain t sh l =>
    let n := s.modEng t fun e =>
      { e with shard := match sh with | some h => some h | none => e.shard
               leadq := e.leadq ++ l
               ltag := l.foldl (fun n r => Nat.max n r.tag) e.ltag }
    if sh.any fun h => h.gate.isSome then s.attachFloor n (gateTile t) else n
  | .sub q e u => s.setSub q e u

/-- Completions that an engine image held perform before any job issues (R301, R446). -/
def settleJobs (s : State) (p : SavedPart) : State :=
  match p with
  | .jobs t l _ _ _ => l.foldl (fun s e =>
      match ((s.tile t).slot e.1).job with
      | some j =>
        if j.ovr then ((s.workFor j.sub j.colour).completeJob t e.1 j).workFor s.cur.sub s.cur.colour else s
      | none => s) s
  | _ => s

/-- A gang's record follows its restored members, and for a gang unit its origin (R37, R95, R446). -/
def moveGang (s : State) (h : Shift) (ids : List Nat) (whole : Bool) : State :=
  { s with gangs := s.gangs.map fun (e : Nat × Gang) =>
      if e.2.live.any ids.contains then
        let live := e.2.live.map fun i => if ids.contains i then h.id i else i
        if whole then
          (e.1, { e.2 with live := live, origin := h.dst, w := e.2.w.set 1 (W (e.2.w[1].toNat / 2 ^ 13 * 2 ^ 13 + h.dst)) })
        else (e.1, { e.2 with live := live })
      else e }

/-- Shards and jobs outside the captured tiles follow a run that moves, and a run's shards that move are named anew at its
lead (R366, R446). -/
def moveChains (s : State) (h : Shift) (parts : List SavedPart) : State :=
  let moved (lead tag : Nat) : Bool := parts.any fun p => match p with
    | .chain t _ l => t == lead && l.any fun r => r.tag == tag
    | _ => false
  let shardOf (t lead tag : Nat) : Bool := parts.any fun p => match p with
    | .chain u (some x) _ => u == t && x.lead == lead && x.tag == tag
    | _ => false
  { s with tiles := s.tiles.map fun (e : Nat × Tile) =>
      let jobs := e.2.jobs.map fun (k : Nat × JobSlot) => (k.1, { k.2 with job := k.2.job.map fun j =>
        { j with chain := j.chain.map fun c => if moved c.1 c.2.1 then (h.tid c.1, c.2) else c } })
      let shard := e.2.eng.shard.map fun x => if moved x.lead x.tag then { x with lead := h.tid x.lead } else x
      let leadq := e.2.eng.leadq.map fun r =>
        { r with shards := r.shards.map fun t => if shardOf t e.1 r.tag then h.tid t else t }
      (e.1, { e.2 with jobs := jobs, eng := { e.2.eng with shard := shard, leadq := leadq } }) }

/-- The close of a partition ends (R444): the same tiles accept again, or forward to where the state went. -/
def endClose (s : State) (h : Shift) (a : BitVec 10) : State :=
  let s := h.tiles.foldl (fun s t => s.modTile t fun k => { k with closed := k.closed.filter (· != a.toNat) }) s
  if h.org = h.dst then s
  else h.tiles.foldl (fun s t => s.modTile t fun k =>
    let l := k.fwd.filter fun e => e.1 != a.toNat
    { k with fwd := (if l.length < 16 then l else l.drop 1) ++ [(a.toNat, h.tid t)] }) s

/-- The captured unit whose directory stands at an address (R442, R446). -/
def unitAt (s : State) (area : Nat) : Option (Nat × SavedUnit) :=
  let same (u : SavedUnit) : Bool := !u.dir.isEmpty && (List.range u.dir.length).map (fun i => W (s.rawLoad (area + 8 * i) 8)) == u.dir
  let at_ (l : List (Nat × SavedUnit)) : Option (Nat × SavedUnit) :=
    match find area l with
    | some u => if same u then some (area, u) else l.find? fun e => same e.2
    | none => l.find? fun e => same e.2
  match at_ s.saved with
  | some r => some r
  | none => at_ s.areas

/-- A restored unit, with its context images, no longer waits for what is still on its way (R446). -/
def setResumed (s : State) (key : Nat) (u : SavedUnit) : State :=
  (key :: u.ctxs.map fun e => key + e.2).foldl (fun s k =>
    match find k s.saved with
    | some x => { s with saved := del k s.saved, areas := put k x s.areas }
    | none => s) s

/-- A unit is restored (R446). -/
def restoreUnit (s : State) (key area : Nat) (u : SavedUnit) (h : Shift) (parts : List SavedPart) : State :=
  let ids := u.ctxs.map (·.1)
  let placed := (parts.filterMap fun p => match p with
    | .bank t _ _ _ | .bars t _ | .msgs t _ _ | .ovr t _ | .wins t _ | .bins t _ | .arcs t _ | .counts t _
    | .jobs t _ _ _ _ | .chans t _ | .chain t _ _ => some t
    | _ => none) ++ ids.map fun i => idTid (h.id i)
  let s := placed.eraseDups.foldl (fun s t => s.modTile t fun k => { k with fwd := k.fwd.filter fun e => e.1 != u.asid.toNat }) s
  let s := parts.foldl (fun s p => s.placePart area p) (s.moveChains h u.parts)
  let s := placed.eraseDups.foldl (fun s t => s.queueDue t) s
  let s := s.moveGang h ids (uUnit u.desc == 2)
  let s := u.ctxs.foldl (fun s e =>
    let base := match find (key + e.2) (if (find key s.saved).isSome then s.saved else s.areas) with
      | some { parts := [.ctx _ c], .. } => h.ctx c
      | _ => {}
    let i := h.id e.1
    let s := s.modCore (coreOf i) fun c => { c with rsv := c.rsv.filter (· != idCtx i) }
    s.restoreAt (area + e.2) i base) s
  let s := placed.eraseDups.foldl (fun s t => s.engAcquire t .sy) s
  let s := parts.foldl (fun s p => s.settleJobs p) s
  let s := s.setResumed key u
  if uUnit u.desc = 3 then s.endClose h u.asid else s

/-- The status of RESUME and what it leaves (R446). -/
def resumeUnit (s : State) (area dst : Nat) : M (Nat × State) :=
  match s.unitAt area with
  | none => .ok (2, s)
  | some (key, u) =>
    if (s.profile u.asid).isNone then fail .asidUnbound s.openWord
    else
      let dst := if uUnit u.desc = 0 then u.origin else dst
      let tiles := (u.tiles ++ u.ctxs.map fun c => idTid c.1).eraseDups
      let h : Shift := { org := u.origin, dst := dst, tiles := tiles }
      let parts := u.parts.map h.part
      if tiles.any fun t => match shiftTid h.org h.dst t with
          | some x => !s.live x
          | none => true then .ok (3, s)
      else if (u.ctxs.any fun c => (s.ctx (h.id c.1)).st != .free) || parts.any s.partBusy then .ok (1, s)
      else .ok (0, s.restoreUnit key area u h parts)

end State

/-- RESUME (R444, R446). -/
def execResume (d a : XReg) (s : State) : Out :=
  let area := s.rx a 0
  let dst := Bits (s.rx (xnext a) 1) 0 13
  s.run (do
    s.needPriv 88
    if area.toNat % 4096 ≠ 0 || Config.moduleBytes ≤ area.toNat then .ok (s.wx d 2)
    else
      let (n, t) ← s.resumeUnit area.toNat dst
      .ok (t.wx d (W n)))

end Sys2Proof.Machine
end

