-- ==== Sys2Proof/Machine/Host.lean ====
section
/-! DEFINITION. Meanings of the errors (R431), the host and the peers (R452-R457), the mailbox (R461-R463), the fatal dump
(R464, R465) and bring-up (R459-R462). -/

namespace Sys2Proof.Machine

/-! ### Errors (R431) -/

/-- CORRECTED_ERROR (R431): the message that reports it. -/
def execCorrectedError (tid : Nat) (info : Word) (s : State) : Out :=
  .next (s.sendFault (chipOf tid) { code := .softCorr, info := info } { src := 5, tid := tid % 2 ^ 13 } false false 0 0 0)

namespace State

/-- An uncorrectable fault whose further word no rule states (log 7). -/
def uncorr (s : State) : Flt := { code := .dataUncorr, info := W (Config.freeNat s.seq % 2 ^ 32) }

/-- A context's data is lost: result `index` on its way, or from 2^16 on the data that its atomic without a result met at the
home (R221), or the register that it reads (R82, R431). -/
def strikeCtx (s : State) (id index : Nat) (info : Word) : State :=
  let f : Flt := { code := .dataUncorr, info := info }
  let c := s.ctx id
  if c.st = .free then s
  else if 2 ^ 16 ≤ index then
    match c.status[index - 2 ^ 16]? with
    | some e => s.setCtx id { c with status := setNth c.status (index - 2 ^ 16) { e with flt := some (e.flt.getD f) } }
    | none => s
  else match c.pend[index]? with
    | some e => s.setCtx id { c with pend := setNth c.pend index { e with flt := some (e.flt.getD f) } }
    | none => s.setCtx id { c with late := some (c.late.getD { flt := f, pc := c.pc }) }

/-- The job that runs in a slot has read lost data (R431). -/
def strikeJob (s : State) (tid slot : Nat) : State :=
  match ((s.tile tid).slot slot).job with
  | some j =>
    if j.st = .running && !j.ovr then
      s.modTile tid fun t => { t with jobs := put slot { t.slot slot with job := some { j with ovr := true, stop := some s.uncorr } } t.jobs }
    else s
  | none => s

/-- The running copy of a channel has read lost data (R431). -/
def strikeCopy (s : State) (tid ch : Nat) : State :=
  match (s.chan tid ch).queue with
  | y :: _ => if y.run && !copyOver y then s.setHead tid ch { y with fault := some s.uncorr } else s
  | [] => s

/-- A stream has read lost data (R431). -/
def strikeSub (s : State) (q e : Nat) : State :=
  let u := s.sub q e
  if u.live then s.setSub q e { u with fault := some (u.fault.getD s.uncorr) } else s

/-- A line of code is lost: the cached copy fails its parity, and so does the next one that is fetched (R47, R431). -/
def strikeCode (s : State) (core line : Nat) : State :=
  s.modCore core fun k => match find line k.l1i with
    | some d => { k with l1i := put line (badLine d) k.l1i, lost := some line }
    | none => k

/-- While a dump is taken, an error strikes the section that is being read (R464, R465). -/
def strikeDump (s : State) (kind tid sub : Nat) : State :=
  { s with norb := { s.norb with bad := (kind, tid, sub) :: s.norb.bad } }

end State

/-- UNCORRECTABLE_ERROR (R431, R464): by where it lies.  The fault code of a fatal one is open (log 7). -/
def execUncorrectableError (site : ErrorSite) (s : State) : Out :=
  .next (if s.norb.trig.isSome then
    match site with
    | .ctxData id _ _ => s.strikeDump 1 (idTid id) (idCore id * 16 + idCtx id)
    | .jobData tid _ => s.strikeDump 5 (tid % 2 ^ 13) 0
    | .copyData tid _ => s.strikeDump 6 (tid % 2 ^ 13) 0
    | .streamData q entry => s.strikeDump 8 (s.sub q entry).tid (q + entry * 64)
    | .dumped kind tid sub => s.strikeDump kind tid sub
    | .code _ _ => s
    | .fatal tid info => s.trigger 0 (Config.freeNat s.seq % 256) info (tid % 2 ^ 13)
  else if s.norb.halted then s
  else match site with
    | .ctxData id index info => s.strikeCtx id index info
    | .jobData tid slot => s.strikeJob tid slot
    | .copyData tid ch => s.strikeCopy tid ch
    | .streamData q entry => s.strikeSub q entry
    | .code core line => s.strikeCode core line
    | .dumped _ _ _ => s
    | .fatal tid info => s.trigger 0 (Config.freeNat s.seq % 256) info (tid % 2 ^ 13))

/-! ### The host and the peers (R452-R457) -/

namespace State

/-- A launch window's record changes. -/
def modWin (s : State) (ci w : Nat) (f : LaunchWin → LaunchWin) : State :=
  s.modChip ci fun c => { c with win := put w (f (getD {} c.win w)) c.win }

/-- A write to slot `slot` of launch window w of chiplet ci (R454, R455). -/
def launchLine (s : State) (ci w slot : Nat) (data : List Byte) : State :=
  let l := getD ({} : LaunchWin) (s.chip ci).win w
  if 63 ≤ slot || 8 ≤ w || 448 ≤ ci then s
  else match s.superTile ci with
    | none => s.modWin ci w fun l => { l with drop := l.drop + 1 }
    | some sup =>
      if !Bit l.cfg 10 || data.length ≠ 64 || 64 ≤ l.buf.length then s.modWin ci w fun l => { l with drop := l.drop + 1 }
      else
        let ws := words8 (data.foldr (fun b n => b.toNat + 256 * n) 0)
        let h := ws[1]
        let gang := Bit l.cfg 12
        let m : Msg :=
          { w := if gang then ws else ws.set 1 (h &&& ~~~(W (2 ^ 27))), asid := BitVec.ofNat 10 (Bits l.cfg 0 10),
            nfm := !gang && Bit h 27, sender := sup, colour := 0 }
        let x : Launch := { msg := m, gang := gang, priv := Bit l.cfg 11 }
        (s.modWin ci w fun l => { l with buf := l.buf ++ [x] }).serveWindow ci w 65

/-- A byte of the exposed module memory is written by a host agent (R452, R453). -/
def hostByte (s : State) (a : Nat) (b : Byte) : State :=
  if Bit s.hdmcfg 0 && a < Bits s.hdmcfg 1 12 * 2 ^ 30 then s.rawStore a 1 b.toNat else s

/-- Where the launch windows begin and end in the device address space (R452). -/
def launchBase : Nat := 0x30000000000
def launchEnd : Nat := 0x30000E00000

/-- A host agent writes bytes at a device address: one line of a launch window at a time, or bytes of memory (R452-R454). -/
def hostWrite (s : State) (dpa : Nat) (data : List Byte) : State :=
  if dpa < launchBase then
    ((List.range data.length).zip data).foldl (fun s e => s.hostByte (dpa + e.1) e.2) s
  else if launchEnd ≤ dpa then s
  else
    let o := dpa - launchBase
    (List.range ((o % 64 + data.length + 63) / 64)).foldl (fun s i =>
      let line := o / 64 + i
      let part := if i = 0 then data.take (64 - o % 64) else (data.drop (64 * i - o % 64)).take 64
      s.launchLine (line / 512) (line / 64 % 8) (line % 64) part) s

end State

namespace State

/-- The byte that a host read of a device address returns: of the exposed module memory as it stands at its quarry, or of a
launch window, where slot 63 shows LWSTAT (R452-R454). -/
def hostRead (s : State) (a : Nat) : Byte :=
  if a < launchBase then
    if Bit s.hdmcfg 0 && a < Bits s.hdmcfg 1 12 * 2 ^ 30 then BitVec.ofNat 8 (s.rawLoad a 1) else 0
  else if a < launchEnd && (a - launchBase) / 64 % 64 = 63 && a % 64 < 8 then
    BitVec.ofNat 8 ((s.lwStat ((a - launchBase) / 2 ^ 15) ((a - launchBase) / 2 ^ 12 % 8)).toNat / 2 ^ (8 * (a % 64)))
  else 0

/-- Bytes of the host's own memory are written by the host (R180, R451): host physical addresses have 57 bits. -/
def hostOwnWrite (s : State) (addr : Nat) (data : List Byte) : State :=
  ((List.range data.length).zip data).foldl (fun s e =>
    if addr + e.1 < 2 ^ 57 then s.rawStore (Config.hostBase + addr + e.1) 1 e.2.toNat else s) s

/-- n bytes of the host's own memory, as the host reads them: what reached it through CXL.cache (R180). -/
def hostOwnRead (s : State) (addr n : Nat) : List Byte :=
  (List.range n).map fun i => if addr + i < 2 ^ 57 then BitVec.ofNat 8 (s.rawLoad (Config.hostBase + addr + i) 1) else 0

end State

/-- HOST_MEMORY_ACCESS (R452-R454, R456): a write performs at the quarries; a read returns its bytes and changes nothing
else. -/
def execHostMemoryAccess (dpa len : Nat) (data : Option (List Byte)) (s : State) : Out :=
  .next (match data with
    | none => { s with host := (List.range len).map fun i => s.hostRead (dpa + i) }
    | some l => s.hostWrite dpa (l.take len))

/-- LAUNCH_WRITE (R454, R455). -/
def execLaunchWrite (ci w slot : Nat) (data : List Byte) (s : State) : Out := .next (s.launchLine ci w slot data)

/-- LAUNCH_RESEND (R455 step 4): flight u, the head of a launch window's buffer. -/
def execLaunchResend (s : State) : Out :=
  .next (s.resendFlight fun o => match o with | .window _ _ => true | _ => false)

/-- PEER_PORT_LINK_CHANGE (R456): UP of port p. -/
def execPeerPortLinkChange (p : Nat) (up : Bool) (s : State) : Out :=
  .next (if 24 ≤ p then s
  else
    let r := getD {} s.peers p
    let w := withBits r.reg 1 1 (b2n up)
    { s with peers := put p { r with reg := w } s.peers })

/-! ### The mailbox (R461-R463) -/

namespace State

/-- STATUS when no command runs (R459, R463, R464). -/
def idleStatus (n : Norb) : MboxSt :=
  if n.trig.isSome then .dumping else if n.failed then .bootfail else if n.halted then .halted else .ready

/-- A mailbox command runs: CMD and ARG hold what was written, and STATUS reads BUSY until it ends; none is BADARG.  While
the mailbox is BUSY, the command is ignored (R463). -/
def mailbox (s : State) (cmd arg : Nat) (f : Norb → Option Norb) : State :=
  if s.norb.status = .busy then s
  else
    let n := { s.norb with cmd := W cmd, arg := W arg, status := .busy }
    match f n with
    | some n => { s with norb := { n with fails := false } }
    | none => { s with norb := { n with fails := true } }

/-- The command that runs ends: STATUS reads BADARG, or what it reads when no command runs (R463). -/
def mailboxEnd (s : State) : State :=
  let n := s.norb
  if n.status = .busy then { s with norb := { n with status := if n.fails then .badarg else idleStatus n } } else s

/-- What the host reads at an offset of the memory BAR (R463). -/
def barWord (n : Norb) (off : Nat) : Word :=
  if off = 0 then n.cmd
  else if off = 0x8 then n.arg
  else if off = 0x10 then W n.status.num
  else if 0x1000 ≤ off && off < 0x2000 then n.window.getD ((off - 0x1000) / 8) 0
  else 0

/-- The command of a number (R463). -/
def mailboxRow (cmd : Nat) : Instr :=
  match cmd with
  | 1 => .readlog | 2 => .clearlog | 3 => .dumpinfo | 4 => .readdump | 5 => .releasedump
  | _ => .mailboxUnknownCmd

/-- Where the dump region begins (R464). -/
def dumpBase : Nat := 0x2FF80000000

/-- 512 words from an offset of the dump region. -/
def dumpWords (s : State) (off : Nat) : List Word := (List.range 512).map fun i => W (s.rawLoad (dumpBase + off + 8 * i) 8)

end State

/-- READLOG (R461, R463): ARG is the cursor's u. -/
def execReadlog (s : State) : Out :=
  let i := s.cur.u
  .next (s.mailbox 1 i fun n =>
    if i % 256 ≠ 0 || 4096 ≤ i then none
    else some { n with window := (List.range 256).flatMap fun k => let r := n.log.getD (i + k) (0, 0); [r.1, r.2] })

/-- CLEARLOG (R461, R463). -/
def execClearlog (s : State) : Out := .next (s.mailbox 2 s.cur.u fun n => some { n with log := [] })

/-- DUMPINFO (R463): the dump header, or zeros. -/
def execDumpinfo (s : State) : Out :=
  .next (s.mailbox 3 s.cur.u fun n => some { n with window := if n.dumpv then s.dumpWords 0 else [] })

/-- READDUMP (R463): 4 KiB of the dump region from ARG on. -/
def execReaddump (s : State) : Out :=
  let o := s.cur.u
  .next (s.mailbox 4 o fun n => if o % 4096 ≠ 0 || 2 ^ 31 ≤ o then none else some { n with window := s.dumpWords o })

/-- RELEASEDUMP (R463). -/
def execReleasedump (s : State) : Out := .next (s.mailbox 5 s.cur.u fun n => some { n with dumpv := false })

/-- MAILBOX_UNKNOWN_CMD (R463): CMD is the cursor's v; one of the five commands is no unknown one. -/
def execMailboxUnknownCmd (s : State) : Out :=
  .next (if 1 ≤ s.cur.v && s.cur.v ≤ 5 then s else s.mailbox s.cur.v s.cur.u fun _ => none)

/-! ### The fatal dump (R464, R465) -/

namespace State

/-- The sections of a dump: an image for each context that is not FREE and for each tile resource, the step log, and the
tables of the fabric (R465).  Bodies that the spec does not lay out are free (log 20); their sizes are the model's. -/
def dumpSections (s : State) : List Img :=
  let cs : List Img := (s.ctxs.filter fun e => e.2.st != .free).map fun e =>
    { kind := 1, tid := idTid e.1, sub := idCore e.1 * 16 + idCtx e.1, bytes := 6144, part := some (.ctx e.1 e.2) }
  let ts := s.tiles.flatMap fun t => s.spaces.flatMap fun a => tileImages t.1 (s.asidParts t.1 (BitVec.ofNat 10 a.1))
  cs ++ ts ++ [{ kind := 9, tid := 0, sub := 0, bytes := 65536 }, { kind := 10, tid := 0, sub := 0, bytes := 2 ^ 21 },
    { kind := 11, tid := 0, sub := 0, bytes := 2 ^ 18 }, { kind := 12, tid := 0, sub := 0, bytes := 2 ^ 18 }]

/-- What the sections without a layout hold, as data beside the dump's bytes (R465; log 20). -/
def dumpData (s : State) : DumpData :=
  { parts := s.tiles.flatMap fun t => s.spaces.flatMap fun a => s.asidParts t.1 (BitVec.ofNat 10 a.1)
    faults := s.chips.map fun c => (c.1, c.2.fq, s.fqStat c.1)
    zones := s.zones
    regions := s.spaces.map fun a => (a.1, a.2.regions)
    counts := s.tiles.map fun t => (t.1, t.2.regs) }

/-- Offsets of the sections in units of 512 bytes from the header's end on, while they fit the directory and the region. -/
def placeSections : Nat → Nat → List Img → List (Img × Nat)
  | _, _, [] => []
  | 0, _, _ => []
  | n + 1, o, i :: r =>
    let e := o + (i.bytes + 511) / 512
    if 2 ^ 22 < e then [] else (i, o) :: placeSections n e r

/-- A section's body is written (R465). -/
def putSection (s : State) (i : Img) (off : Nat) : State :=
  let pa := dumpBase + 512 * off
  match i.part, i.kind with
  | some (.ctx id c), _ => s.writeImage pa id (captured c)
  | some (.bank _ _ _ _), _ => s.putImage dumpBase i (512 * off)
  | _, 9 => (List.range 4096).foldl (fun s n =>
      let r := s.norb.log.getD n (0, 0)
      s.rawStore (pa + 16 * n) 16 (r.1.toNat + r.2.toNat * 2 ^ 64)) s
  | _, _ => s.freeFill pa i.bytes

/-- The header of a dump (R465); word 7 is open. -/
def dumpHeader (s : State) (src code : Nat) (reason : Word) (tid : Nat) (l : List (Img × Nat)) : List Word :=
  let n := s.norb
  let second := match n.second with
    | some (a, b, c) => a + b * 2 ^ 8 + c * 2 ^ 16 + 2 ^ 25
    | none => 0
  [0x44554D5057480001, W (src + code * 2 ^ 8 + b2n n.dumpv * 2 ^ 16), reason, W (tid + chipOf tid * 2 ^ 13), W n.trigAt,
   W (n.bootseq % 2 ^ 32), W second, Config.freeWord s.seq] ++
    l.flatMap (fun e => [W (e.1.kind + b2n (n.bad.contains (e.1.kind, e.1.tid, e.1.sub)) * 2 ^ 8 + e.2 * 2 ^ 9), W e.1.bytes]) ++
    [0, 0]

end State

/-- FATAL_DUMP (R464, R465): the dump that was triggered is written, and the module stays halted. -/
def execFatalDump (s : State) : Out :=
  .next (match s.norb.trig with
    | none => s
    | some (src, code, reason, tid) =>
      let l := State.placeSections 251 8 s.dumpSections
      let h := s.dumpHeader src code reason tid l
      let s := { s with dump := some s.dumpData }
      let s := l.foldl (fun s e => s.putSection e.1 e.2) s
      let s := ((List.range h.length).zip h).foldl (fun s e => s.rawStore (State.dumpBase + 8 * e.1) 8 e.2.toNat) s
      let n := { s.norb with trig := none, second := none, bad := [], dumpv := true, halted := true, failed := false, status := .halted }
      { s with norb := n, seq := s.seq + 1 })

/-! ### Bring-up (R459-R462) -/

/-- STEP, RESULT and UNIT of a step-log record (R461). -/
def recStep (r : StepRec) : Nat := Bits r.1 32 4
def recResult (r : StepRec) : Nat := Bits r.1 36 4
def recUnit (r : StepRec) : Nat := Bits r.1 40 16

/-- A bring-up as it goes on. -/
structure Boot where
  seq   : Nat
  /-- Records kept from earlier starts, and those of this start. -/
  kept  : List StepRec
  new   : List StepRec := []
  dark  : List Nat := []
  nfail : Nat := 0
  /-- The step whose outcome was fatal. -/
  fatal : Option Nat := none
deriving DecidableEq, Repr

/-- A record of this start (R461): RESULT 0 has detail 0. -/
def Boot.record (b : Boot) (step unit result : Nat) (detail : Word) : Boot :=
  let r : StepRec := (W (b.seq % 2 ^ 32 + step * 2 ^ 32 + result * 2 ^ 36 + unit * 2 ^ 40), if result = 0 then 0 else detail)
  { b with new := b.new ++ [r], nfail := if result = 0 then b.nfail else b.nfail + 1 }

/-- One unit of one step (R459): `r` is its failure at this start, if any. -/
def Boot.unit (results : List BootResult) (b : Boot) (step unit : Nat) : Boot :=
  if b.fatal.isSome then b
  else
    let ev := results.find? fun r => r.step == step && r.unit == unit
    let old := b.kept.any fun r => recStep r == step && recUnit r == unit && recResult r == 1
    let bad := ev.isSome
    let lost := ev.any fun r => r.result != 1
    let detail := (ev.map (·.detail)).getD (Config.freeWord (b.seq + step * 2 ^ 32 + unit * 2 ^ 40))
    let off (ts : List Nat) : Boot := { b with dark := b.dark ++ ts.filter fun t => !b.dark.contains t }
    let die (b : Boot) : Boot := { b with fatal := some step }
    match step with
    | 1 =>
      let ts := (List.range 16).map (chipTile unit)
      if unit < 448 && old then (off ts).record 1 unit 2 detail
      else if bad && unit < 448 then (off ts).record 1 unit 1 detail
      else if bad then die (b.record 1 unit 1 detail)
      else b.record 1 unit 0 0
    | 2 | 3 =>
      if lost then die (b.record step unit 1 detail)
      else b.record step unit (if old then 3 else if bad then 1 else 0) detail
    | 4 =>
      if old || b.dark.contains unit then (off [unit]).record 4 unit 2 detail
      else if bad then (off [unit]).record 4 unit 1 detail
      else b.record 4 unit 0 0
    | 7 => if bad then die (b.record 7 unit 1 detail) else b.record 7 unit 0 0
    | _ => b.record step unit (if old then 2 else if bad then 1 else 0) detail

/-- Units of the seven steps in order (R459). -/
def bootUnits : List (Nat × Nat) :=
  (List.range 512).map (1, ·) ++ (List.range 852).map (2, ·) ++ (List.range 64).map (3, ·) ++
    ((List.range 8192).filter inGrid).map (4, ·) ++ (List.range 112).map (5, ·) ++ (List.range 64).map (6, ·) ++ [(7, 0)]

/-- The log with one more record (log 33): a full log loses its oldest PASS record to a record that is not PASS. -/
def addRecord (l : List StepRec) (r : StepRec) : List StepRec :=
  if l.length < 4096 then l ++ [r]
  else if recResult r = 0 then l
  else match l.findIdx? fun x => recResult x == 0 with
    | some n => dropNth l n ++ [r]
    | none => l

/-- A start of the module (R459-R462). -/
def bringUp (n : Norb) (results : List BootResult) : Boot × List StepRec :=
  let kept := n.log.filter fun r => recResult r != 0
  let b : Boot := { seq := (n.bootseq + 1) % 2 ^ 32, kept := kept }
  let b := if 3072 < kept.length then { b with fatal := some 0 } else bootUnits.foldl (fun b u => b.unit results u.1 u.2) b
  (b, b.new.foldl addRecord kept)

namespace State

/-- The module after a start that ended as b (R459, R460, R464).  The model's own fields go on. -/
def started (s : State) (b : Boot) (log : List StepRec) : State :=
  let n : Norb := { log := log, bootseq := b.seq, nfail := b.nfail, dumpv := s.norb.dumpv, halted := b.fatal.isSome,
                    failed := b.fatal.isSome, status := if b.fatal.isSome then .bootfail else .ready }
  let held := if s.norb.dumpv then s.mem.filter fun c => decide (dumpBase ≤ c.1) && decide (c.1 < Config.moduleBytes) else []
  { reset with dark := b.dark, norb := n, mem := held, dump := if s.norb.dumpv then s.dump else none, agenda := s.agenda,
               seq := s.seq + 1, cur := s.cur }

/-- A write to a launch window, chiplet and window, that arrived before bring-up was complete counts in DROP (R460). -/
def earlyLaunch (s : State) (e : Nat × Nat) : State :=
  if e.1 < 448 && e.2 < 8 then s.modWin e.1 e.2 fun l => { l with drop := l.drop + 1 } else s

/-- A fatal outcome after step 3 has passed takes a dump (R464); its code, reason and TID are open (log 7). -/
def bootDump (s : State) (b : Boot) : State :=
  match b.fatal with
  | some k =>
    if k ≤ 3 then s
    else
      let n := { s.norb with halted := false, failed := false }
      { s with norb := n }.trigger 2 (Config.freeNat s.seq % 256) s.openWord (Config.freeNat s.seq % 2 ^ 13)
  | none => s

end State

/-- COLD_RESET (R459-R462, R464). -/
def execColdReset (r : BringUp) (s : State) : Out :=
  let (b, log) := bringUp s.norb r.results
  .next (r.early.foldl State.earlyLaunch ((s.started b log).bootDump b))

end Sys2Proof.Machine
end

