-- ==== Sys2Proof/Machine/Power.lean ====
section
/-! DEFINITION. Meanings of the token, quota, frequency and thermal rows (R387-R406, R447). -/

namespace Sys2Proof.Machine

namespace State

/-- The executing tile has a gate, or JOB_KIND with information 0 (R404, R302). -/
def needGate (s : State) : M Unit := failIf (tileKind s.myTid == .v) .jobKind 0

/-- n of R404, 1-255. -/
def tokenCount (s : State) (a : XReg) : M Nat :=
  let n := (s.rx a 0).toNat
  if n = 0 || 255 < n then fail .tokenArg s.openWord else .ok n

/-- The executing tile's request is served, or waits for the next fabric cycle (R390, R393). -/
def reachBroker (s : State) : M State := if s.brokerFree s.myTid then .ok (s.atBroker s.myTid) else .error (.wait .broker s)

/-- Lowest free loan entry of a zone (R391). -/
def freeLoan (s : State) (z : Nat) : Option Nat :=
  (List.range 64).find? fun e => !(getD {} (s.zone z).loans e).live

end State

/-- TKREQ (R390, R404). -/
def execTkreq (d a : XReg) (s : State) : Out :=
  s.run (do
    s.needGate
    let n ← s.tokenCount a
    let t := s.myTid
    let s ← s.reachBroker
    let h := s.held t
    let g := Nat.min n (Nat.min (s.pool (zoneOf t)) (255 - h))
    let st := if g = n then 0 else if g ≠ 0 then 1 else if h = 255 then 3 else 2
    .ok (((s.addG t g).modEng t fun e => { e with come := e.come + g }).wx d (W (g + st * 2 ^ 8))))

/-- TKLEND (R391, R393, R404). -/
def execTklend (d a b : XReg) (s : State) : Out :=
  s.run (do
    s.needGate
    let n ← s.tokenCount a
    let w := s.rx b 1
    let t := s.myTid
    let u := Bits w 0 13
    let term := Bits w 16 16
    failIf (Bits w 13 3 != 0 || Bits w 32 32 != 0 || term == 0) .tokenArg s.openWord
    failIf (!s.gated u || zoneOf u != zoneOf t || u == t) .tokenTarget s.openWord
    let z := zoneOf t
    let s ← s.reachBroker
    let e := (s.tile t).eng
    match s.freeLoan z with
    | none => .ok (s.wx d 0)
    | some i =>
      if e.g < n + s.underNotice t || 255 < s.loansIn u + n + s.floorOf u + (s.tile u).eng.g then .ok (s.wx d 0)
      else
        let old := getD {} (s.zone z).loans i
        let gen := old.gen % 1023 + 1
        let k := s.zone z
        let l : Loan := { gen := gen, live := true, lender := t, borrower := u, n := n,
                          ends := s.fab + term * Config.usCycles, ord := k.ord }
        let s := s.modZone z fun k => { k with loans := put i l k.loans, ord := k.ord + 1 }
        let s := s.modEng t fun e => { e with g := e.g - n, gone := e.gone + n }
        .ok ((s.modEng u fun e => { e with come := e.come + n }).wx d (W (i + gen * 2 ^ 6))))

/-- TKRET `.g` (R392, R404). -/
def execTkretG (d a : XReg) (s : State) : Out :=
  s.run (do
    s.needGate
    let n ← s.tokenCount a
    let t := s.myTid
    let s ← s.reachBroker
    let m := Nat.min n (s.tile t).eng.g
    .ok ((s.modEng t fun e => { e with g := e.g - m, gone := e.gone + m, notes := State.payNotes e.notes m }).wx d (W m)))

/-- TKRET `.l` (R391, R393, R404). -/
def execTkretL (d a : XReg) (s : State) : Out :=
  s.run (do
    s.needGate
    let w := s.rx a 0
    let z := zoneOf s.myTid
    let s ← s.reachBroker
    let l := getD {} (s.zone z).loans (Bits w 0 6)
    let live := l.live && l.gen == Bits w 6 10
    failIf (Bits w 16 48 != 0 || Bits w 6 10 == 0 || (live && l.lender != s.myTid && l.borrower != s.myTid)) .tokenArg
      s.openWord
    if live then
      let s := (s.endLoan z (Bits w 0 6)).modEng l.lender fun e => { e with come := e.come + l.n }
      .ok ((s.modEng l.borrower fun e => { e with gone := e.gone + l.n }).wx d (W l.n))
    else .ok (s.wx d 0))

/-- TKQRY (R405). -/
def execTkqry (d : XReg) (s : State) : Out :=
  s.run (do
    s.needGate
    let t := s.myTid
    let s ← s.reachBroker
    let s := s.tick t
    let e := (s.tile t).eng
    let r := s.underNotice t
    let cycles := match e.notes with
      | [] => 0
      | x :: _ => x.2 - e.aclk
    let w := s.held t + e.g % 2 ^ 8 * 2 ^ 8 + s.loansIn t % 2 ^ 8 * 2 ^ 16 + s.loansOut t % 2 ^ 8 * 2 ^ 24 +
      b2n (s.floorOf t != 0) * 2 ^ 32 + b2n (r != 0) * 2 ^ 33
    let v := s.pool (zoneOf t) % 2 ^ 12 + r % 2 ^ 8 * 2 ^ 12 + cycles % 2 ^ 13 * 2 ^ 20
    .ok ((s.wx d (W w)).wx (xnext d) (W v)))

/-- EQRD (R406). -/
def execEqrd (d : XReg) (s : State) : Out :=
  let p := s.space s.myAsid.toNat
  s.run (.ok ((s.wx d (W (p.qremain + b2n p.susp * 2 ^ 48))).wx (xnext d) (W p.qrefill)))

/-- ZONE_BUDGET_WRITE (R397, R398). -/
def execZoneBudgetWrite (zone : Nat) (value : Word) (s : State) : Out := .next (s.setBudget zone value)

/-- VFREQ_WRITE (R399, R401). -/
def execVfreqWrite (ci : Nat) (value : Word) (s : State) : Out := .next (s.reqVf ci value)

/-- VF_RAMP_STEP of chiplet u (R399): a step ends, and the next one begins toward the target. -/
def execVfRampStep (s : State) : Out :=
  .next (s.modChip s.cur.u fun c =>
    let p := c.pow
    let p := match p.ramp with
      | some (g, t) => if t ≤ s.fab then { p with vf := g, ramp := none } else p
      | none => p
    let p := match p.ramp with
      | some _ => p
      | none =>
        let t := State.vfTarget p
        if p.vf = t then { p with pend := false }
        else
          { p with pend := false, ramp := some (if p.vf < t then p.vf + 1 else p.vf - 1, s.fab + 20 * Config.usCycles) }
    { c with pow := p })

/-- THERMAL_EVALUATION of a chiplet at a temperature (R400): at most once per microsecond. -/
def execThermalEvaluation (ci : Nat) (temp : Nat) (s : State) : Out :=
  .next (s.modChip ci fun c =>
    let p := c.pow
    if p.eval.all fun t => decide (t + Config.usCycles ≤ s.fab) then
      let dwelt := decide (p.since.getD 0 + 200 * Config.usCycles ≤ s.fab)
      let p := { p with temp := temp, eval := some s.fab }
      let want := if p.throt then !decide (temp + p.hth ≤ p.thot) else decide (p.thot ≤ temp)
      { c with pow := if want != p.throt && dwelt then { p with throt := want, since := some s.fab } else p }
    else c)

/-- HBM_FREQ_WRITE (R402). -/
def execHbmFreqWrite (q : Nat) (value : Word) (s : State) : Out := .next (s.reqHbm q value)

/-- HBM_CHANNEL_RETRAIN of quarry u (R402): a channel is done; after the last the state changes and a pending request
begins. -/
def execHbmChannelRetrain (s : State) : Out :=
  .next (s.modQuarry s.cur.u fun k =>
    match k.chg with
    | none => k
    | some (g, ch, t) =>
      if s.fab < t then k
      else if ch < 31 then { k with chg := some (g, ch + 1, s.fab + 3000) }
      else match k.pend with
        | some r => if r = g then { k with hbm := g, chg := none, pend := none }
                    else { k with hbm := g, chg := some (r, 0, s.fab + 3000), pend := none }
        | none => { k with hbm := g, chg := none })

/-- RETAIN_CANCEL (R74). -/
def execRetainCancel (tid : Nat) (value : Word) (s : State) : Out := .next (s.writeRetain tid value)

/-- LOAN_TERM_EXPIRY of loan v of zone u (R391): after the requests of its fabric cycle (R393). -/
def execLoanTermExpiry (s : State) : Out :=
  let l := getD {} (s.zone s.cur.u).loans s.cur.v
  .next (if l.live && decide (l.ends ≤ s.fab) then (s.cutLoan s.cur.u s.cur.v).serves s.cur.u (2 ^ 13) else s)

/-- IDLE_REVOCATION of tile u (R392): no beat for 64 microseconds while it holds a grant, of which it has no notice yet. -/
def execIdleRevocation (s : State) : Out :=
  let e := (s.tile s.cur.u).eng
  .next (if e.g ≠ 0 && decide (Nat.max e.beatT e.gT + 64 * Config.usCycles ≤ s.fab) then
    s.giveNotice s.cur.u (e.g - s.underNotice s.cur.u)
  else s)

/-- REVOCATION_NOTICE_END of tile u (R392). -/
def execRevocationNoticeEnd (s : State) : Out :=
  .next ((s.tick s.cur.u).revokeDue s.cur.u)

/-- GATE_REFILL of tile u (R389): a boundary of the 64-cycle counter. -/
def execGateRefill (s : State) : Out :=
  .next (if s.gated s.cur.u then
    (s.cutBucket s.cur.u).modEng s.cur.u fun e =>
      let h := s.held s.cur.u
      { e with h := h, gone := 0, come := 0, bucket := Nat.min (e.bucket + h) (8 * h + 64), period := e.period + 1
               aclk := 64 * (e.period + 1) }
  else s)

/-- QUOTA_PERIOD_BOUNDARY of ASID u (R394, R447). -/
def execQuotaPeriodBoundary (s : State) : Out :=
  let p := s.space s.cur.u
  .next (if p.qnext ≤ s.fab then
    let n := p.qperiod * Config.usCycles
    (s.modSpace s.cur.u fun p => { p with qremain := p.qrefill, qnext := (s.fab / n + 1) * n }).unsuspend s.cur.u
  else s)

/-- QUOTA_CAPTURE of context u (R394, R447). -/
def execQuotaCapture (s : State) : Out :=
  let c := s.ctx s.cur.u
  .next (if (s.space c.asid.toNat).susp && (c.st = .ready || c.st = .parked) && !c.susp && !c.capt && s.canCapture c then
    s.captureQuota s.cur.u
  else s)

end Sys2Proof.Machine
end

