-- ==== Sys2Proof/Machine/Dispatch.lean ====
section
/-! DEFINITION. The meaning of every row of spec/opcode_table.json: one arm per constructor of Instr. -/

namespace Sys2Proof.Machine

/-- What an instruction does when it issues, or an event when it happens. -/
def exec (i : Instr) (s : State) : Host.Outcome State Fault Refusal :=
  match i with
  | .nop => Sys2Proof.Machine.execNop s
  | .halt a retain => Sys2Proof.Machine.execHalt a retain s
  | .spawn d a tgt => Sys2Proof.Machine.execSpawn d a tgt s
  | .hwait d a => Sys2Proof.Machine.execHwait d a s
  | .trap imm => Sys2Proof.Machine.execTrap imm s
  | .getid d sel => Sys2Proof.Machine.execGetid d sel s
  | .li d imm => Sys2Proof.Machine.execLi d imm s
  | .lih d imm => Sys2Proof.Machine.execLih d imm s
  | .br t => Sys2Proof.Machine.execBr t s
  | .bc a b c t => Sys2Proof.Machine.execBc a b c t s
  | .bcz a c t => Sys2Proof.Machine.execBcz a c t s
  | .bp p neg t => Sys2Proof.Machine.execBp p neg t s
  | .call link t => Sys2Proof.Machine.execCall link t s
  | .jr a => Sys2Proof.Machine.execJr a s
  | .callr a link => Sys2Proof.Machine.execCallr a link s
  | .ret a => Sys2Proof.Machine.execRet a s
  | .loop a set t => Sys2Proof.Machine.execLoop a set t s
  | .loopi set count ldisp slot => Sys2Proof.Machine.execLoopi set count ldisp slot s
  | .lbrk set t => Sys2Proof.Machine.execLbrk set t s
  | .add d a b ty sat => Sys2Proof.Machine.execAdd d a b ty sat s
  | .sub d a b ty sat => Sys2Proof.Machine.execSub d a b ty sat s
  | .mul d a b ty sat => Sys2Proof.Machine.execMul d a b ty sat s
  | .mulh d a b ty => Sys2Proof.Machine.execMulh d a b ty s
  | .div d a b ty => Sys2Proof.Machine.execDiv d a b ty s
  | .rem d a b ty => Sys2Proof.Machine.execRem d a b ty s
  | .and d a b ty nb => Sys2Proof.Machine.execAnd d a b ty nb s
  | .or d a b ty nb => Sys2Proof.Machine.execOr d a b ty nb s
  | .xor d a b ty nb => Sys2Proof.Machine.execXor d a b ty nb s
  | .shl d a b ty sat => Sys2Proof.Machine.execShl d a b ty sat s
  | .shr d a b ty => Sys2Proof.Machine.execShr d a b ty s
  | .sha d a b ty => Sys2Proof.Machine.execSha d a b ty s
  | .rot d a b ty r => Sys2Proof.Machine.execRot d a b ty r s
  | .min d a b ty => Sys2Proof.Machine.execMin d a b ty s
  | .max d a b ty => Sys2Proof.Machine.execMax d a b ty s
  | .madd d a b c ty sat => Sys2Proof.Machine.execMadd d a b c ty sat s
  | .addi d a ty sat imm => Sys2Proof.Machine.execAddi d a ty sat imm s
  | .andi d a ty imm => Sys2Proof.Machine.execAndi d a ty imm s
  | .ori d a ty imm => Sys2Proof.Machine.execOri d a ty imm s
  | .xori d a ty imm => Sys2Proof.Machine.execXori d a ty imm s
  | .shli d a ty sat x => Sys2Proof.Machine.execShli d a ty sat x s
  | .shri d a ty x => Sys2Proof.Machine.execShri d a ty x s
  | .shai d a ty x => Sys2Proof.Machine.execShai d a ty x s
  | .bcnt d a ty op => Sys2Proof.Machine.execBcnt d a ty op s
  | .ext d a signed pos len1 => Sys2Proof.Machine.execExt d a signed pos len1 s
  | .ins d a pos len1 => Sys2Proof.Machine.execIns d a pos len1 s
  | .lea d m => Sys2Proof.Machine.execLea d m s
  | .sel d a b c neg => Sys2Proof.Machine.execSel d a b c neg s
  | .cmp pd a b ty op cb => Sys2Proof.Machine.execCmp pd a b ty op cb s
  | .cmpi pd a ty op cb imm => Sys2Proof.Machine.execCmpi pd a ty op cb imm s
  | .plog pd pa pb lut => Sys2Proof.Machine.execPlog pd pa pb lut s
  | .movp op => Sys2Proof.Machine.execMovp op s
  | .ld d m sz o => Sys2Proof.Machine.execLd d m sz o s
  | .st d m sz o => Sys2Proof.Machine.execSt d m sz o s
  | .ldp d m o => Sys2Proof.Machine.execLdp d m o s
  | .stp d m o => Sys2Proof.Machine.execStp d m o s
  | .pref m ch => Sys2Proof.Machine.execPref m ch s
  | .cwb m sc => Sys2Proof.Machine.execCwb m sc s
  | .cinv m sc => Sys2Proof.Machine.execCinv m sc s
  | .fence predR predW succR succW lb sc => Sys2Proof.Machine.execFence predR predW succR succW lb sc s
  | .bankcfg d bank mode pool => Sys2Proof.Machine.execBankcfg d bank mode pool s
  | .rpushClaim d m sc try_ => Sys2Proof.Machine.execRpushClaim d m sc try_ s
  | .rpushPublish m sc => Sys2Proof.Machine.execRpushPublish m sc s
  | .rpopTake d m sc try_ => Sys2Proof.Machine.execRpopTake d m sc try_ s
  | .rpopRelease m sc => Sys2Proof.Machine.execRpopRelease m sc s
  | .rstat d a => Sys2Proof.Machine.execRstat d a s
  | .rinit a => Sys2Proof.Machine.execRinit a s
  | .amo d x m op sz sc ord => Sys2Proof.Machine.execAmo d x m op sz sc ord s
  | .cas d x m sz sc ord => Sys2Proof.Machine.execCas d x m sz sc ord s
  | .addb d x m wide sc ord => Sys2Proof.Machine.execAddb d x m wide sc ord s
  | .red x m src sc rel => Sys2Proof.Machine.execRed x m src sc rel s
  | .facc x m src sc rel => Sys2Proof.Machine.execFacc x m src sc rel s
  | .faccrd d m ent clr sc acq => Sys2Proof.Machine.execFaccrd d m ent clr sc acq s
  | .faccz d m sc ord => Sys2Proof.Machine.execFaccz d m sc ord s
  | .mwait d m wide sc acq => Sys2Proof.Machine.execMwait d m wide sc acq s
  | .fsetRes d v m => Sys2Proof.Machine.execFsetRes d v m s
  | .fsetArm d m => Sys2Proof.Machine.execFsetArm d m s
  | .fsetFlt d v m => Sys2Proof.Machine.execFsetFlt d v m s
  | .fsetRst d m => Sys2Proof.Machine.execFsetRst d m s
  | .fwait d r m => Sys2Proof.Machine.execFwait d r m s
  | .fpoll d m acq => Sys2Proof.Machine.execFpoll d m acq s
  | .binit d a v chn idx => Sys2Proof.Machine.execBinit d a v chn idx s
  | .barr d idx => Sys2Proof.Machine.execBarr d idx s
  | .barv d a src idx => Sys2Proof.Machine.execBarv d a src idx s
  | .btest d idx => Sys2Proof.Machine.execBtest d idx s
  | .bfree d idx => Sys2Proof.Machine.execBfree d idx s
  | .tsend d a => Sys2Proof.Machine.execTsend d a s
  | .tsendn d a => Sys2Proof.Machine.execTsendn d a s
  | .msend d a b try_ len => Sys2Proof.Machine.execMsend d a b try_ len s
  | .glaunch d a o => Sys2Proof.Machine.execGlaunch d a o s
  | .rgopen d a => Sys2Proof.Machine.execRgopen d a s
  | .rgclose d rid => Sys2Proof.Machine.execRgclose d rid s
  | .tself d tgt => Sys2Proof.Machine.execTself d tgt s
  | .vadd d a b mk ty sat z => Sys2Proof.Machine.execVadd d a b mk ty sat z s
  | .vsub d a b mk ty sat z => Sys2Proof.Machine.execVsub d a b mk ty sat z s
  | .vmul d a b mk ty sat z => Sys2Proof.Machine.execVmul d a b mk ty sat z s
  | .vmulh d a b mk ty z => Sys2Proof.Machine.execVmulh d a b mk ty z s
  | .vand d a b mk ty z => Sys2Proof.Machine.execVand d a b mk ty z s
  | .vor d a b mk ty z => Sys2Proof.Machine.execVor d a b mk ty z s
  | .vxor d a b mk ty z => Sys2Proof.Machine.execVxor d a b mk ty z s
  | .vshl d a b mk ty sat z => Sys2Proof.Machine.execVshl d a b mk ty sat z s
  | .vshr d a b mk ty z => Sys2Proof.Machine.execVshr d a b mk ty z s
  | .vsha d a b mk ty z => Sys2Proof.Machine.execVsha d a b mk ty z s
  | .vmin d a b mk ty z => Sys2Proof.Machine.execVmin d a b mk ty z s
  | .vmax d a b mk ty z => Sys2Proof.Machine.execVmax d a b mk ty z s
  | .vcmp kd a b mk ty op cb => Sys2Proof.Machine.execVcmp kd a b mk ty op cb s
  | .vsel d a b mk ty => Sys2Proof.Machine.execVsel d a b mk ty s
  | .vdot d a b c mk signed wide sat z => Sys2Proof.Machine.execVdot d a b c mk signed wide sat z s
  | .vabs d a mk ty sat z => Sys2Proof.Machine.execVabs d a mk ty sat z s
  | .vfadd d a b mk ft rm z => Sys2Proof.Machine.execVfadd d a b mk ft rm z s
  | .vfsub d a b mk ft rm z => Sys2Proof.Machine.execVfsub d a b mk ft rm z s
  | .vfmul d a b mk ft rm z => Sys2Proof.Machine.execVfmul d a b mk ft rm z s
  | .vfma d a b c mk ft rm z => Sys2Proof.Machine.execVfma d a b c mk ft rm z s
  | .vfdiv d a b mk ft rm z => Sys2Proof.Machine.execVfdiv d a b mk ft rm z s
  | .vfsqrt d a mk ft rm z => Sys2Proof.Machine.execVfsqrt d a mk ft rm z s
  | .vfmin d a b mk ft z => Sys2Proof.Machine.execVfmin d a b mk ft z s
  | .vfmax d a b mk ft z => Sys2Proof.Machine.execVfmax d a b mk ft z s
  | .vfcmp kd a b mk ft op cb => Sys2Proof.Machine.execVfcmp kd a b mk ft op cb s
  | .vfexp2 d a mk ft rm z => Sys2Proof.Machine.execVfexp2 d a mk ft rm z s
  | .vfrcp d a mk ft rm z => Sys2Proof.Machine.execVfrcp d a mk ft rm z s
  | .vfrsq d a mk ft rm z => Sys2Proof.Machine.execVfrsq d a mk ft rm z s
  | .vfred d a mk ft rm op => Sys2Proof.Machine.execVfred d a mk ft rm op s
  | .vfscl d a b mk ft rm z => Sys2Proof.Machine.execVfscl d a b mk ft rm z s
  | .vfcls d a mk ft z => Sys2Proof.Machine.execVfcls d a mk ft z s
  | .vld d xa mk ty o z => Sys2Proof.Machine.execVld d xa mk ty o z s
  | .vst d xa mk ty o => Sys2Proof.Machine.execVst d xa mk ty o s
  | .vlds d xa mk ty o z => Sys2Proof.Machine.execVlds d xa mk ty o z s
  | .vsts d xa mk ty o => Sys2Proof.Machine.execVsts d xa mk ty o s
  | .vgath d b xa mk ty o z => Sys2Proof.Machine.execVgath d b xa mk ty o z s
  | .vscat d b xa mk ty o => Sys2Proof.Machine.execVscat d b xa mk ty o s
  | .vperm d a b c mk ty two z => Sys2Proof.Machine.execVperm d a b c mk ty two z s
  | .vbcast op => Sys2Proof.Machine.execVbcast op s
  | .vextr op => Sys2Proof.Machine.execVextr op s
  | .viota d xa mk ty z => Sys2Proof.Machine.execViota d xa mk ty z s
  | .vrng d src mk w z => Sys2Proof.Machine.execVrng d src mk w z s
  | .vcomp d a xa mk ty => Sys2Proof.Machine.execVcomp d a xa mk ty s
  | .vexpd d a mk ty z => Sys2Proof.Machine.execVexpd d a mk ty z s
  | .vredi d a mk ty sat op => Sys2Proof.Machine.execVredi d a mk ty sat op s
  | .ftset f a => Sys2Proof.Machine.execFtset f a s
  | .ftget d f => Sys2Proof.Machine.execFtget d f s
  | .ftgen f p u noinf ctx sat => Sys2Proof.Machine.execFtgen f p u noinf ctx sat s
  | .nfmset n => Sys2Proof.Machine.execNfmset n s
  | .cvt d a op rm => Sys2Proof.Machine.execCvt d a op rm s
  | .vcvt d a c mk ft rm src part => Sys2Proof.Machine.execVcvt d a c mk ft rm src part s
  | .vpack d a ft part => Sys2Proof.Machine.execVpack d a ft part s
  | .vunpk d a ft part => Sys2Proof.Machine.execVunpk d a ft part s
  | .mjob d a c kind => Sys2Proof.Machine.execMjob d a c kind s
  | .mjobr d a b c kind => Sys2Proof.Machine.execMjobr d a b c kind s
  | .jpoll d a => Sys2Proof.Machine.execJpoll d a s
  | .jwait d a => Sys2Proof.Machine.execJwait d a s
  | .jcanc d a => Sys2Proof.Machine.execJcanc d a s
  | .jstat d a => Sys2Proof.Machine.execJstat d a s
  | .mcap d a rights => Sys2Proof.Machine.execMcap d a rights s
  | .topkrd d a => Sys2Proof.Machine.execTopkrd d a s
  | .hset h a => Sys2Proof.Machine.execHset h a s
  | .hget d h w => Sys2Proof.Machine.execHget d h w s
  | .hld d a b c h => Sys2Proof.Machine.execHld d a b c h s
  | .hst d a b c h => Sys2Proof.Machine.execHst d a b c h s
  | .hnext d a c h => Sys2Proof.Machine.execHnext d a c h s
  | .binapp d a op slot => Sys2Proof.Machine.execBinapp d a op slot s
  | .binrun d a b clr slot => Sys2Proof.Machine.execBinrun d a b clr slot s
  | .bincfg d a slot => Sys2Proof.Machine.execBincfg d a slot s
  | .bincfgOff d slot => Sys2Proof.Machine.execBincfgOff d slot s
  | .cpy d a c ch => Sys2Proof.Machine.execCpy d a c ch s
  | .winset d a win => Sys2Proof.Machine.execWinset d a win s
  | .winclr d win => Sys2Proof.Machine.execWinclr d win s
  | .wmarkRd d ch => Sys2Proof.Machine.execWmarkRd d ch s
  | .wmarkWt d a ch => Sys2Proof.Machine.execWmarkWt d a ch s
  | .wmarkCw d a => Sys2Proof.Machine.execWmarkCw d a s
  | .subscr d a => Sys2Proof.Machine.execSubscr d a s
  | .unsub d a => Sys2Proof.Machine.execUnsub d a s
  | .colset d c => Sys2Proof.Machine.execColset d c s
  | .fwinset d a q w => Sys2Proof.Machine.execFwinset d a q w s
  | .chgo d a => Sys2Proof.Machine.execChgo d a s
  | .chstat d a => Sys2Proof.Machine.execChstat d a s
  | .chstop d a => Sys2Proof.Machine.execChstop d a s
  | .rcsnap d a b n => Sys2Proof.Machine.execRcsnap d a b n s
  | .slotclm d a b => Sys2Proof.Machine.execSlotclm d a b s
  | .arcset d a ent => Sys2Proof.Machine.execArcset d a ent s
  | .arccnt d => Sys2Proof.Machine.execArccnt d s
  | .arcinv d ent => Sys2Proof.Machine.execArcinv d ent s
  | .tkreq d a => Sys2Proof.Machine.execTkreq d a s
  | .tklend d a b => Sys2Proof.Machine.execTklend d a b s
  | .tkretG d a => Sys2Proof.Machine.execTkretG d a s
  | .tkretL d a => Sys2Proof.Machine.execTkretL d a s
  | .tkqry d => Sys2Proof.Machine.execTkqry d s
  | .eqrd d => Sys2Proof.Machine.execEqrd d s
  | .zoneBudgetWrite zone value => Sys2Proof.Machine.execZoneBudgetWrite zone value s
  | .vfreqWrite ci value => Sys2Proof.Machine.execVfreqWrite ci value s
  | .thermalEvaluation ci temp => Sys2Proof.Machine.execThermalEvaluation ci temp s
  | .hbmFreqWrite q value => Sys2Proof.Machine.execHbmFreqWrite q value s
  | .retainCancel tid value => Sys2Proof.Machine.execRetainCancel tid value s
  | .sget d sel => Sys2Proof.Machine.execSget d sel s
  | .sset a sel => Sys2Proof.Machine.execSset a sel s
  | .sysregWrite id sel value => Sys2Proof.Machine.execSysregWrite id sel value s
  | .ctxrd d a n => Sys2Proof.Machine.execCtxrd d a n s
  | .ctxwr d a n => Sys2Proof.Machine.execCtxwr d a n s
  | .tretNext a => Sys2Proof.Machine.execTretNext a s
  | .tretAt d a => Sys2Proof.Machine.execTretAt d a s
  | .tretEnd a => Sys2Proof.Machine.execTretEnd a s
  | .tlbinvVa a asid => Sys2Proof.Machine.execTlbinvVa a asid s
  | .tlbinvAsid asid => Sys2Proof.Machine.execTlbinvAsid asid s
  | .tlbinvAll => Sys2Proof.Machine.execTlbinvAll s
  | .pageWalk core asid va k => Sys2Proof.Machine.execPageWalk core asid va k s
  | .pgdone d a => Sys2Proof.Machine.execPgdone d a s
  | .preempt d a => Sys2Proof.Machine.execPreempt d a s
  | .resume d a => Sys2Proof.Machine.execResume d a s
  | .asidsetBind d a n => Sys2Proof.Machine.execAsidsetBind d a n s
  | .asidsetFree d n => Sys2Proof.Machine.execAsidsetFree d n s
  | .asidsetQuery d n => Sys2Proof.Machine.execAsidsetQuery d n s
  | .dumpreq a => Sys2Proof.Machine.execDumpreq a s
  | .dbgBrk d a => Sys2Proof.Machine.execDbgBrk d a s
  | .dbgClr a => Sys2Proof.Machine.execDbgClr a s
  | .dbgStep a => Sys2Proof.Machine.execDbgStep a s
  | .correctedError tid info => Sys2Proof.Machine.execCorrectedError tid info s
  | .uncorrectableError site => Sys2Proof.Machine.execUncorrectableError site s
  | .coldReset results => Sys2Proof.Machine.execColdReset results s
  | .hostMemoryAccess dpa len data => Sys2Proof.Machine.execHostMemoryAccess dpa len data s
  | .launchWrite ci w slot data => Sys2Proof.Machine.execLaunchWrite ci w slot data s
  | .unassignedMajor w => Sys2Proof.Machine.execUnassignedMajor w s
  | .peerPortLinkChange p up => Sys2Proof.Machine.execPeerPortLinkChange p up s
  | .ringClaimServed => Sys2Proof.Machine.execRingClaimServed s
  | .ringTakeServed => Sys2Proof.Machine.execRingTakeServed s
  | .mwaitWake => Sys2Proof.Machine.execMwaitWake s
  | .continuationDelivery => Sys2Proof.Machine.execContinuationDelivery s
  | .barrierChildArrival => Sys2Proof.Machine.execBarrierChildArrival s
  | .barrierTreeRelease => Sys2Proof.Machine.execBarrierTreeRelease s
  | .taskMessageArrival => Sys2Proof.Machine.execTaskMessageArrival s
  | .tsendResend => Sys2Proof.Machine.execTsendResend s
  | .deferredResend => Sys2Proof.Machine.execDeferredResend s
  | .taskDequeue => Sys2Proof.Machine.execTaskDequeue s
  | .faultMessageResend => Sys2Proof.Machine.execFaultMessageResend s
  | .registerResultWrite => Sys2Proof.Machine.execRegisterResultWrite s
  | .gangAdmissionAttempt => Sys2Proof.Machine.execGangAdmissionAttempt s
  | .gleanerWave => Sys2Proof.Machine.execGleanerWave s
  | .remoteJobArrival => Sys2Proof.Machine.execRemoteJobArrival s
  | .jobIssue => Sys2Proof.Machine.execJobIssue s
  | .engineBeat => Sys2Proof.Machine.execEngineBeat s
  | .gateRefill => Sys2Proof.Machine.execGateRefill s
  | .jobCompletion => Sys2Proof.Machine.execJobCompletion s
  | .binrunReplay => Sys2Proof.Machine.execBinrunReplay s
  | .copyStart => Sys2Proof.Machine.execCopyStart s
  | .watermarkAdvance => Sys2Proof.Machine.execWatermarkAdvance s
  | .copyCompletion => Sys2Proof.Machine.execCopyCompletion s
  | .subscriptionTileStep => Sys2Proof.Machine.execSubscriptionTileStep s
  | .claimRound => Sys2Proof.Machine.execClaimRound s
  | .chainStartAttempt => Sys2Proof.Machine.execChainStartAttempt s
  | .chainGate => Sys2Proof.Machine.execChainGate s
  | .chainClaimRound => Sys2Proof.Machine.execChainClaimRound s
  | .chainDispatch => Sys2Proof.Machine.execChainDispatch s
  | .chainCombine => Sys2Proof.Machine.execChainCombine s
  | .chainRunComplete => Sys2Proof.Machine.execChainRunComplete s
  | .loanTermExpiry => Sys2Proof.Machine.execLoanTermExpiry s
  | .idleRevocation => Sys2Proof.Machine.execIdleRevocation s
  | .revocationNoticeEnd => Sys2Proof.Machine.execRevocationNoticeEnd s
  | .quotaPeriodBoundary => Sys2Proof.Machine.execQuotaPeriodBoundary s
  | .quotaCapture => Sys2Proof.Machine.execQuotaCapture s
  | .vfRampStep => Sys2Proof.Machine.execVfRampStep s
  | .hbmChannelRetrain => Sys2Proof.Machine.execHbmChannelRetrain s
  | .scratchPowerLoss => Sys2Proof.Machine.execScratchPowerLoss s
  | .contextCapture => Sys2Proof.Machine.execContextCapture s
  | .debugBreakpoint => Sys2Proof.Machine.execDebugBreakpoint s
  | .instructionLineArrival => Sys2Proof.Machine.execInstructionLineArrival s
  | .homeStatusArrival => Sys2Proof.Machine.execHomeStatusArrival s
  | .launchResend => Sys2Proof.Machine.execLaunchResend s
  | .fatalDump => Sys2Proof.Machine.execFatalDump s
  | .readlog => Sys2Proof.Machine.execReadlog s
  | .clearlog => Sys2Proof.Machine.execClearlog s
  | .dumpinfo => Sys2Proof.Machine.execDumpinfo s
  | .readdump => Sys2Proof.Machine.execReaddump s
  | .releasedump => Sys2Proof.Machine.execReleasedump s
  | .mailboxUnknownCmd => Sys2Proof.Machine.execMailboxUnknownCmd s

end Sys2Proof.Machine
end

