-- ==== Sys2Proof/Machine/Depend.lean ====
section
/-! DEFINITION. Dependencies on loads (R204): the registers that an instruction reads, and what it carries from them. -/

namespace Sys2Proof.Machine

/-- Registers by one number each: x, p, v, k and h in turn. -/
def kx (r : XReg) : Nat := r.val
def kp (r : PReg) : Nat := 64 + r.val
def kv (r : VReg) : Nat := 72 + r.val
def kk (r : PReg) : Nat := 104 + r.val
def kh (r : PReg) : Nat := 112 + r.val

/-- Registers of a memory operand (R56). -/
def memRegs (m : MemOp) : List Nat := [kx m.base, kx m.idx]

/-- Register of a vector operation's second operand (R126). -/
def srcReg : VSrc → Nat
  | .vec b => kv b
  | .sca x => kx x

/-- A destination whose lanes an operation without Z keeps is also a source (R126). -/
def oldDest (d : VReg) (z : Bool) : List Nat := if z then [] else [kv d]

/-- A compare's old destination is a source with `.and` and `.or` (R119, R133). -/
def oldComb (k : Nat) (cb : Comb) : List Nat := if cb = .none then [] else [k]

/-- The registers that a conditional branch decides by (R97, R204). -/
def branchRegs (i : Instr) : List Nat :=
  match i with
  | .bc a b _ _ => [kx a, kx b]
  | .bcz a _ _ => [kx a]
  | .bp p _ _ => [kp p]
  | _ => []

/-- The registers that an instruction reads besides its guard, where it writes a register or accesses memory (R204). -/
def srcRegs (i : Instr) : List Nat :=
  match i with
  | .add _ a b _ _ | .sub _ a b _ _ | .mul _ a b _ _ | .and _ a b _ _ | .or _ a b _ _ | .xor _ a b _ _ | .shl _ a b _ _
  | .rot _ a b _ _ => [kx a, kx b]
  | .mulh _ a b _ | .div _ a b _ | .rem _ a b _ | .shr _ a b _ | .sha _ a b _ | .min _ a b _ | .max _ a b _ => [kx a, kx b]
  | .madd _ a b c _ _ => [kx a, kx b, kx c]
  | .addi _ a _ _ _ | .ext _ a _ _ _ | .shli _ a _ _ _ => [kx a]
  | .andi _ a _ _ | .ori _ a _ _ | .xori _ a _ _ | .shri _ a _ _ | .shai _ a _ _ | .bcnt _ a _ _ => [kx a]
  | .ins d a _ _ => [kx d, kx a]
  | .lih d _ => [kx d]
  | .lea _ m => memRegs m
  | .sel _ a b c _ => [kx a, kx b, kp c]
  | .cmp pd a b _ _ cb => [kx a, kx b] ++ oldComb (kp pd) cb
  | .cmpi pd a _ _ cb _ => kx a :: oldComb (kp pd) cb
  | .plog _ pa pb _ => [kp pa, kp pb]
  | .movp (.all _) => [65, 66, 67, 68, 69, 70, 71]
  | .movp (.spread a) => [kx a]
  | .movp (.nz _ a) => [kx a]
  | .movp (.bit _ pa) => [kp pa]
  | .spawn _ a _ | .hwait _ a => [kx a]
  | .callr a _ => [kx a]
  | .ld _ m _ _ | .rpushClaim _ m _ _ | .rpopTake _ m _ _ => memRegs m
  | .ldp _ m _ | .rpushPublish m _ | .rpopRelease m _ | .pref m _ | .cwb m _ | .cinv m _ => memRegs m
  | .st d m _ _ => kx d :: memRegs m
  | .stp d m _ => [kx d, kx (xnext d)] ++ memRegs m
  | .rinit a => [kx a]
  | .rstat _ a => [kx a]
  | .amo _ s m _ _ _ _ => [kx s, kx m.base]
  | .cas d s m sz _ _ =>
    [kx d, kx s, kx m.base] ++ if sz.val = 4 then [kx (xnext d), kx (xnext s)] else []
  | .addb _ s m _ _ _ => [kx s, kx (xnext s), kx m.base]
  | .red s m _ _ _ | .facc s m _ _ _ => [kx s, kx m.base]
  | .faccrd _ m _ _ _ _ | .faccz _ m _ _ | .fsetArm _ m | .fsetRst _ m | .fpoll _ m _ => [kx m.base]
  | .mwait d m _ _ _ => [kx d, kx m.base]
  | .fsetRes _ v m | .fsetFlt _ v m | .fwait _ v m => [kx v, kx m.base]
  | .vadd d a b mk _ _ z | .vsub d a b mk _ _ z | .vmul d a b mk _ _ z | .vshl d a b mk _ _ z =>
    [kv a, srcReg b, kk mk] ++ oldDest d z
  | .vmulh d a b mk _ z | .vand d a b mk _ z | .vor d a b mk _ z | .vxor d a b mk _ z | .vshr d a b mk _ z
  | .vsha d a b mk _ z | .vmin d a b mk _ z | .vmax d a b mk _ z => [kv a, srcReg b, kk mk] ++ oldDest d z
  | .vcmp kd a b mk _ _ cb => [kv a, srcReg b, kk mk] ++ oldComb (kk kd) cb
  | .vsel _ a b mk _ => [kv a, kv b, kk mk]
  | .vdot d a b c mk _ _ _ z => [kv a, kv b, kv c, kk mk] ++ oldDest d z
  | .vabs d a mk _ _ z => [kv a, kk mk] ++ oldDest d z
  | .vfadd d a b mk _ _ z | .vfsub d a b mk _ _ z | .vfmul d a b mk _ _ z | .vfdiv d a b mk _ _ z
  | .vfscl d a b mk _ _ z => [kv a, srcReg b, kk mk] ++ oldDest d z
  | .vfma d a b c mk _ _ z => [kv a, kv b, kv c, kk mk] ++ oldDest d z
  | .vfsqrt d a mk _ _ z | .vfexp2 d a mk _ _ z | .vfrcp d a mk _ _ z | .vfrsq d a mk _ _ z => [kv a, kk mk] ++ oldDest d z
  | .vfmin d a b mk _ z | .vfmax d a b mk _ z => [kv a, srcReg b, kk mk] ++ oldDest d z
  | .vfcmp kd a b mk _ _ cb => [kv a, srcReg b, kk mk] ++ oldComb (kk kd) cb
  | .vfred d a mk _ _ _ => [kv d, kv a, kk mk]
  | .vfcls d a mk _ z => [kv a, kk mk] ++ oldDest d z
  | .vld d xa mk _ _ z => [kx xa, kk mk] ++ oldDest d z
  | .vlds d xa mk _ _ z => [kx xa, kx (xnext xa), kk mk] ++ oldDest d z
  | .vst d xa mk _ _ => [kv d, kx xa, kk mk]
  | .vsts d xa mk _ _ => [kv d, kx xa, kx (xnext xa), kk mk]
  | .vscat d b xa mk _ _ => [kv d, kv b, kx xa, kk mk]
  | .vgath d b xa mk _ _ z => [kv b, kx xa, kk mk] ++ oldDest d z
  | .vperm d a b c mk _ _ z => [kv a, kv b, kv c, kk mk] ++ oldDest d z
  | .vbcast (.x d xa mk _ z) => [kx xa, kk mk] ++ oldDest d z
  | .vbcast (.e d va xa mk _ z) => [kv va, kx xa, kk mk] ++ oldDest d z
  | .vbcast (.klo k xa) => [kk k, kx xa]
  | .vbcast (.khi k xa) => [kk k, kx xa]
  | .vextr (.e xa va _) => [kx xa, kv va]
  | .vextr (.klo _ mk) => [kk mk]
  | .vextr (.khi _ mk) => [kk mk]
  | .vextr (.cnt _ mk _) => [kk mk]
  | .viota d xa mk _ z => [kx xa, kk mk] ++ oldDest d z
  | .vrng d (.regs va xa) mk _ z => [kv va, kx xa, kk mk] ++ oldDest d z
  | .vrng d .ctx mk _ z => [kk mk] ++ oldDest d z
  | .vcomp d a xa mk _ => [kv d, kv a, kx xa, kk mk]
  | .vexpd d a mk _ z => [kv a, kk mk] ++ oldDest d z
  | .vredi d a mk _ _ _ => [kv d, kv a, kk mk]
  | .cvt _ a _ _ => [kx a]
  | .vcvt d a c mk _ _ _ _ => [kv d, kv a, kv c, kk mk]
  | .vpack d a _ _ | .vunpk d a _ _ => [kv d, kv a]
  | .binit _ a _ _ _ => [kx a, kx (xnext a), kx (xnext (xnext a))]
  | .tsend _ a | .tsendn _ a | .rgopen _ a | .jpoll _ a | .jwait _ a | .jcanc _ a | .jstat _ a => [kx a]
  | .barv _ a _ _ => [kx a]
  | .msend _ a b _ _ => [kx a, kx b]
  | .glaunch _ a o => kx a :: (o.map kx).toList
  | .tself _ _ => [1, 2, 3, 4, 5, 6, 7]
  | .mjob _ a _ _ => [kx a]
  | .mjobr _ a b _ _ => [kx a, kx (xnext a), kx b]
  | .mcap _ a _ | .pgdone _ a => [kx a, kx (xnext a)]
  | .topkrd _ a => [kx a]
  | .binapp _ a (.add b) _ | .binapp _ a (.sub b) _ => [kx a, kx b]
  | .binapp _ a .nan _ => [kx a]
  | .binrun _ a b _ _ => [kx a, kx b]
  | .bincfg _ a _ | .cpy _ a _ _ | .winset _ a _ | .wmarkWt _ a _ | .wmarkCw _ a | .subscr _ a | .unsub _ a
  | .fwinset _ a _ _ | .chgo _ a | .chstat _ a | .chstop _ a | .arcset _ a _ => [kx a]
  | .rcsnap _ a b _ | .slotclm _ a b => [kx a, kx b]
  | .tkreq _ a | .tkretG _ a | .tkretL _ a => [kx a]
  | .tklend _ a b => [kx a, kx b]
  | .sset a _ | .tretNext a | .tretAt _ a | .tretEnd a | .tlbinvVa a _ | .asidsetBind _ a _ | .dumpreq a
  | .dbgClr a | .dbgStep a | .ctxrd _ a _ => [kx a]
  | .ctxwr d a _ | .dbgBrk d a => [kx d, kx a]
  | .preempt _ a | .resume _ a => [kx a, kx (xnext a), kx (xnext (xnext a))]
  | .hset _ a => [kx a]
  | .hget _ h _ => [kh h]
  | .hld _ a b _ h => [kx a, kx b, kh h]
  | .hst d a b _ h => [kx d, kx a, kx b, kh h]
  | .hnext _ a _ h => [kx a, kh h]
  | _ => []

end Sys2Proof.Machine
end

