-- ==== Sys2Proof/Machine/Issue.lean ====
section
/-! DEFINITION. One cycle of a core (R75, R76, R79): choosing a context, fetch, the checks of R64, pairs, and what follows
an issue; and the moves of the other agents. -/

namespace Sys2Proof.Machine

/-- Issue classes (R49). -/
inductive IssueClass where
  | s | m | v | y
deriving DecidableEq, Repr

/-- The class of a major (R49). -/
def issueClassOf (op : Nat) : IssueClass :=
  if op < 0x40 then .s else if op < 0x70 then .m else if op < 0xB0 then .v else if op < 0xF0 then .m else .y

/-- The first breach of R50 by a pair, as POS of R65. -/
def pairBreach (w1 w2 : Nat) : Option Nat :=
  let o1 := fld w1 88 8
  let o2 := fld w2 88 8
  if issueClassOf o1 = issueClassOf o2 || issueClassOf o1 = .y || issueClassOf o2 = .y || (1 ≤ o1 && o1 ≤ 4) || (0x10 ≤ o1 && o1 ≤ 0x1A) then
    some 88
  else if bitAt w1 87 then some 87
  else if fld w1 85 2 ≠ 0 then some 85
  else none

/-- POS of R65 for a privileged major or selector (R62). -/
def privPos (w : Nat) : Option Nat :=
  let op := fld w 88 8
  if op = 0xD7 || (0xF2 ≤ op && op ≤ 0xFB) then some 88
  else if (op = 0xF0 || op = 0xF1) && bitAt w 66 then some 51
  else none

/-- Events that the module's agents make by themselves.  Those that only an instruction makes are not among them: an
unassigned major, a breakpoint, and the writes of system registers, which SSET and stores of path 3 make (R425).  A walk
by itself is one of fetch-ahead (R84, R412); a write of a zone's budget is Norbufer's under thermal limits (R398). -/
def isMove (i : Instr) : Bool :=
  match i with
  | .unassignedMajor _ | .debugBreakpoint | .sysregWrite _ _ _ | .vfreqWrite _ _
  | .hbmFreqWrite _ _ | .retainCancel _ _ => false
  | .pageWalk _ _ _ k => k == .fetch
  | .zoneBudgetWrite z _ => decide (z < 112)
  | i => (encBody i).isNone

namespace State

/-- Has what a context of a tile waits for come (R27)? -/
def waitOver (s : State) (tid : Nat) (c : Ctx) : Bool :=
  c.answer != .none ||
  match c.wait with
  | .none => true
  | .switch => !c.owes
  | .line _ => false
  | .halt | .ending => haltReady c || c.late.isSome
  | .hwait m => c.childWord &&& m = 0
  | .job key => !s.jobKeyLive key
  | .topk id => !s.topkPending id
  | .copy t id => !s.copyLive t id
  | .window t n => (getD ({} : Window) (s.tile t).eng.wins n).st != .filling
  | .bytes t o n _ => !s.underGuard t o n
  | .accs n => c.accs.isEmpty || decide (c.accs.length < n)
  | .fence r w lb => !State.fenceHeld c tid r w lb
  | .capture id => s.preReady id
  | .status => c.status.isEmpty && !c.pend.any (·.atom)
  | .broker => s.brokerFree tid
  | _ => false

/-- May the context issue in this cycle (R26, R75, R76, R447)? -/
def eligible (s : State) (core : Nat) (c : Ctx) : Bool :=
  (match c.st with
    | .ready => true
    | .parked => c.wait != .none
    | _ => false) &&
  s.waitOver (idTid core) c && decide (c.gap ≤ (s.core core).cyc) && decide (c.hold ≤ s.fab) &&
  !c.susp && !c.taken && (c.answer != .none || !((c.capt || (s.space c.asid.toNat).susp) && s.canCapture c)) && !(c.inc && (c.owes || !c.accs.isEmpty))

/-- HWAIT whose helpers have halted has its result before its context becomes READY (R77, R93). -/
def hwaitEnds (c : Ctx) : Ctx :=
  match c.wait, c.held.map fun h => decodeSlot h.word with
  | .hwait _, some (.ok { op := .hwait d _, .. }) => { c.put (.x d c.childWord) with answer := .val c.childWord }
  | _, _ => c

/-- PARKED contexts of a core whose event has come become READY (R27). -/
def wake (s : State) (core : Nat) : State :=
  (List.range 11).foldl (fun s i =>
    let c := s.ctx (ctxOn core i)
    if c.st = .parked && c.wait != .none && s.waitOver (idTid core) c then
      s.setCtx (ctxOn core i) { (if c.capt || c.susp then c else hwaitEnds c) with st := .ready } else s) s

/-- The context that issues: the first eligible one after the last (R75). -/
def pickCtx (s : State) (core : Nat) : Option Nat :=
  ((List.range 11).map fun i => ((s.core core).last + 1 + i) % 11).find? fun c => s.eligible core (s.ctx (ctxOn core c))

/-- What follows a completed issue: the gap, the switch point, the step (R76, R79, R82, R450). -/
def afterIssue (s : State) (h : Header) : State :=
  let id := s.cur.id
  if !s.cur.done then s
  else
    let gap := s.cyc + 1 + h.gap.val + s.cur.cost
    let s := s.modMe fun c => { c with gap := gap }
    let c := s.me
    let s :=
      if h.sw && c.owes then s.modMe fun c => { c with st := .parked, wait := .switch }
      else match h.sw, c.late with
        | true, some l => s.raiseLate id l
        | _, _ => s
    if c.step && s.me.st != .faulted then s.halted id { code := .debugStep, info := s.openWord } false 0 else s

/-- The latest load that registers depend on, as the instruction reads them (R204). -/
def depOf (s : State) (rs : List Nat) : Nat := rs.foldl (fun m r => Nat.max m (getD 0 s.src.deps r)) 0

/-- Does a major access memory (R49, R142)? -/
def accessOp (op : Nat) : Bool :=
  issueClassOf op = .m || issueClassOf op = .y || (0x90 ≤ op && op ≤ 0x95)

/-- Does a major that accesses memory only load (R190, R142, R317)? -/
def loadOp (op : Nat) : Bool := op = 0x40 || op = 0x42 || op = 0x44 || op = 0x90 || op = 0x92 || op = 0x94 || op = 0xC2

/-- Does a major make accesses that can wait behind earlier ones after their issue, or wait by its own entry (log 68)? -/
def queueOp (op : Nat) : Bool := (0x40 ≤ op && op ≤ 0x43) || op = 0x47 || (0x90 ≤ op && op ≤ 0x95)

/-- The instruction of a slot under its guard (R53), behind the loads that it depends on (R203, R204): those of its
addresses and data, and for what stores those of earlier branches and guards too.  A load among them that returned a byte
not yet written back takes the store along (R206). -/
def guarded (s : State) (x : Slot) : Out :=
  let a := s.depOf (srcRegs x.op)
  let g := Nat.max s.me.cdep (s.depOf (kp x.hdr.pg :: branchRegs x.op))
  let s := if g = s.me.cdep then s else s.modMe fun c => { c with cdep := g }
  if xor (s.rp x.hdr.pg 63) x.hdr.pn then
    let d := if loadOp s.cur.op then a else Nat.max a g
    if accessOp s.cur.op && !queueOp s.cur.op && s.me.accs.any (fun o => o.before false d) then
      .next (s.park (.accs s.me.accs.length))
    else
      let bare := accessOp s.cur.op && s.me.seen.any fun e => decide (e.2 ≤ d)
      let s := if bare then s.reveal (fun n => decide (n ≤ d)) .sy else s
      let a := if bare then s.seq else a
      exec x.op { s with cur := { s.cur with hint := x.hdr.hint, adep := a, odep := d, dep := Nat.max a (s.depOf [kp x.hdr.pg]) } }
  else .next s.complete

/-- Checks 1 of R64 on a slot of a line (R47). -/
def parityBad (line i : Nat) : Bool := !lineWordParityOk line || !slotParityOk line i

/-- A line whose parity fails is fetched once more for the context (R47). -/
def refetch (s : State) (core pl : Nat) : Out :=
  let s := s.modCore core fun c => { c with l1i := del pl c.l1i }
  .next ((s.modMe fun c => { c with refet := some pl }).park (.line pl))

/-- The second of a pair runs on what the first left; it reads what both read before (R51), its format table, NFM and RM
among it (log 67). -/
def issueSecond (s : State) (w : Nat) (x : Slot) (before : Ctx) : Out :=
  let pc := s.cur.pc + 1
  if s.me.brk = some pc && !s.cur.free then
    .next (s.modMe fun c => { c with before := some (before.reads s.cur.pick) })
  else
    let s := { s with cur := { s.cur with pc := pc, fst := false, snd := true, sec := true, src := some before,
                                          op := fld w 88 8, word := w, next := none, done := false, cost := 0 } }
    match s.guarded x with
    | .next t => .next (t.afterIssue x.hdr)
    | r => r

/-- A slot that passed its checks issues alone (R51). -/
def issueOne (s : State) (x : Slot) : Out :=
  match s.guarded x with
  | .next t => .next (t.afterIssue x.hdr)
  | r => r

/-- Both of a pair issue (R51). -/
def issuePair (s : State) (x : Slot) (w2 : Nat) (y : Slot) : Out :=
  let before := s.src
  match ({ s with cur := { s.cur with src := some before, next := some w2 } }).guarded x with
  | .next t => if t.cur.done then t.issueSecond w2 y before else .next t
  | r => r

/-- An instruction that issued and waited goes on (R27): it is not fetched again. -/
def issueHeld (s : State) (h : Held) : Out :=
  let s := { s with cur := { s.cur with op := fld h.word 88 8, word := h.word, fst := h.fst, sec := h.sec, free := h.free } }
  match decodeSlot h.word, h.next.map fun w => (w, decodeSlot w) with
  | .ok x, some (w, .ok y) => s.issuePair x w y
  | .ok x, _ => s.issueOne x
  | .error _, _ => .next s

/-- Checks 6 and 7 of R64, and the issue. -/
def issueChecked (s : State) (w : Nat) (x : Slot) (second : Option (Nat × Slot)) : Out :=
  let bad := match second with
    | some (w2, _) => pairBreach w w2
    | none => none
  let denied (w : Nat) : Option Nat := if s.priv then none else privPos w
  match bad, denied w with
  | some p, _ => s.slotFault .illegalPair p false
  | none, some p => s.slotFault .privilege p false
  | none, none =>
    match second with
    | some (w2, y) => if (denied w2).isSome then s.issueOne x else s.issuePair x w2 y
    | none => s.issueOne x

/-- The slot at the PC of the chosen context, from its line (R44, R47, R64). -/
def issueLine (s : State) (core pl : Nat) (line : Nat) : Out :=
  let i := s.cur.pc.toNat % 8
  let w := lineSlot line i
  let firsts := pairFirsts (linePair line)
  let fst := !s.me.alone && firsts.contains i
  let s := { s with cur := { s.cur with op := fld w 88 8, word := w, fst := fst, sec := i ≠ 0 && firsts.contains (i - 1) } }
  let again := s.me.refet != some pl
  let here := parityBad line i
  let next := fst && !slotParityOk line (i + 1)
  if (here || next) && again then s.refetch core pl
  else if here then
    (s.modMe fun c => { c with refet := none }).slotFault .instrParity
      (if lineWordParityOk line then 0 else 14) (!lineWordParityOk line)
  else
  let s := s.modMe fun c => { c with exempt := false, refet := if next then c.refet else none }
  match lineWordBad line with
    | some p => s.slotFault .illegalLine p true
    | none =>
      match decodeSlot w with
      | .error .opcode => exec (.unassignedMajor (BitVec.ofNat 96 w)) s
      | .error (.encoding p) => s.slotFault .illegalEncoding p false
      | .ok x =>
        let w2 := lineSlot line (i + 1)
        let second := if fst && slotParityOk line (i + 1) then
            (match decodeSlot w2 with | .ok y => some (w2, y) | .error _ => none)
          else none
        s.issueChecked w x second

/-- The chosen context issues (R26, R45, R46, R79, R82, R450): its held instruction goes on, or the slot at its PC issues;
after a wait on a watermark of its tile, it acquires (R211). -/
def issueCtx (s : State) (core id : Nat) : Out :=
  let c := (s.ctx id).settle (s.core core).cyc (s.ctx id).pend.length
  let wasSwitch := c.wait == .switch || c.inc
  let fresh := c.wait == .none && c.answer == .none
  let s := s.setCtx id { c with st := .ready, wait := .none, inc := false }
  let s := match c.wait with
    | .bytes _ _ _ true => s.acquire core .ti
    | _ => s
  let s := (s.modCore core fun k => { k with last := idCtx id })
  let s := { s with seq := s.seq + 1,
                    cur := { id := id, pc := c.pc, sub := id, free := c.exempt, colour := c.colour, snd := c.alone, src := c.before.map c.asRead,
                             pick := (c.before.map (·.pick)).getD s.seq } }
  match wasSwitch, c.late with
  | true, some l => .next (s.raiseLate id l)
  | _, _ =>
    if c.wait == .halt || c.wait == .ending then .next (s.haltEnd id)
    else if c.brk = some c.pc && !c.exempt && (fresh || wasSwitch) then exec .debugBreakpoint s
    else match c.held with
    | some h => s.issueHeld h
    | none =>
    if Bits c.pc 60 4 ≠ 0 || Bits c.pc 3 3 ≠ 0 || 4 < Bits c.pc 0 3 then
      .next (s.raise { code := .illegalTarget, info := s.encInfo (c.pc.toNat % 128) false })
    else if Bits c.pc 57 3 ≠ 0 then .next (s.raise { code := .badPath, info := linePc c.pc })
    else match s.fetchLine core c.asid c.pc with
      | .error e => s.finish (.error e)
      | .ok (pl, s) =>
        match find pl (s.core core).l1i with
        | none => .next (s.park (.line pl))
        | some d => s.issueLine core pl d.toNat

/-- One cycle of a core (R75). -/
def coreCycle (s : State) (core : Nat) : Out :=
  let s := s.modCore core fun k => { k with cyc := k.cyc + 1 }
  if !s.live (idTid core) then .next s
  else
    let s := s.wake core
    match s.pickCtx core with
    | none => .next s
    | some c => s.issueCtx core (ctxOn core c)

/-- Does an event act while Norbufer has stopped the module (R463, R464)?  Launch writes do where bring-up has failed: they
count in DROP (R460). -/
def actsHalted (n : Norb) (i : Instr) : Bool :=
  match i with
  | .readlog | .clearlog | .dumpinfo | .readdump | .releasedump | .mailboxUnknownCmd | .coldReset _ | .fatalDump => true
  | .launchWrite _ _ _ _ => n.failed
  | .uncorrectableError _ => true
  | _ => false

/-- The cursor at an event: what it is about; it works for no submitter yet. -/
def about (s : State) (u v : Nat) : State :=
  { s with cur := { s.cur with u := u, v := v, sub := 0, colour := 0, adep := 0, src := none } }

/-- The colour of a write back that nobody asked for is open (R343; log 53). -/
def anyColour (s : State) : State :=
  { s with cur := { s.cur with colour := BitVec.ofNat 4 (Config.freeNat s.seq) }, seq := s.seq + 1 }

/-- The host's own moves: its memory (R451), and the memory BAR with the mailbox, whose commands are rows of the opcode table
(R463). -/
def hostMove (s : State) (m : Move) : Out :=
  match m with
  | .hostStore a l => .next (s.hostOwnWrite a l)
  | .hostLoad a n => .next { s with host := s.hostOwnRead a n }
  | .barStore off v =>
    if off = 0 then exec (mailboxRow v.toNat) (s.about s.norb.arg.toNat v.toNat)
    else if off = 0x8 then .next { s with norb := { s.norb with arg := v } }
    else .next s
  | .barLoad off =>
    .next { s with host := (List.range 8).map fun i => BitVec.ofNat 8 ((barWord s.norb off).toNat / 2 ^ (8 * i)) }
  | .mailboxEnd => .next s.mailboxEnd
  | _ => .next s

/-- One move of one agent (log 3).  Once Norbufer has stopped the module, only its own moves and the host's act (R464), and
what the cores do in the fabric cycle of the trigger itself. -/
def runMove (s : State) (m : Move) : Out :=
  if s.norb.halted then
    match m with
    | .event i u v => if actsHalted s.norb i then exec i (s.about u v) else .next s
    | .tick n => .next { s with fab := s.fab + n }
    | .cycle core => if s.norb.trig.isSome && s.norb.trigAt == s.fab then s.coreCycle (core % 2 ^ 16) else .next s
    | m => s.hostMove m
  else match m with
    | .cycle core => s.coreCycle (core % 2 ^ 16)
    | .event i u v => if isMove i then exec i (s.about u v) else .next s
    | .tick n => .next { s with fab := s.fab + n }
    | .evictL1 core line => .next (s.anyColour.l1Evict core line)
    | .evictL2 tid line => .next ((s.anyColour.combineIn (.l2 tid) line).l2Victim tid line)
    | .dropCode core line => .next (s.modCore core fun k => { k with l1i := del line k.l1i })
    | .serve id n => .next ((s.workFor id (s.ctx id).colour).serveAcc id n)
    | .arm n => .next (s.serveArm n)
    | .lag id mesh on => .next (s.modCtx id fun c => if mesh then { c with lagM := on } else { c with lagP := on })
    | .dropTlb shared unit n =>
      .next (if shared then
          (s.keepPast ((s.tile unit).tlb.drop n |>.take 1)).modTile unit fun t => { t with tlb := dropNth t.tlb n }
        else (s.keepPast ((s.core unit).tlb.drop n |>.take 1)).modCore unit fun k => { k with tlb := dropNth k.tlb n })
    | m => s.hostMove m

end State

end Sys2Proof.Machine
end

