-- ==== Sys2Proof/Machine/Step.lean ====
section
/-! DEFINITION. The step of the module: one move (log 3). -/

namespace Sys2Proof.Machine

/-- The next move: the first of the agenda, or a free one (log 3). -/
def State.takeMove (s : State) : Move × State :=
  match s.agenda with
  | m :: r => (m, { s with agenda := r })
  | [] => (Config.nextMove s.seq, { s with seq := s.seq + 1 })

/-- One step: one move of one agent. -/
def step (s : State) : Host.Outcome State Fault Refusal :=
  let (m, s) := s.takeMove
  s.runMove m

/-- Core 0 of tile (0, 0), whose control context runs what withFetchWord places (log 2). -/
def fetchCore : Nat := 0

/-- Line number of the line that withFetchWord places, in the model's physical address space (log 2). -/
def fetchPl : Nat := 0x100

/-- The line that holds one slot at slot 0, a legal target, unpaired, with its parity. -/
def fetchLineOf (w : Nat) : Nat := encodeLine (w % 2 ^ 96) 0 0 0 0 1 0

/-- s with the given instruction where the next step fetches: the control context of core 0 of tile (0, 0) stands READY at
a line of its L1 instruction cache that a TLB entry maps, and the next move is a cycle of that core (log 2). -/
def State.withFetchWord (s : State) (nbits w : Nat) : State :=
  let slot := w % 2 ^ (Nat.min nbits 96)
  let e : TlbE := { asid := 0, va := 0, size := 2 ^ 16, leaf := 0x2F, pte := 0 }
  let k := s.core fetchCore
  let k := { k with l1i := put fetchPl (BitVec.ofNat 512 (fetchLineOf slot)) k.l1i, tlb := [e], last := 10, lost := none }
  let c := s.ctx (ctxOn fetchCore 0)
  let c := { c with st := .ready, pc := W (64 * fetchPl), wait := .none, answer := .none, alone := false, before := none,
                    held := none, refet := none, inc := false, brk := none, gap := 0, hold := 0, susp := false, capt := false, taken := false, asid := 0 }
  let s := (s.setCore fetchCore k).setCtx (ctxOn fetchCore 0) c
  let s := s.modSpace 0 fun k => { k with susp := false }
  { s with agenda := .cycle fetchCore :: s.agenda, norb := { s.norb with halted := false }, dark := s.dark.filter (· != 0) }

end Sys2Proof.Machine
end

