-- ==== Sys2Proof/Safety.lean ====
section
/-! DEFINITION. What the statements speak of: memories in canonical form, steps that answer a next state, the registers
and bytes that a context sees, and what an instruction leaves as it was. -/

namespace Sys2Proof.Machine

namespace State

/-- Module and host memory, and the bytes of every tile's banks, are in canonical form. -/
def memOk (s : State) : Prop := Memory.wf s.mem = true ∧ ∀ e ∈ s.tiles, Memory.wf e.2.sram = true

/-- The step of a state is a next state: nothing that the module does stops the model. -/
def goesOn (s : State) : Prop := ∃ t, step s = .next t

/-! ### Registers as the spec names them -/

/-- The executing instruction issues alone and no result is on its way: every register holds its value (R78, R79). -/
def settled (s : State) : Prop := s.cur.src = none ∧ s.me.pend = []

/-- X[r]; x0 reads 0 (R101). -/
def xval (s : State) (r : XReg) : Word := if r.val = 0 then 0 else s.me.x.get r
/-- P[r]; p0 reads 1 (R102). -/
def pval (s : State) (r : PReg) : Bool := if r.val = 0 then true else s.me.p.get r
/-- V[r] (R122). -/
def vval (s : State) (r : VReg) : VWord := s.me.v.get r
/-- Lane mask r; k0 has every bit set (R123). -/
def kval (s : State) (r : PReg) : KWord := if r.val = 0 then BitVec.allOnes 128 else s.me.k.get r

/-- Only the executing context, and the cursor, differ: every byte of memory, cache, bank and register outside it is as it
was. -/
def onlyMe (s t : State) : Prop := t = { s.setCtx s.cur.id t.me with cur := t.cur }

/-! ### Bytes as contexts see them (R178-R180, R184) -/

/-- Address of format MEM (R56): base + index x 2^sh + displacement modulo 2^64. -/
def addrOf (s : State) (m : MemOp) : Word := s.xval m.base + s.xval m.idx <<< m.sh.val + m.disp.signExtend 64

/-- Address of an atomic's or future's operand: base + displacement. -/
def cellOf (s : State) (m : CellOp) : Word := s.xval m.base + m.disp.signExtend 64

/-- The byte at a physical address as a context of a core loads it: its L1D, else its tile's L2, else the home (R178,
R179). -/
def seenByte (s : State) (core a : Nat) : Byte :=
  let l := getD {} (s.core core).l1d (a / 64)
  if l.valid.getLsbD (a % 64) then l.data.extractLsb' (8 * (a % 64)) 8
  else (s.l2View (idTid core) (a / 64)).extractLsb' (8 * (a % 64)) 8

/-- The byte at a physical address in its home (R217). -/
def homeByte (s : State) (a : Nat) : Byte := cellAt s.mem a

/-- The byte at an offset of a tile's banks (R184). -/
def bankByte (s : State) (tid off : Nat) : Byte := cellAt (s.tile tid).sram off

/-- Only data caches, the caches' traffic, monitors, the free-value counter, the cursor's load mark and the executing
context's note of bytes that it read before they were written back differ: every register, every byte at its home and every
byte of a bank is as it was. -/
def cachesOnly (s t : State) : Prop :=
  t = { s with ctxs := t.ctxs, cores := t.cores, tiles := t.tiles, seq := t.seq, cur := t.cur, mons := t.mons,
               packets := t.packets } ∧
  (∀ id, id ≠ s.cur.id → t.ctx id = s.ctx id) ∧ t.me = { s.me with seen := t.me.seen } ∧
  t.cur = { s.cur with dep := t.cur.dep } ∧
  (∀ k, t.core k = { s.core k with l1d := (t.core k).l1d }) ∧ (∀ k, t.tile k = { s.tile k with l2 := (t.tile k).l2 })

/-- No copy is queued or saved, so that no byte of any bank is guarded, and no window is set on the tile: no access to its
banks waits (R335, R336, R339). -/
def unguarded (s : State) (tid : Nat) : Prop :=
  (s.tile tid).eng.wins = [] ∧ (∀ e ∈ s.tiles, ∀ c ∈ e.2.eng.chans, c.2.queue = []) ∧
  ∀ u ∈ s.saved, ∀ t l, SavedPart.chans t l ∈ u.2.parts → ∀ c ∈ l, c.2.queue = []

/-- No access of the executing context to a bank is to perform later than it issues (R185, R200; log 68). -/
def prompt (s : State) : Prop := s.me.accs = [] ∧ s.me.lagP = false ∧ s.me.lagM = false

/-- The core's L1D and each bank of its tile take n more lines without losing one (R178, R179). -/
def room (s : State) (core n : Nat) : Prop :=
  (s.core core).l1d.length + n ≤ l1Lines ∧ ∀ b, (s.linesIn (idTid core) b).length + n ≤ bankLines

end State

/-- The low n bits of a word, for the width n of a type (R105). -/
def lowOf (ty : Ty) (w : Word) : BitVec (tyBits ty) := w.setWidth _

/-- n bits extended by type (R105): signed for i types, unsigned for n types. -/
def extTy (ty : Ty) (v : BitVec (tyBits ty)) : Word := if tySigned ty then v.signExtend 64 else v.setWidth 64

/-- n bits read by type (R105 rd). -/
def valTy (ty : Ty) (w : Word) : Int := if tySigned ty then (lowOf ty w).toInt else (lowOf ty w).toNat

/-- Least and greatest value of a type (R105 lo, hi). -/
def loTy (ty : Ty) : Int := if tySigned ty then -2 ^ (tyBits ty - 1) else 0
def hiTy (ty : Ty) : Int := if tySigned ty then 2 ^ (tyBits ty - 1) - 1 else 2 ^ tyBits ty - 1

/-- The value of a type nearest to an exact result (R105 clamp). -/
def nearTy (ty : Ty) (r : Int) : Int := max (loTy ty) (min (hiTy ty) r)

/-- An exact result in n bits (R105 wrap). -/
def wrapTy (ty : Ty) (r : Int) : Word := extTy ty (BitVec.ofInt _ r)

/-- The control state of a context: what no register-only instruction touches but the loop sets and the PC. -/
def sameControl (c d : Ctx) : Prop :=
  d.st = c.st ∧ d.h = c.h ∧ d.ft = c.ft ∧ d.rm = c.rm ∧ d.nfm = c.nfm ∧ d.colour = c.colour ∧ d.cls = c.cls ∧
  d.srkey = c.srkey ∧ d.child = c.child ∧ d.asid = c.asid ∧ d.parent = c.parent ∧ d.region = c.region ∧
  d.gang = c.gang ∧ d.retain = c.retain ∧ d.bind = c.bind ∧ d.brk = c.brk ∧ d.exempt = c.exempt ∧ d.step = c.step ∧
  d.status = c.status ∧ d.late = c.late ∧ d.frec = c.frec ∧ d.susp = c.susp ∧ d.capt = c.capt ∧ d.taken = c.taken ∧
  d.gap = c.gap ∧ d.hold = c.hold ∧ d.refet = c.refet ∧ d.pcset = c.pcset ∧ d.inc = c.inc ∧ d.idle = c.idle ∧
  d.accs = c.accs ∧ d.lagP = c.lagP ∧ d.lagM = c.lagM ∧ d.seen = c.seen ∧ d.cdep = c.cdep

/-- Every register but those listed, by the numbers of R204's tracking, reads as before: its value and the results on their
way to it. -/
def sameRegs (c d : Ctx) (but : List Nat) : Prop :=
  (∀ r : XReg, r.val ∉ but → d.x.get r = c.x.get r) ∧
  (∀ r : PReg, 64 + r.val ∉ but → d.p.get r = c.p.get r) ∧
  (∀ r : VReg, 72 + r.val ∉ but → d.v.get r = c.v.get r) ∧
  (∀ r : PReg, 104 + r.val ∉ but → d.k.get r = c.k.get r) ∧
  (∀ k : Nat, k ≠ 0 → k ∉ but → d.pend.filter (fun e => e.wr.key == k) = c.pend.filter (fun e => e.wr.key == k))

end Sys2Proof.Machine
end

