-- ==== Sys2Proof/Certificates/Slice0/Obligations.lean ====
section
/-! DEFINITION. The statements about the model, from the numbered rules of spec/.

`exec i s = .next t.complete` says that the instruction completes without a transfer (R45); t holds its effect. -/

open Sys2Proof Sys2Proof.Machine

/-! ### Scalar instructions (R96, R105-R121) -/

/-- `put` of R105: the representable value nearest to r under `.sat`, r wrapped to n bits otherwise, extended by type. -/
def putTy (ty : Ty) (sat : Bool) (r : Int) : Word := wrapTy ty (if sat then nearTy ty r else r)

/-- R108: ADD, SUB, MUL and MADD put their exact value once; ADD and SUB are ALU results, MUL and MADD take 4 cycles
(R77).  R114: ADDI adds its immediate exactly. -/
def Rules.ScalarArithmetic : Prop :=
  ∀ (s : State) (d a b c : XReg) (ty : Ty) (sat : Bool) (imm : BitVec 58), s.settled →
    let A := valTy ty (s.xval a)
    let B := valTy ty (s.xval b)
    let C := valTy ty (s.xval c)
    exec (.add d a b ty sat) s = .next (s.wx d (putTy ty sat (A + B))).complete ∧
    exec (.sub d a b ty sat) s = .next (s.wx d (putTy ty sat (A - B))).complete ∧
    exec (.mul d a b ty sat) s = .next (s.wlat 4 (.x d (putTy ty sat (A * B)))).complete ∧
    exec (.madd d a b c ty sat) s = .next (s.wlat 4 (.x d (putTy ty sat (A * B + C)))).complete ∧
    exec (.addi d a ty sat imm) s = .next (s.wx d (putTy ty sat (A + imm.toInt))).complete

/-- R109, R110, R113: MULH writes the high n bits of the product; DIV truncates toward zero and REM takes the dividend's
sign, with the stated results for a divisor of 0; MIN and MAX write the lesser and the greater. -/
def Rules.ScalarDivide : Prop :=
  ∀ (s : State) (d a b : XReg) (ty : Ty), s.settled →
    let A := valTy ty (s.xval a)
    let B := valTy ty (s.xval b)
    exec (.mulh d a b ty) s = .next (s.wlat 4 (.x d (wrapTy ty (A * B / 2 ^ tyBits ty)))).complete ∧
    exec (.div d a b ty) s = .next (s.wlat 12 (.x d (wrapTy ty
      (if B = 0 then (if tySigned ty then -1 else 2 ^ tyBits ty - 1) else Int.tdiv A B)))).complete ∧
    exec (.rem d a b ty) s = .next (s.wlat 12 (.x d (wrapTy ty
      (if B = 0 then A else A - B * Int.tdiv A B)))).complete ∧
    exec (.min d a b ty) s = .next (s.wx d (wrapTy ty (if A ≤ B then A else B))).complete ∧
    exec (.max d a b ty) s = .next (s.wx d (wrapTy ty (if A ≤ B then B else A))).complete

/-- R111: AND, OR and XOR and their immediate forms act on the low n bits; `.nb` complements the second source; the result
is extended by type. -/
def Rules.ScalarLogic : Prop :=
  ∀ (s : State) (d a b : XReg) (ty : Ty) (nb : Bool) (imm : BitVec 58), s.settled →
    let u := lowOf ty (s.xval a)
    let w := if nb then ~~~lowOf ty (s.xval b) else lowOf ty (s.xval b)
    let k := lowOf ty (imm.signExtend 64)
    exec (.and d a b ty nb) s = .next (s.wx d (extTy ty (u &&& w))).complete ∧
    exec (.or d a b ty nb) s = .next (s.wx d (extTy ty (u ||| w))).complete ∧
    exec (.xor d a b ty nb) s = .next (s.wx d (extTy ty (u ^^^ w))).complete ∧
    exec (.andi d a ty imm) s = .next (s.wx d (extTy ty (u &&& k))).complete ∧
    exec (.ori d a ty imm) s = .next (s.wx d (extTy ty (u ||| k))).complete ∧
    exec (.xori d a ty imm) s = .next (s.wx d (extTy ty (u ^^^ k))).complete

/-- R112: the shifts and ROT, by X[B] as an unsigned amount or by the immediate; SHL puts the exact product, saturating
under `.sat`; SHR and SHA shift the n-bit pattern; the result is extended by type. -/
def Rules.ScalarShift : Prop :=
  ∀ (s : State) (d a b : XReg) (ty : Ty) (sat r : Bool) (n : Fin 64), s.settled →
    let u := lowOf ty (s.xval a)
    let k := (s.xval b).toNat
    exec (.shl d a b ty sat) s = .next (s.wx d (putTy ty sat (valTy ty (s.xval a) * 2 ^ k))).complete ∧
    exec (.shli d a ty sat n) s = .next (s.wx d (putTy ty sat (valTy ty (s.xval a) * 2 ^ n.val))).complete ∧
    exec (.shr d a b ty) s = .next (s.wx d (extTy ty (u >>> k))).complete ∧
    exec (.shri d a ty n) s = .next (s.wx d (extTy ty (u >>> n.val))).complete ∧
    exec (.sha d a b ty) s = .next (s.wx d (extTy ty (u.sshiftRight k))).complete ∧
    exec (.shai d a ty n) s = .next (s.wx d (extTy ty (u.sshiftRight n.val))).complete ∧
    exec (.rot d a b ty r) s = .next (s.wx d (extTy ty
      (if r then u.rotateRight (k % tyBits ty) else u.rotateLeft (k % tyBits ty)))).complete

/-- The bits of the n-bit pattern from the highest down. -/
def bitsDown (ty : Ty) (w : Word) : List Bool := ((List.range (tyBits ty)).map fun i => w.getLsbD i).reverse

/-- R115: BCNT writes the number of one bits, of zero bits above the highest one, of zero bits below the lowest one, or of
bits directly below the top bit that equal it. -/
def Rules.BitCount : Prop :=
  ∀ (s : State) (d a : XReg) (ty : Ty), s.settled →
    let l := bitsDown ty (s.xval a)
    exec (.bcnt d a ty .pop) s = .next (s.wx d (W (l.count true))).complete ∧
    exec (.bcnt d a ty .clz) s = .next (s.wx d (W (l.takeWhile (! ·)).length)).complete ∧
    exec (.bcnt d a ty .ctz) s = .next (s.wx d (W (l.reverse.takeWhile (! ·)).length)).complete ∧
    exec (.bcnt d a ty .cls) s = .next (s.wx d (W ((l.drop 1).takeWhile (· == l.headD false)).length)).complete

/-- R116: EXT reads the field [pos+len-1:pos], bits above 63 as 0, and extends it; INS replaces the bits from pos on with
the low len bits of X[A] and drops those past bit 63. -/
def Rules.BitFields : Prop :=
  ∀ (s : State) (d a : XReg) (pos l : Fin 64), s.settled →
    let f := (s.xval a >>> pos.val).setWidth (l.val + 1)
    exec (.ext d a true pos l) s = .next (s.wx d (f.signExtend 64)).complete ∧
    exec (.ext d a false pos l) s = .next (s.wx d (f.setWidth 64)).complete ∧
    ∃ v : Word, exec (.ins d a pos l) s = .next (s.wx d v).complete ∧
      ∀ k : Nat, k < 64 → v.getLsbD k =
        if pos.val ≤ k ∧ k < pos.val + (l.val + 1) then (s.xval a).getLsbD (k - pos.val) else (s.xval d).getLsbD k

/-- R117, R118, R96, R95, R90: LEA forms base + index x 2^sh + displacement modulo 2^64; SEL moves X[A] or X[B] by a
predicate; LI sign-extends 58 bits; LIH replaces the high 32 bits; GETID reads the context, core, tile and ASID numbers,
CHILD, the loop counts, the region, the member's gang with its tile's offset from the origin, the privilege and the energy
class, with every other bit 0, and has no other selector; NOP completes with no effect. -/
def Obligations.ScalarMoves : Prop :=
  ∀ (s : State) (d a b : XReg) (c : PReg) (neg : Bool) (m : MemOp) (imm : BitVec 58) (hi : BitVec 32), s.settled →
    exec (.lea d m) s =
      .next (s.wx d (s.xval m.base + s.xval m.idx <<< m.sh.val + m.disp.signExtend 64)).complete ∧
    exec (.sel d a b c neg) s = .next (s.wx d (if s.pval c != neg then s.xval a else s.xval b)).complete ∧
    exec (.li d imm) s = .next (s.wx d (imm.signExtend 64)).complete ∧
    exec (.lih d hi) s = .next (s.wx d (hi ++ (s.xval d).setWidth 32)).complete ∧
    exec (.getid d 0) s = .next (s.wx d (W (idCtx s.cur.id))).complete ∧
    exec (.getid d 1) s = .next (s.wx d (W (idCore s.cur.id))).complete ∧
    exec (.getid d 2) s = .next (s.wx d (W (idTid s.cur.id))).complete ∧
    exec (.getid d 3) s = .next (s.wx d (s.me.asid.setWidth 64)).complete ∧
    exec (.getid d 4) s = .next (s.wx d s.me.childWord).complete ∧
    exec (.getid d 5) s = .next (s.wx d s.me.l0.lc).complete ∧
    exec (.getid d 6) s = .next (s.wx d s.me.l1.lc).complete ∧
    (s.me.region = none → exec (.getid d 7) s = .next (s.wx d 0).complete) ∧
    (∀ r, s.me.region = some r → exec (.getid d 7) s = .next (s.wx d (1#56 ++ r)).complete) ∧
    (s.me.gang = none → exec (.getid d 8) s = .next (s.wx d 0).complete) ∧
    (∀ g n k, s.me.gang = some (g, n) → find g s.gangs = some k →
      let dy := tileY s.myTid - tileY k.origin
      let dx := tileX s.myTid - tileX k.origin
      dy < 16 → dx < 16 → ∃ v : Word, exec (.getid d 8) s = .next (s.wx d v).complete ∧ v.toNat < 2 ^ 17 ∧ Bit v 16 = true ∧
        Bits v 12 4 = Bits k.w[1] 17 4 ∧ Bits v 8 4 = Bits k.w[1] 13 4 ∧ Bits v 4 4 = dy ∧ Bits v 0 4 = dx) ∧
    exec (.getid d 9) s = .next (s.wx d (if s.priv then 1 else 0)).complete ∧
    exec (.getid d 10) s = .next (s.wx d (s.me.cls.setWidth 64)).complete ∧
    (∀ sel : BitVec 58, 11 ≤ sel.toNat → (Instr.getid d sel).wf = false) ∧
    exec .nop s = .next s.complete

/-- Does the condition of R119 hold between two exact values, at a type? -/
def cmpSpec (ty : Ty) (op : CmpOp) (a b : Int) : Bool :=
  match op with
  | .eq => decide (a = b) | .ne => decide (a ≠ b) | .lt => decide (a < b)
  | .ge => decide (a ≥ b) | .le => decide (a ≤ b) | .gt => decide (a > b)
  | .tst => (BitVec.ofInt (tyBits ty) a &&& BitVec.ofInt (tyBits ty) b) != 0

/-- R119, R120: the compares write their condition, combined with the old predicate under `.and` and `.or`; CMPI takes its
immediate exactly; PLOG reads its truth table. -/
def Rules.Compares : Prop :=
  ∀ (s : State) (pd pa pb : PReg) (a b : XReg) (ty : Ty) (op : CmpOp) (cb : Comb) (imm : BitVec 58) (lut : BitVec 4),
    s.settled →
    let mix (c : Bool) : Bool := match cb with
      | .none => c
      | .and => s.pval pd && c
      | .or => s.pval pd || c
    exec (.cmp pd a b ty op cb) s =
      .next (s.wr (.p pd (mix (cmpSpec ty op (valTy ty (s.xval a)) (valTy ty (s.xval b)))))).complete ∧
    exec (.cmpi pd a ty op cb imm) s = .next (s.wr (.p pd (mix (cmpSpec ty op (valTy ty (s.xval a)) imm.toInt)))).complete ∧
    exec (.plog pd pa pb lut) s =
      .next (s.wr (.p pd (lut.getLsbD ((if s.pval pa then 2 else 0) + (if s.pval pb then 1 else 0))))).complete

/-- R121: MOVP by mode: `.all` gathers p0-p7 (p0 reads 1), `.spread` writes p1-p7 from bits 1-7, `.nz` tests X[A] for zero,
`.bit` reads one predicate. -/
def Rules.MovePredicates : Prop :=
  ∀ (s : State) (d a : XReg) (pd pa : PReg), s.settled →
    (∃ v : Word, exec (.movp (.all d)) s = .next (s.wx d v).complete ∧
      ∀ k : Nat, k < 64 → v.getLsbD k = (if h : k < 8 then s.pval ⟨k, h⟩ else false)) ∧
    (∃ t, exec (.movp (.spread a)) s = .next t.complete ∧ s.onlyMe t ∧
      (∀ r : PReg, r.val ≠ 0 → t.me.p.get r = (s.xval a).getLsbD r.val) ∧ sameRegs s.me t.me [65, 66, 67, 68, 69, 70, 71]) ∧
    exec (.movp (.nz pd a)) s = .next (s.wr (.p pd (s.xval a != 0))).complete ∧
    exec (.movp (.bit d pa)) s = .next (s.wx d (if s.pval pa then 1 else 0)).complete

/-! ### Frames -/

/-- The registers that an instruction of the scalar, vector and conversion majors writes, by the numbers of `RegWrite.key`
(x 0-63, p 64-71, v 72-103, lane masks 104-111); none for other instructions. -/
def aluDests (i : Instr) : Option (List Nat) :=
  match i with
  | .nop => some []
  | .add d _ _ _ _ | .sub d _ _ _ _ | .mul d _ _ _ _ | .and d _ _ _ _ | .or d _ _ _ _ | .xor d _ _ _ _
  | .shl d _ _ _ _ | .rot d _ _ _ _ => some [d.val]
  | .mulh d _ _ _ | .div d _ _ _ | .rem d _ _ _ | .shr d _ _ _ | .sha d _ _ _ | .min d _ _ _ | .max d _ _ _ => some [d.val]
  | .madd d _ _ _ _ _ => some [d.val]
  | .addi d _ _ _ _ | .shli d _ _ _ _ | .ext d _ _ _ _ | .sel d _ _ _ _ => some [d.val]
  | .andi d _ _ _ | .ori d _ _ _ | .xori d _ _ _ | .shri d _ _ _ | .shai d _ _ _ | .bcnt d _ _ _ | .ins d _ _ _ =>
    some [d.val]
  | .lea d _ | .li d _ | .lih d _ | .getid d _ => some [d.val]
  | .cmp pd _ _ _ _ _ | .cmpi pd _ _ _ _ _ => some [64 + pd.val]
  | .plog pd _ _ _ => some [64 + pd.val]
  | .movp (.all d) => some [d.val]
  | .movp (.spread _) => some [65, 66, 67, 68, 69, 70, 71]
  | .movp (.nz pd _) => some [64 + pd.val]
  | .movp (.bit d _) => some [d.val]
  | .vadd d _ _ _ _ _ _ | .vsub d _ _ _ _ _ _ | .vmul d _ _ _ _ _ _ | .vshl d _ _ _ _ _ _ => some [72 + d.val]
  | .vmulh d _ _ _ _ _ | .vand d _ _ _ _ _ | .vor d _ _ _ _ _ | .vxor d _ _ _ _ _ | .vshr d _ _ _ _ _
  | .vsha d _ _ _ _ _ | .vmin d _ _ _ _ _ | .vmax d _ _ _ _ _ => some [72 + d.val]
  | .vsel d _ _ _ _ | .vabs d _ _ _ _ _ => some [72 + d.val]
  | .vdot d _ _ _ _ _ _ _ _ => some [72 + d.val]
  | .vcmp kd _ _ _ _ _ _ | .vfcmp kd _ _ _ _ _ _ => some [64 + kd.val, 104 + kd.val]
  | .vfadd d _ _ _ _ _ _ | .vfsub d _ _ _ _ _ _ | .vfmul d _ _ _ _ _ _ | .vfdiv d _ _ _ _ _ _
  | .vfscl d _ _ _ _ _ _ => some [72 + d.val]
  | .vfma d _ _ _ _ _ _ _ => some [72 + d.val]
  | .vfsqrt d _ _ _ _ _ | .vfexp2 d _ _ _ _ _ | .vfrcp d _ _ _ _ _ | .vfrsq d _ _ _ _ _ | .vfmin d _ _ _ _ _
  | .vfmax d _ _ _ _ _ | .vfred d _ _ _ _ _ => some [72 + d.val]
  | .vfcls d _ _ _ _ => some [72 + d.val]
  | .vperm d _ _ _ _ _ _ _ => some [72 + d.val]
  | .vbcast (.x d _ _ _ _) => some [72 + d.val]
  | .vbcast (.e d _ _ _ _ _) => some [72 + d.val]
  | .vbcast (.klo k _) => some [64 + k.val, 104 + k.val]
  | .vbcast (.khi k _) => some [64 + k.val, 104 + k.val]
  | .vextr (.e d _ _) => some [d.val]
  | .vextr (.klo d _) => some [d.val]
  | .vextr (.khi d _) => some [d.val]
  | .vextr (.cnt d _ _) => some [d.val]
  | .viota d _ _ _ _ | .vrng d _ _ _ _ | .vexpd d _ _ _ _ => some [72 + d.val]
  | .vcomp d _ x _ _ => some [72 + d.val, x.val]
  | .vredi d _ _ _ _ _ => some [72 + d.val]
  | .ftget d _ => some [d.val, (xnext d).val]
  | .cvt d _ _ _ => some [d.val]
  | .vcvt d _ c _ _ _ _ _ => some [72 + d.val, 72 + c.val]
  | .vpack d _ _ _ | .vunpk d _ _ _ => some [72 + d.val]
  | _ => none

/-- The RM field of an instruction whose results it may draw (R148); VRNG `.ctx` moves SRCTR always (R146). -/
def drawRm (i : Instr) : Option Rm :=
  match i with
  | .vfadd _ _ _ _ _ r _ | .vfsub _ _ _ _ _ r _ | .vfmul _ _ _ _ _ r _ | .vfdiv _ _ _ _ _ r _ | .vfscl _ _ _ _ _ r _ => some r
  | .vfma _ _ _ _ _ _ r _ => some r
  | .vfsqrt _ _ _ _ r _ | .vfexp2 _ _ _ _ r _ | .vfrcp _ _ _ _ r _ | .vfrsq _ _ _ _ r _ | .vfred _ _ _ _ r _ => some r
  | .vcvt _ _ _ _ _ r _ _ => some r
  | .cvt _ _ _ r => some r
  | .vrng _ .ctx _ _ _ => some .rsr
  | _ => none

/-- What the register-only instructions leave unchanged (R105, R106, R126): when one of those of `aluDests` completes, only
the executing context differs; in it, every register but its destinations, every result on its way to another register, and
the control state are as they were, SRCTR but for what draws under RM 5 and VRNG `.ctx` (R146, R148); and every byte of memory
reads as before. -/
def Obligations.RegisterFrame : Prop :=
  ∀ (i : Instr) (s t : State) (rs : List Nat), aluDests i = some rs → s.cur.done = false → exec i s = .next t →
    t.cur.done = true →
    s.onlyMe t ∧ sameRegs s.me t.me rs ∧ sameControl s.me t.me ∧ (∀ a, t.rawLoad a 1 = s.rawLoad a 1) ∧
    ((∀ r, drawRm i = some r → r ≠ .rsr ∧ (r = .dyn → s.src.rm.toNat ≠ 5)) → t.me.srctr = s.me.srctr)

/-- R101, R102, R77: an ALU result is in its register when the instruction has completed and no other register differs;
x0 and p0 discard what is written to them. -/
def Rules.ResultWritten : Prop :=
  ∀ (s : State) (d : XReg) (p : PReg) (w : Word) (b : Bool), s.settled → s.cur.done = false →
    let t := (s.wx d w).complete
    let u := (s.wr (.p p b)).complete
    (t.xval d = if d.val = 0 then 0 else w) ∧ t.me.pend = [] ∧ sameRegs s.me t.me [d.val] ∧ s.onlyMe t ∧
    (u.pval p = if p.val = 0 then true else b) ∧ u.me.pend = [] ∧ sameRegs s.me u.me [64 + p.val] ∧ s.onlyMe u

/-- R77, R78, R80: a result of latency l is on its way until l cycles of its core have passed; then it is in its register.
Of two results for one register the later issued one stays, whichever of them arrives first: an ALU result over one on its
way, and a shorter latency over a longer one. -/
def Rules.LatencyResult : Prop :=
  ∀ (s : State) (d : XReg) (l : Nat) (w : Word), s.settled → d.val ≠ 0 → 0 < l →
    let c := (s.wlat l (.x d w)).me
    c.x = s.me.x ∧
    (∀ now < s.cyc + l, c.settle now c.pend.length = c) ∧
    (∀ now, s.cyc + l ≤ now → (c.settle now c.pend.length).pend = [] ∧ (c.settle now c.pend.length).x.get d = w) ∧
    (∀ w2 : Word,
      let c2 := ((s.wlat l (.x d w)).wx d w2).me
      c2.x.get d = w2 ∧ c2.pend = []) ∧
    (∀ (l2 : Nat) (w2 : Word), l2 ≤ l →
      let c2 := ((s.wlat l (.x d w)).wlat l2 (.x d w2)).me
      ∀ now, s.cyc + l2 ≤ now → (c2.settle now c2.pend.length).pend = [] ∧ (c2.settle now c2.pend.length).x.get d = w2) ∧
    (∀ w2 : Word,
      let c2 := ((s.wlong (.x d w)).wx d w2).me
      c2.x.get d = w2 ∧ ∃ e, c2.pend = [e] ∧ e.dead = true)

/-! ### Control (R86-R100) -/

/-- R56: the PC-relative target of format BR. -/
def relTarget (pc : Word) (t : BrTarget) : Word := (((pc >>> 6) + t.ldisp.signExtend 64) <<< 6) + W t.slot.val

/-- R59: the condition of BC and BCZ. -/
def condSpec (c : Cond) (a b : Word) : Prop :=
  match c with
  | .eq => a = b
  | .ne => a ≠ b
  | .lt => a.toInt < b.toInt
  | .ge => b.toInt ≤ a.toInt
  | .ltu => a.toNat < b.toNat
  | .geu => b.toNat ≤ a.toNat

/-- R97: BR, BC, BCZ and BP transfer to a legal target when their condition holds, and go on without a check of the target
when it does not. -/
def Rules.Branches : Prop :=
  ∀ (s s1 : State) (a b : XReg) (p : PReg) (c : Cond) (neg : Bool) (t : BrTarget), s.settled →
    let g := relTarget s.cur.pc t
    s.legalHere g = .ok s1 →
    let taken := Host.Outcome.next ((s1.withCost 0 3).xfer g)
    let passed := Host.Outcome.next (s.withCost 3 0).complete
    exec (.br t) s = taken ∧
    (condSpec c (s.xval a) (s.xval b) → exec (.bc a b c t) s = taken) ∧
    (¬condSpec c (s.xval a) (s.xval b) → exec (.bc a b c t) s = passed) ∧
    (condSpec c (s.xval a) 0 → exec (.bcz a c t) s = taken) ∧
    (¬condSpec c (s.xval a) 0 → exec (.bcz a c t) s = passed) ∧
    exec (.bp p neg t) s = (if s.pval p != neg then taken else passed)

/-- R97, R46, R9: a taken branch to a target that is not legal raises the fault of the first failing step, and nothing else
happens; one that is not taken goes on, whatever its target. -/
def Rules.BranchFaults : Prop :=
  ∀ (s : State) (a b : XReg) (p : PReg) (neg : Bool) (c : Cond) (t : BrTarget) (f : Flt), s.settled →
    let raised := Host.Outcome.next (s.raise f)
    let passed := Host.Outcome.next (s.withCost 3 0).complete
    (s.legalHere (relTarget s.cur.pc t) = .error (.flt f) →
      exec (.br t) s = raised ∧
      (condSpec c (s.xval a) (s.xval b) → exec (.bc a b c t) s = raised) ∧
      (condSpec c (s.xval a) 0 → exec (.bcz a c t) s = raised) ∧
      (s.pval p ≠ neg → exec (.bp p neg t) s = raised)) ∧
    (¬condSpec c (s.xval a) (s.xval b) → exec (.bc a b c t) s = passed) ∧
    (¬condSpec c (s.xval a) 0 → exec (.bcz a c t) s = passed) ∧
    (s.pval p = neg → exec (.bp p neg t) s = passed)

/-- R98: CALL, CALLR, JR and RET transfer to a legal target, read before any write; the calls write nextpc to LINK.  A target
that is not legal raises the fault of R46, and nothing else happens. -/
def Rules.Calls : Prop :=
  ∀ (s s1 : State) (a l : XReg) (t : BrTarget) (f : Flt), s.settled →
    let g := relTarget s.cur.pc t
    let v := s.xval a
    (s.legalHere g = .ok s1 → exec (.call l t) s = .next (((s1.wx l s.nextpc).withCost 0 3).xfer g)) ∧
    (s.legalHere g = .error (.flt f) → exec (.call l t) s = .next (s.raise f)) ∧
    (s.legalHere v = .ok s1 →
      exec (.jr a) s = .next ((s1.withCost 2 4).xfer v) ∧ exec (.ret a) s = .next ((s1.withCost 2 4).xfer v) ∧
      exec (.callr a l) s = .next (((s1.wx l s.nextpc).withCost 2 4).xfer v)) ∧
    (s.legalHere v = .error (.flt f) →
      exec (.jr a) s = .next (s.raise f) ∧ exec (.ret a) s = .next (s.raise f) ∧ exec (.callr a l) s = .next (s.raise f))

/-- R86: the PCs of what completes with the executing instruction, which is itself and the first of its pair. -/
def pairPcs (s : State) : List Word := if s.me.alone then [s.cur.pc - 1, s.cur.pc] else [s.cur.pc]

/-- R86, R87, R88 xfer: the PC is the target; an armed set whose body holds the transferring instruction, or the other of its
pair (the model's choice, log 75), and not the target disarms with its count kept; registers, control state and all else are
as they were. -/
def Rules.Transfer : Prop :=
  ∀ (s : State) (g : Word),
    let t := s.xfer g
    let inBody (l : LoopSet) (p : Word) : Prop := l.ls.toNat ≤ p.toNat ∧ p.toNat ≤ l.le.toNat
    let leaves (l : LoopSet) : Prop := (∃ p ∈ pairPcs s, inBody l p) ∧ ¬inBody l g
    t.me.pc = g ∧ t.cur.done = true ∧ s.onlyMe t ∧ sameRegs s.me t.me [] ∧ sameControl s.me t.me ∧
    (leaves s.me.l0 → t.me.l0 = { s.me.l0 with armed := false }) ∧ (¬leaves s.me.l0 → t.me.l0 = s.me.l0) ∧
    (leaves s.me.l1 → t.me.l1 = { s.me.l1 with armed := false }) ∧ (¬leaves s.me.l1 → t.me.l1 = s.me.l1)

/-- R99: LOOP and LOOPI refuse an end PC before the body, and a start or an end that no transfer may reach; they skip the body on a count of 0 with the set disarmed, and arm the
set otherwise; `e` is the end PC and `n` the count. -/
def Rules.Loops : Prop :=
  ∀ (s s1 s2 : State) (a : XReg) (set : Fin 2) (t : BrTarget) (cnt : BitVec 18) (disp : BitVec 37) (sl : Fin 8), s.settled →
    let form (i : Instr) (e n : Word) : Prop :=
      (e.toNat < s.nextpc.toNat → exec i s = .next (s.raise { code := .loopRange, info := e })) ∧
      (∀ f, s.nextpc.toNat ≤ e.toNat → s.legalHere s.nextpc = .error (.flt f) → exec i s = .next (s.raise f)) ∧
      (∀ f, s.nextpc.toNat ≤ e.toNat → s.legalHere s.nextpc = .ok s1 → n = 0 → s1.legalHere (seqPc e) = .error (.flt f) →
        exec i s = .next (s.raise f)) ∧
      (s.nextpc.toNat ≤ e.toNat → s.legalHere s.nextpc = .ok s1 → n ≠ 0 →
        exec i s = .next (s1.setLoop set fun _ => { lc := n, ls := s.nextpc, le := e, armed := true }).complete) ∧
      (s.nextpc.toNat ≤ e.toNat → s.legalHere s.nextpc = .ok s1 → n = 0 → s1.legalHere (seqPc e) = .ok s2 →
        exec i s = .next (((s2.setLoop set fun l => { l with lc := 0, armed := false }).withCost 0 3).goto (seqPc e)))
    form (.loop a set t) (relTarget s.cur.pc t) (s.xval a) ∧
    form (.loopi set cnt disp sl) ((((s.cur.pc >>> 6) + disp.signExtend 64) <<< 6) + W sl.val) (cnt.setWidth 64)

/-- R86, R45, R100: an instruction at the end PC of an armed set that completes without a transfer counts the set down; the
PC is the start of the body while the count lasts, and else the next slot with the set disarmed.  An instruction at no end
PC goes to the next slot with the sets as they were.  Set 1 is processed before set 0, and where it goes back set 0 stays as
it is; a pair is processed once, after its second, at the end PC of either (where a pair ends both sets at different slots,
the same order is the model's choice: log 75).  LBRK clears the count, disarms and transfers. -/
def Rules.LoopEnd : Prop :=
  (∀ s : State,
    let t := s.complete
    let l := s.me.l0
    let m := s.me.l1
    let ends (l : LoopSet) : Prop := l.armed = true ∧ l.le ∈ pairPcs s
    let back (l : LoopSet) : LoopSet := { l with lc := l.lc - 1 }
    let out (l : LoopSet) : LoopSet := { l with lc := 0, armed := false }
    let at0 : Prop :=
      (ends l → l.lc ≠ 1 → t.me.pc = l.ls ∧ t.me.l0 = back l) ∧
      (ends l → l.lc = 1 → t.me.pc = seqPc s.cur.pc ∧ t.me.l0 = out l) ∧
      (¬ends l → t.me.pc = seqPc s.cur.pc ∧ t.me.l0 = l)
    t.cur.done = true ∧ s.onlyMe t ∧ sameRegs s.me t.me [] ∧ sameControl s.me t.me ∧
    (s.cur.fst = true → t.me.pc = s.cur.pc + 1 ∧ t.me.alone = true ∧ t.me.l0 = l ∧ t.me.l1 = m) ∧
    (s.cur.fst = false → t.me.alone = false ∧
      (ends m → m.lc ≠ 1 → t.me.pc = m.ls ∧ t.me.l1 = back m ∧ t.me.l0 = l) ∧
      (ends m → m.lc = 1 → t.me.l1 = out m ∧ at0) ∧
      (¬ends m → t.me.l1 = m ∧ at0))) ∧
  (∀ (s : State) (set : Fin 2) (t : BrTarget) (f : Flt), s.legalHere (relTarget s.cur.pc t) = .error (.flt f) →
    exec (.lbrk set t) s = .next (s.raise f)) ∧
  (∀ (s s1 : State) (set : Fin 2) (t : BrTarget), s.legalHere (relTarget s.cur.pc t) = .ok s1 →
    exec (.lbrk set t) s =
      .next (((s1.setLoop set fun l => { l with lc := 0, armed := false }).withCost 0 3).xfer (relTarget s.cur.pc t)))

/-- R70-R73, R82, R91-R93, R212: SPAWN takes the lowest free helper, behind its release, or writes 0; HWAIT completes when
no named helper is live and otherwise waits, its result written before its context is READY again; HALT raises a late fault that has come, else frees the context when nothing of
it is outstanding and no helper is live, else waits; `.retain` of a control context records X[A], which a late fault
discards (R33, R91). -/
def Rules.Helpers : Prop :=
  (∀ (s s1 : State) (d a : XReg) (imm : BitVec 58),
    let g := (((s.cur.pc >>> 6) + (imm.extractLsb' 3 55).signExtend 64) <<< 6) + (imm.setWidth 3).setWidth 64
    s.legalHere g = .ok s1 → s1.settled →
    (s1.freeHelper s1.myCore = none → exec (.spawn d a imm) s = .next (s1.wx d 0).complete) ∧
    (∀ h, s1.freeHelper s1.myCore = some h → s1.relGate = .ok () →
      exec (.spawn d a imm) s =
        .next (((s1.release s1.myCore .co).startHelper h g (s1.xval a)).wx d (W h)).complete)) ∧
  (∀ (s : State) (d a : XReg), s.settled →
    let m := s.xval a &&& 0x7FE
    (∀ v, s.me.answer = .val v → exec (.hwait d a) s = .next ((s.acquire s.myCore .co).wx d v).complete) ∧
    (s.me.answer = .none → s.me.childWord &&& m = 0 → exec (.hwait d a) s = .next ((s.acquire s.myCore .co).wx d s.me.childWord).complete) ∧
    (s.me.answer = .none → s.me.childWord &&& m ≠ 0 → exec (.hwait d a) s = .next (s.park (.hwait m)))) ∧
  (∀ (s : State) (a : XReg) (retain : Bool), s.settled →
    let t := s.modMe fun c => { c with retain := if retain = true ∧ idCtx s.cur.id = 0 then some (s.xval a) else none }
    let u := t.modMe fun c => { c with pc := s.cur.pc }
    (∀ l, s.me.late = some l → exec (.halt a retain) s = .next (u.stopHalt s.cur.id l)) ∧
    (s.me.late = none → State.haltReady s.me = true → exec (.halt a retain) s = .next (u.endCtx s.cur.id)) ∧
    (s.me.late = none → State.haltReady s.me = true → idCtx s.cur.id = 0 → s.me.parent = none →
      ∃ t, exec (.halt a retain) s = .next t ∧ t.ctx s.cur.id = {}) ∧
    (s.me.late = none → State.haltReady s.me = false → exec (.halt a retain) s = .next (t.park .halt)))

/-- R72: the state in which a helper starts; SPAWN as the second of a pair passes on the format table and NFM as both of the
pair read them, which is the model's choice (log 67). -/
def Rules.HelperStart : Prop :=
  ∀ (s : State) (h : Nat) (pc arg : Word), ctxOn s.myCore h ≠ s.cur.id →
    let c := (s.startHelper h pc arg).ctx (ctxOn s.myCore h)
    c.st = .ready ∧ c.pc = pc ∧ c.x.get 1 = arg ∧ c.x.get 2 = W (idCtx s.cur.id) ∧
    (∀ r : XReg, r.val ≠ 1 → r.val ≠ 2 → c.x.get r = 0) ∧ (∀ r : PReg, c.p.get r = false) ∧ (∀ r : VReg, c.v.get r = 0) ∧
    (∀ r : PReg, c.h.get r = 0) ∧ c.l0 = {} ∧ c.l1 = {} ∧ c.ft = s.src.ft ∧ c.nfm = s.src.nfm ∧ c.child = 0 ∧
    c.asid = s.me.asid ∧ c.parent = some (idCtx s.cur.id) ∧
    (s.startHelper h pc arg).me.child.getLsbD h = (decide (h < 11))

/-! ### Faults (R9, R26, R64, R94, R427-R430) -/

/-- R94, R64, R450: TRAP, an unassigned major and a breakpoint raise their faults with the information words that their rules
give; nothing else of the slot takes effect. -/
def Rules.TrapInstructions : Prop :=
  ∀ (s : State) (imm : BitVec 58) (w : BitVec 96),
    exec (.trap imm) s = .next (s.raise { code := .trap, info := imm.setWidth 64 }) ∧
    exec (.unassignedMajor w) s = .next (s.raise { code := .illegalOpcode, info := s.encInfo 88 false }) ∧
    exec .debugBreakpoint s = .next (s.raise { code := .debugBrk, info := s.cur.pc })

/-- R9, R26, R31, R82, R427-R429, R437: a precise fault leaves the context FAULTED with its PC at the instruction and every
register as it was, and puts the message of R428 at the end of the fault queue of its chiplet (of the live one of lowest
number, where its own has no supervisor), or with those that wait for room; every other context, core, tile and byte of
memory is as it was.  A translation fault of a task whose profile asks for it, without helpers, goes to the lowest free pager
slot instead: its context is FREE, and the message names the slot.  A late fault is marked so and names its producer. -/
def Rules.TakingAFault : Prop :=
  ∀ (s : State) (f : Flt) (T : Nat),
    let tid := idTid s.cur.id
    let ci := s.faultChip (chipOf tid)
    let c := s.chip ci
    s.superTile ci = some T →
    let sent (t : State) (g : Flt) (kind : Nat) (pc w5 w7 : Word) : Prop :=
      let w2 := g.code.num + kind + s.me.asid.toNat * 2 ^ 16 + tid * 2 ^ 32 + idCore s.cur.id * 2 ^ 45 + idCtx s.cur.id * 2 ^ 48
      ∃ m : Msg, m.asid = 0 ∧ m.colour = 0 ∧ m.nfm = s.profNfm 0 ∧ m.kind = .fault ∧
        m.w = #v[c.fvec, W T, W w2, g.info, pc, w5, W c.fseq, w7] ∧
        (c.fq.length < 64 → c.fwait = [] → (t.chip ci).fq = c.fq ++ [m] ∧ (t.chip ci).fwait = []) ∧
        (64 ≤ c.fq.length ∨ c.fwait ≠ [] → (t.chip ci).fq = c.fq ∧ (t.chip ci).fwait = c.fwait ++ [(m, s.fab + 256)])
    let only (t : State) : Prop :=
      t.me.st = .faulted ∧ sameRegs s.me t.me [] ∧ t.me.l0 = s.me.l0 ∧ t.me.l1 = s.me.l1 ∧ t.me.ft = s.me.ft ∧
      (∀ id, id ≠ s.cur.id → t.ctx id = s.ctx id) ∧ (∀ x, x ≠ ci → t.chip x = s.chip x) ∧ t.mem = s.mem ∧
      t.tiles = s.tiles ∧ t.cores = s.cores ∧ t.quars = s.quars
    (f.code ≠ .xlateMiss → f.code ≠ .xlatePerm → s.pagerFor s.cur.id f = none) ∧
    (s.pagerFor s.cur.id f = none →
      let t := s.raise f
      only t ∧ t.me.pc = s.cur.pc ∧ sent t f 0 s.cur.pc 0 0) ∧
    (∀ slot, s.pagerFor s.cur.id f = some slot →
      let t := s.raise f
      t.me = {} ∧ sent t f (2 ^ 12) s.cur.pc (W (s.pagerSlot tid slot)) 0 ∧
        ∃ r, (t.tile tid).pgused = (s.tile tid).pgused ++ [(slot, some r)] ∧ r.flt = f ∧ r.late = false) ∧
    (∀ l : Late,
      let t := s.raiseLate s.cur.id l
      only t ∧ t.me.pc = s.me.pc ∧ t.me.late = none ∧ sent t l.flt (2 ^ 11) s.me.pc 0 l.pc)

/-! ### Vector instructions (R122-R148) -/

/-- Element e at width n (R122). -/
def lane (n : Nat) (v : VWord) (e : Nat) : BitVec n := v.extractLsb' (n * e) n

/-- An element read by type (R128). -/
def laneVal (ty : Ty) (v : BitVec (tyBits ty)) : Int := if tySigned ty then v.toInt else v.toNat

/-- `put` per element (R128). -/
def lanePut (ty : Ty) (sat : Bool) (r : Int) : BitVec (tyBits ty) := BitVec.ofInt _ (if sat then nearTy ty r else r)

/-- The second operand's element (R126). -/
def laneB (s : State) (n : Nat) (b : VSrc) (e : Nat) : BitVec n :=
  match b with
  | .vec r => lane n (s.vval r) e
  | .sca r => (s.xval r).setWidth n

/-- R127: v is VD after an instruction whose active elements get f: inactive ones are kept, or 0 under `.z`. -/
def maskedBy (s : State) (d : VReg) (mk : PReg) (z : Bool) (n : Nat) (f : Nat → BitVec n) (v : VWord) : Prop :=
  ∀ e, e < 1024 / n → lane n v e =
    if (s.kval mk).getLsbD e then f e else if z then 0 else lane n (s.vval d) e

/-- R131: the integer element operations compute per active element as their scalar namesakes, at the width of TY; VMUL and
VMULH take 4 cycles (R77). -/
def Rules.VectorArithmetic : Prop :=
  ∀ (s : State) (d a : VReg) (b : VSrc) (mk : PReg) (ty : Ty) (sat z : Bool), s.settled →
    let n := tyBits ty
    let A := fun e => lane n (s.vval a) e
    let B := fun e => laneB s n b e
    let now (i : Instr) (f : Nat → BitVec n) : Prop :=
      ∃ v, exec i s = .next (s.wr (.v d v)).complete ∧ maskedBy s d mk z n f v
    let later (i : Instr) (f : Nat → BitVec n) : Prop :=
      ∃ v, exec i s = .next (s.wlat 4 (.v d v)).complete ∧ maskedBy s d mk z n f v
    now (.vadd d a b mk ty sat z) (fun e => lanePut ty sat (laneVal ty (A e) + laneVal ty (B e))) ∧
    now (.vsub d a b mk ty sat z) (fun e => lanePut ty sat (laneVal ty (A e) - laneVal ty (B e))) ∧
    later (.vmul d a b mk ty sat z) (fun e => lanePut ty sat (laneVal ty (A e) * laneVal ty (B e))) ∧
    later (.vmulh d a b mk ty z) (fun e => BitVec.ofInt n (laneVal ty (A e) * laneVal ty (B e) / 2 ^ n)) ∧
    now (.vand d a b mk ty z) (fun e => A e &&& B e) ∧
    now (.vor d a b mk ty z) (fun e => A e ||| B e) ∧
    now (.vxor d a b mk ty z) (fun e => A e ^^^ B e) ∧
    now (.vshl d a b mk ty sat z) (fun e => lanePut ty sat (laneVal ty (A e) * 2 ^ (B e).toNat)) ∧
    now (.vshr d a b mk ty z) (fun e => A e >>> (B e).toNat) ∧
    now (.vsha d a b mk ty z) (fun e => (A e).sshiftRight (B e).toNat) ∧
    now (.vmin d a b mk ty z) (fun e => if laneVal ty (A e) ≤ laneVal ty (B e) then A e else B e) ∧
    now (.vmax d a b mk ty z) (fun e => if laneVal ty (A e) ≤ laneVal ty (B e) then B e else A e)

/-- R132-R136: VABS, VCMP (with its predicate, R123), VSEL (every element), VDOT (exact before its one wrap or clamp) and
VIOTA. -/
def Rules.VectorSelect : Prop :=
  ∀ (s : State) (d a b : VReg) (c : VSrc) (g : VReg) (kd mk : PReg) (x : XReg) (ty : Ty) (op : CmpOp) (cb : Comb)
    (sg wide sat z : Bool), s.settled →
    let n := tyBits ty
    let A := fun e => lane n (s.vval a) e
    let on := fun e => (s.kval mk).getLsbD e
    (∃ v, exec (.vabs d a mk ty sat z) s = .next (s.wr (.v d v)).complete ∧
      maskedBy s d mk z n (fun e => lanePut ty sat ((laneVal ty (A e)).natAbs : Int)) v) ∧
    (∃ m, exec (.vcmp kd a c mk ty op cb) s = .next ((s.wr (.k kd m)).wr (.p kd (m != 0))).complete ∧
      ∀ e, e < 128 → m.getLsbD e = (decide (e < 1024 / n) && on e &&
        (let r := cmpSpec ty op (laneVal ty (A e)) (laneVal ty (laneB s n c e))
         match cb with
         | .none => r
         | .and => (s.kval kd).getLsbD e && r
         | .or => (s.kval kd).getLsbD e || r))) ∧
    (∃ v, exec (.vsel d a b mk ty) s = .next (s.wr (.v d v)).complete ∧
      ∀ e, e < 1024 / n → lane n v e = if on e then A e else lane n (s.vval b) e) ∧
    (∃ v, exec (.viota d x mk ty z) s = .next (s.wr (.v d v)).complete ∧
      maskedBy s d mk z n (fun e => (s.xval x + W e).setWidth n) v) ∧
    (let tn : Ty := if sg then (if wide then .i16 else .i8) else (if wide then .n16 else .n8)
     let t32 : Ty := if sg then .i32 else .n32
     ∃ v, exec (.vdot d a b g mk sg wide sat z) s = .next (s.wlat 4 (.v d v)).complete ∧
      ∀ j, j < 32 → lane 32 v j =
        if on j then
          (lanePut t32 sat (laneVal t32 (lane (tyBits t32) (s.vval g) j) +
            ((List.range (32 / tyBits tn)).map fun i =>
              laneVal tn (lane (tyBits tn) (s.vval a) (32 / tyBits tn * j + i)) *
              laneVal tn (lane (tyBits tn) (s.vval b) (32 / tyBits tn * j + i))).sum)).setWidth 32
        else if z then 0 else lane 32 (s.vval d) j)

/-- R127-R129, R137, R148: with a legal floating entry and a legal mode, each active element is the exact value rounded once
by the entry; under RM 5, SRCTR advances by the number of elements.  VFMA rounds once; VFDIV, VFSQRT, VFEXP2, VFRCP and
VFRSQ take 12 cycles, the others 4 (R77). -/
def Rules.VectorFloat : Prop :=
  ∀ (s : State) (d a q c : VReg) (b : VSrc) (mk : PReg) (ft : FReg) (rm : Rm) (z : Bool) (r : Nat) (f : Fmt), s.settled →
    s.rmOf rm 48 = .ok r → s.floatEntry ft.val = .ok f → f.cbits ∈ [8, 16, 32, 64] →
    let n := f.cbits
    let A := fun e => f.decode (lane n (s.vval a) e).toNat
    let B := fun e => f.decode (laneB s n b e).toNat
    let Q := fun e => f.decode (lane n (s.vval q) e).toNat
    let C := fun e => f.decode (lane n (s.vval c) e).toNat
    let form (l : Nat) (i : Instr) (x : Nat → Machine.Num) : Prop :=
      ∃ v, exec i s = .next ((s.wlat l (.v d v)).advanceRm r (1024 / n)).complete ∧
        maskedBy s d mk z n (fun e => BitVec.ofNat n (f.round r (s.draw r e) (x e))) v
    form 4 (.vfadd d a b mk ft rm z) (fun e => (A e).add (r == 2) (B e)) ∧
    form 4 (.vfsub d a b mk ft rm z) (fun e => (A e).add (r == 2) (B e).flip) ∧
    form 4 (.vfmul d a b mk ft rm z) (fun e => (A e).mul (B e)) ∧
    form 4 (.vfma d a q c mk ft rm z) (fun e => ((A e).mul (Q e)).add (r == 2) (C e)) ∧
    form 12 (.vfdiv d a b mk ft rm z) (fun e => (A e).div (B e)) ∧
    form 12 (.vfsqrt d a mk ft rm z) (fun e => (A e).sqrt) ∧
    form 12 (.vfexp2 d a mk ft rm z) (fun e => (A e).exp2) ∧
    form 12 (.vfrcp d a mk ft rm z) (fun e => (A e).rcp) ∧
    form 12 (.vfrsq d a mk ft rm z) (fun e => (A e).rsqrt) ∧
    form 4 (.vfscl d a b mk ft rm z) (fun e => match A e with
      | .fin v => if v.m = 0 then .fin v else
          .fin { v with e := v.e + clampI (-65536) 65536 (laneB s n b e).toInt }
      | x => x)

/-- R138-R141: VFMIN, VFMAX, VFCMP, VFCLS through a legal floating entry, and the fixed tree of VFRED and VREDI: element 0
is its root, or the empty value, and the other elements are 0.
That VFRED .min and .max advance SRCTR under RM 5 too, as R148 words it, is the model's reading (log 18). -/
def Rules.VectorOrder : Prop :=
  ∀ (s : State) (d a : VReg) (b : VSrc) (kd mk : PReg) (ft : FReg) (rm : Rm) (z sat : Bool) (r : Nat) (f : Fmt)
    (op : FCmpOp) (cb : Comb) (ty : Ty), s.settled →
    s.rmOf rm 48 = .ok r → s.floatEntry ft.val = .ok f → f.cbits ∈ [8, 16, 32, 64] →
    let n := f.cbits
    let A := fun e => f.decode (lane n (s.vval a) e).toNat
    let B := fun e => f.decode (laneB s n b e).toNat
    let form (i : Instr) (x : Nat → Nat) : Prop :=
      ∃ v, exec i s = .next (s.wlat 4 (.v d v)).complete ∧ maskedBy s d mk z n (fun e => BitVec.ofNat n (x e)) v
    let picked (n w : Nat) : List (Option Nat) := (List.range (1024 / n)).map fun e =>
      if (s.kval mk).getLsbD e then some ((lane n (s.vval a) e).toNat % 2 ^ w) else none
    let root (n v : Nat) : VWord := BitVec.ofNat 1024 (v % 2 ^ n)
    form (.vfmin d a b mk ft z) (fun e => f.round 1 0 (Num.minMax false (A e) (B e))) ∧
    form (.vfmax d a b mk ft z) (fun e => f.round 1 0 (Num.minMax true (A e) (B e))) ∧
    form (.vfcls d a mk ft z) (fun e => classOf f (A e)) ∧
    (∃ m, exec (.vfcmp kd a b mk ft op cb) s =
        .next ((s.wlat 4 (.k kd m)).wlat 4 (.p kd (m != 0))).complete ∧
      ∀ e, e < 128 → m.getLsbD e = (decide (e < 1024 / n) && (s.kval mk).getLsbD e &&
        (match cb with
         | .none => fcmpHolds op (A e) (B e)
         | .and => (s.kval kd).getLsbD e && fcmpHolds op (A e) (B e)
         | .or => (s.kval kd).getLsbD e || fcmpHolds op (A e) (B e)))) ∧
    exec (.vfred d a mk ft rm .add) s = .next ((s.wlat 12 (.v d (root n
      ((redTree (fun x y k => f.round r (s.draw r k) ((f.decode x).add (r == 2) (f.decode y))) 8 (picked n f.width) 0).getD 0)))).advanceRm
        r (1024 / n)).complete ∧
    exec (.vfred d a mk ft rm .min) s = .next ((s.wlat 12 (.v d (root n
      ((redTree (fun x y _ => f.round 1 0 (Num.minMax false (f.decode x) (f.decode y))) 8 (picked n f.width) 0).getD
        f.nanCode)))).advanceRm r (1024 / n)).complete ∧
    exec (.vfred d a mk ft rm .max) s = .next ((s.wlat 12 (.v d (root n
      ((redTree (fun x y _ => f.round 1 0 (Num.minMax true (f.decode x) (f.decode y))) 8 (picked n f.width) 0).getD
        f.nanCode)))).advanceRm r (1024 / n)).complete ∧
    (let tree (g : BitVec (tyBits ty) → BitVec (tyBits ty) → BitVec (tyBits ty)) (e : BitVec (tyBits ty)) : VWord :=
       root (tyBits ty) ((redTree (fun x y _ => (g (BitVec.ofNat _ x) (BitVec.ofNat _ y)).toNat) 8 (picked (tyBits ty) (tyBits ty)) 0).getD
         e.toNat)
     exec (.vredi d a mk ty sat .add) s = .next (s.wlat 12 (.v d
       (tree (fun x y => lanePut ty sat (laneVal ty x + laneVal ty y)) 0))).complete ∧
     exec (.vredi d a mk ty sat .min) s = .next (s.wlat 12 (.v d
       (tree (fun x y => if laneVal ty x ≤ laneVal ty y then x else y) (BitVec.ofInt _ (hiTy ty))))).complete ∧
     exec (.vredi d a mk ty sat .max) s = .next (s.wlat 12 (.v d
       (tree (fun x y => if laneVal ty x ≤ laneVal ty y then y else x) (BitVec.ofInt _ (loTy ty))))).complete ∧
     exec (.vredi d a mk ty sat .xor) s = .next (s.wlat 12 (.v d (tree (fun x y => x ^^^ y) 0))).complete)

/-- R144-R146: VPERM, VBCAST, VEXTR, VCOMP, VEXPD and VRNG by element. -/
def Rules.VectorMoves : Prop :=
  ∀ (s : State) (d a b c : VReg) (x : XReg) (mk k : PReg) (ty : Ty) (w : Fin 4) (z : Bool), s.settled →
    let n := tyBits ty
    let E := 1024 / n
    let A := fun e => lane n (s.vval a) e
    let on := fun e => (s.kval mk).getLsbD e
    let form (i : Instr) (f : Nat → BitVec n) : Prop :=
      ∃ v, exec i s = .next (s.wr (.v d v)).complete ∧ maskedBy s d mk z n f v
    form (.vperm d a b c mk ty false z) (fun e => A ((lane n (s.vval b) e).toNat % E)) ∧
    form (.vperm d a b c mk ty true z) (fun e =>
      let j := (lane n (s.vval b) e).toNat % (2 * E)
      if j < E then A j else lane n (s.vval c) (j - E)) ∧
    form (.vbcast (.x d x mk ty z)) (fun _ => (s.xval x).setWidth n) ∧
    form (.vbcast (.e d a x mk ty z)) (fun _ => A ((s.xval x).toNat % E)) ∧
    form (.vexpd d a mk ty z) (fun e => A (((List.range e).filter on).length)) ∧
    (∃ m : KWord, exec (.vbcast (.klo k x)) s = .next ((s.wr (.k k m)).wr (.p k (m != 0))).complete ∧
      m.extractLsb' 0 64 = s.xval x ∧ m.extractLsb' 64 64 = (s.kval k).extractLsb' 64 64) ∧
    (∃ m : KWord, exec (.vbcast (.khi k x)) s = .next ((s.wr (.k k m)).wr (.p k (m != 0))).complete ∧
      m.extractLsb' 64 64 = s.xval x ∧ m.extractLsb' 0 64 = (s.kval k).extractLsb' 0 64) ∧
    exec (.vextr (.e x a ty)) s = .next (s.wx x (extTy ty (A ((s.xval x).toNat % E)))).complete ∧
    exec (.vextr (.klo x mk)) s = .next (s.wx x ((s.kval mk).extractLsb' 0 64)).complete ∧
    exec (.vextr (.khi x mk)) s = .next (s.wx x ((s.kval mk).extractLsb' 64 64)).complete ∧
    exec (.vextr (.cnt x mk ty)) s = .next (s.wx x (W ((List.range E).filter on).length)).complete ∧
    (let l := ((List.range E).filter on).map A
     ∃ v, exec (.vcomp d a x mk ty) s = .next ((s.wr (.v d v)).wx x (W l.length)).complete ∧
      ∀ e, e < E → lane n v e = l.getD e 0) ∧
    (∃ v, exec (.vrng d (.regs a x) mk w z) s = .next (s.wlat 4 (.v d v)).complete ∧
      maskedBy s d mk z 32 (fun j => BitVec.ofNat 32
        (icg (s.xval x).toNat (((s.vval a).setWidth 128 + BitVec.ofNat 128 j).toNat) w.val)) v) ∧
    (∃ v, exec (.vrng d .ctx mk w z) s =
        .next ((s.wlat 4 (.v d v)).modMe fun k => { k with srctr := k.srctr + 32 }).complete ∧
      maskedBy s d mk z 32 (fun j => BitVec.ofNat 32
        (icg s.me.srkey.toNat ((s.me.srctr + BitVec.ofNat 128 j).toNat) w.val)) v)

/-! ### Memory (R178-R193, R211-R215) -/

/-- R191, R178, R203, R206: LD and LDP of memory write the bytes that the core sees at the address, after the acquire that
their order asks for; an acquiring load of bytes that are not yet written back takes them along (`orderLoad`).  Where the
caches need not lose a line, no byte that any core sees, no home and no register but the results on their way changes.  One
that follows an access of the context that has not performed completes with its own access and its results on their way. -/
def Rules.MemoryLoads : Prop :=
  ∀ (s s1 : State) (d : XReg) (m : MemOp) (sz : Fin 4) (o : AccOpts) (pa : Nat), s.settled → s.issueGate o.ord = .ok () →
    let r := s1.orderFirst o.ord o.sc
    let s2 := r.freshen s.myCore (pa / 64)
    let form (i : Instr) (n : Nat) (result : State → Nat → State) (awaited : State → State) : Prop :=
      let e := r.memAcc pa n (s.addrOf m) none 0 o.ord o.sc
      s.resolve s.agent .load (s.addrOf m) n = .ok (.mem pa, s1) → pa % n = 0 →
      (r.me.accs.any e.follows = false →
        ∃ (t : State) (v : Nat), exec i s = .next (result (t.orderLoad o.ord o.sc s1.seq) v).complete ∧ v < 2 ^ (8 * n) ∧
          (s2.room s.myCore 1 →
            (∀ k, k < n → BitVec.ofNat 8 (v / 2 ^ (8 * k)) = s2.seenByte s.myCore (pa + k)) ∧
            (∀ core a, t.seenByte core a = s2.seenByte core a) ∧ s2.cachesOnly t ∧
            ((∀ m ∈ s2.mons, m.part = []) → t.mons = s2.mons))) ∧
      (r.me.accs.any e.follows = true →
        exec i s = .next (awaited (((r.issueAcc e).loaded).orderLoad o.ord o.sc s1.seq)).complete)
    form (.ld d m sz o) (2 ^ sz.val) (fun t v => t.wlong (.x d (W v))) (fun t => t.wgrp (.x d 0) 0) ∧
    form (.ldp d m o) 16 (fun t v => (t.wlong (.x d (W v))).wlong (.x (xnext d) (W (v / 2 ^ 64))))
      (fun t => (t.wgrp (.x d 0) 0).wgrp (.x (xnext d) 0) 64)

/-- R191, R178, R203: ST and STP to memory make the core see the stored bytes at the address, the n bytes from pa on, and
leave every other byte that any core sees, every home and every register as they were, where the caches need not lose a line;
the release that their order asks for follows.  One that follows an access of the context that has not performed completes
with its own access on its way. -/
def Rules.MemoryStores : Prop :=
  ∀ (s s1 : State) (d : XReg) (m : MemOp) (sz : Fin 4) (o : AccOpts) (pa : Nat), s.settled → s.issueGate o.ord = .ok () →
    let s2 := s1.orderFirst o.ord o.sc
    let form (i : Instr) (n v : Nat) : Prop :=
      let e := s2.memAcc pa n (s.addrOf m) (some v) 0 o.ord o.sc
      s.resolve s.agent .store (s.addrOf m) n = .ok (.mem pa, s1) → pa % n = 0 →
      (s2.me.accs.any e.follows = false →
        ∃ t : State, exec i s = .next (t.orderLast o.ord o.sc).complete ∧
          (s2.room s.myCore 1 →
            (∀ a, t.seenByte s.myCore a =
              if pa ≤ a ∧ a < pa + n then BitVec.ofNat 8 (v / 2 ^ (8 * (a - pa))) else s2.seenByte s.myCore a) ∧
            (∀ core a, core ≠ s.myCore → t.seenByte core a = s2.seenByte core a) ∧ s2.cachesOnly t ∧
            t.mons = ((s2.combineIn (.l1 s.myCore) (pa / 64)).noteWrite (.l1 s.myCore) (pa / 64)).mons)) ∧
      (s2.me.accs.any e.follows = true → exec i s = .next ((s2.issueAcc e).orderLast o.ord o.sc).complete)
    form (.st d m sz o) (2 ^ sz.val) ((s.xval d).toNat % 2 ^ (8 * 2 ^ sz.val)) ∧
    form (.stp d m o) 16 ((s.xval d).toNat + (s.xval (xnext d)).toNat * 2 ^ 64)

/-- R62, R184, R191, R203, R425, R456, R457: LD and ST on path 3 wait for the context's accesses that have not performed, are
refused with PRIVILEGE or SYSREG at the address, and else read and write the system register of the selector; LD and ST of a
peer's address wait for what they follow, and read and write through its port, and a port whose link is down gives a late BAD_PATH (what a peer answers is a
free value, log 21). -/
def Rules.OtherAccesses : Prop :=
  ∀ (s s1 : State) (d : XReg) (m : MemOp) (sz : Fin 4) (o : AccOpts), s.settled → s.issueGate o.ord = .ok () →
    let ea := s.addrOf m
    let sel := Bits ea 3 16
    let n := 2 ^ sz.val
    let lost : Flt := { code := .badPath, info := ea }
    let both (t : State) : Prop := exec (.ld d m 3 o) s = .next t ∧ exec (.st d m 3 o) s = .next t
    (Bits ea 60 4 = 3 → Bits ea 19 41 = 0 → Bits ea 0 3 = 0 →
      (s.me.accs ≠ [] → both (s.park (.accs s.me.accs.length))) ∧
      (s.me.accs = [] → 2 ^ 15 ≤ sel → s.priv = false → both (s.raise { code := .privilege, info := ea })) ∧
      (s.me.accs = [] → sel < 2 ^ 15 ∨ s.priv = true →
        let s2 := s.orderFirst o.ord o.sc
        (s.sysRead s.cur.id sel = none → exec (.ld d m 3 o) s = .next (s.raise { code := .sysreg, info := ea })) ∧
        (∀ w, s.sysRead s.cur.id sel = some w → exec (.ld d m 3 o) s = .next (s2.wlong (.x d w)).complete) ∧
        (s2.sysWrite s.cur.id sel (s.xval d) = none → exec (.st d m 3 o) s = .next (s.raise { code := .sysreg, info := ea })) ∧
        (∀ t, s2.sysWrite s.cur.id sel (s.xval d) = some t → exec (.st d m 3 o) s = .next t.complete))) ∧
    (∀ p off, s.resolve s.agent .load ea n = .ok (.peer p off, s1) →
      let s2 := s1.orderFirst o.ord o.sc
      let behind : Prop := ∃ e ∈ s2.me.accs, e.before (releases o.ord) s2.cur.odep = true
      (behind → exec (.ld d m sz o) s = .next (s2.park (.accs s2.me.accs.length))) ∧
      (¬behind → s2.peerUp p = true → exec (.ld d m sz o) s =
        .next ((s2.loaded.orderLoad o.ord o.sc s1.seq).wlong (.x d (W (State.peerBytes p (off + s2.seq * 2 ^ 60) n)))).complete) ∧
      (¬behind → s2.peerUp p = false → exec (.ld d m sz o) s =
        .next ((s2.orderLoad o.ord o.sc s1.seq).wlong (.x d 0) (some lost)).complete)) ∧
    (∀ p off, s.resolve s.agent .store ea n = .ok (.peer p off, s1) →
      let s2 := s1.orderFirst o.ord o.sc
      let behind : Prop := ∃ e ∈ s2.me.accs, e.before (releases o.ord) s2.cur.odep = true
      (behind → exec (.st d m sz o) s = .next (s2.park (.accs s2.me.accs.length))) ∧
      (¬behind → s2.peerUp p = true → exec (.st d m sz o) s =
        .next (((s2.peerStore p off n ((s.xval d).toNat % 2 ^ (8 * n))).owe none).orderLast o.ord o.sc).complete) ∧
      (¬behind → s2.peerUp p = false → exec (.st d m sz o) s = .next ((s2.owe (some lost)).orderLast o.ord o.sc).complete))

/-- R184, R191: LD, LDP, ST and STP of a bank read and write its bytes at the offset; a store changes no other byte of any
bank and nothing else; a load changes nothing but that a bank without power is on.  An access that must perform later than it
issues completes with its access and its result on their way (R185, R203, R335). -/
def Rules.BankAccesses : Prop :=
  ∀ (s s1 : State) (d : XReg) (m : MemOp) (sz : Fin 4) (o : AccOpts) (tid off : Nat), s.settled →
    s.issueGate o.ord = .ok () → (s.tile tid).eng.wins = [] →
    let s2 := s.orderFirst o.ord o.sc
    let ea := s.addrOf m
    let load (i : Instr) (n : Nat) (result : State → Nat → State) (awaited : State → State) : Prop :=
      let e := s2.bankAcc tid off n ea none 0 o.ord o.sc
      s.resolve s.agent .load ea n = .ok (.bank tid off, s1) →
      (s.unguarded tid → s.prompt →
        ∃ v : Nat, exec i s =
            .next (result ((((s2.packetTo tid).bankOn tid off).loaded).orderLoad o.ord o.sc s.seq) v).complete ∧
          v < 2 ^ (8 * n) ∧ ∀ k, k < n → BitVec.ofNat 8 (v / 2 ^ (8 * k)) = s2.bankByte tid (off + k)) ∧
      (s2.delayed e = true → exec i s = .next (awaited (((s2.issueAcc e).loaded).orderLoad o.ord o.sc s.seq)).complete)
    let store (i : Instr) (n v : Nat) : Prop :=
      let e := s2.bankAcc tid off n ea (some v) 0 o.ord o.sc
      s.resolve s.agent .store ea n = .ok (.bank tid off, s1) →
      (s.unguarded tid → s.prompt →
        ∃ t : State, exec i s = .next (t.orderLast o.ord o.sc).complete ∧
          (∀ a, t.bankByte tid a =
            if off ≤ a ∧ a < off + n then BitVec.ofNat 8 (v / 2 ^ (8 * (a - off))) else s2.bankByte tid a) ∧
          (∀ x, x ≠ tid → t.tile x = s2.tile x) ∧
          t = { s2 with tiles := t.tiles, mons := t.mons, packets := t.packets }) ∧
      (s2.delayed e = true → exec i s = .next ((s2.issueAcc e).orderLast o.ord o.sc).complete)
    load (.ld d m sz o) (2 ^ sz.val) (fun t v => t.wlong (.x d (W v))) (fun t => t.wgrp (.x d 0) 0) ∧
    load (.ldp d m o) 16 (fun t v => (t.wlong (.x d (W v))).wlong (.x (xnext d) (W (v / 2 ^ 64))))
      (fun t => (t.wgrp (.x d 0) 0).wgrp (.x (xnext d) 0) 64) ∧
    store (.st d m sz o) (2 ^ sz.val) ((s.xval d).toNat % 2 ^ (8 * 2 ^ sz.val)) ∧
    store (.stp d m o) 16 ((s.xval d).toNat + (s.xval (xnext d)).toNat * 2 ^ 64)

/-- R143, R182, R184, R185, R203, R207, R335: an access that a context issued earlier performs as one step, together with
the stores of its instruction to the same aligned 4-byte word of a bank, unless a guard or an earlier access that it follows
holds one of them.  Stores to a bank write their bytes, the later element over the earlier, and no others; a store to memory
makes the core see its bytes; they are then no longer on their way.  A bank that has changed its mode or its ASID since makes
a late fault instead. -/
def Rules.BankAccessPerforms : Prop :=
  ∀ (s : State) (id n : Nat) (e : BankAcc), (s.ctx id).accs[n]? = some e → (s.tile e.tid).eng.wins = [] →
    let l := (s.ctx id).accs
    let g := State.accGroup l n
    let t := s.serveAcc id n
    let ready : Prop := ∀ m ∈ g, ∀ o, l[m]? = some o →
      (∀ k, k < m → k ∉ g → ∀ p, l[k]? = some p → o.follows p = false) ∧ (o.mem = none → s.underGuard o.tid o.off o.n = false)
    let has (m a : Nat) : Prop := ∃ o, l[m]? = some o ∧ o.off ≤ a ∧ a < o.off + o.n
    let okay : Prop := ∀ m ∈ g, ∀ o, l[m]? = some o → s.bankCheck (s.ctx id).asid o.tid o.off o.n o.ea = .ok ()
    (¬ready → t = s) ∧
    (ready →
      (e.store ≠ none → (t.ctx id).accs = ((List.range l.length).filter fun m => !g.contains m).filterMap fun m => l[m]?) ∧
      (e.store ≠ none → e.mem = none → okay → ∀ a,
        (∀ m ∈ g, ∀ o w, l[m]? = some o → o.store = some w → has m a → (∀ k ∈ g, m < k → ¬has k a) →
          t.bankByte e.tid a = BitVec.ofNat 8 (w / 2 ^ (8 * (a - o.off)))) ∧
        ((∀ m ∈ g, ¬has m a) → t.bankByte e.tid a = s.bankByte e.tid a)) ∧
      (∀ pa v, e.store = some v → e.mem = some pa → pa % 64 + e.n ≤ 64 → e.rel = false → e.acq = false → (s.ctx id).seen = [] →
        s.room (coreOf id) 1 → ∀ a, t.seenByte (coreOf id) a =
          if pa ≤ a ∧ a < pa + e.n then BitVec.ofNat 8 (v / 2 ^ (8 * (a - pa))) else s.seenByte (coreOf id) a) ∧
      (∀ f, g = [n] → e.mem = none → s.bankCheck (s.ctx id).asid e.tid e.off e.n e.ea = .error (.flt f) →
        (∀ a, t.bankByte e.tid a = s.bankByte e.tid a) ∧
        ((∀ p ∈ (s.ctx id).pend, p.grp ≠ e.grp) → (s.ctx id).late = none →
          (t.ctx id).late = some { flt := f, pc := e.pc })))

/-- R184, R177, R414, R419: the checks of an effective address in their order, each with the address as its information word,
and where an access lands that passes them: on path 2 the tile's right comes before the bank's checks; on paths 0 and 4 a
fault of the translation is raised, among them XLATE_MISS where no TLB has the page and the root table has no entry. -/
def Rules.AddressChecks : Prop :=
  ∀ (s : State) (a : Agent) (k : AccKind) (ea : Word) (n : Nat),
    let path := Bits ea 60 4
    let off := Bits ea 0 22
    let tile := tidOf (Bits ea 22 7) (Bits ea 29 6)
    let va := Bits ea 0 57
    let bad (c : Code) : Prop := s.resolve a k ea n = .error (.flt { code := c, info := ea })
    let right (bit : Nat) : Prop := tile = a.tid ∨ ∃ i, i < 8 ∧
      let w := s.profField a.asid (512 + 64 * i) 64
      w.testBit bit = true ∧ w % 2 ^ 7 ≤ tileX tile ∧ tileX tile ≤ w / 2 ^ 13 % 2 ^ 7 ∧ w / 2 ^ 7 % 2 ^ 6 ≤ tileY tile ∧
        tileY tile ≤ w / 2 ^ 20 % 2 ^ 6
    let denied : Prop := (k ≠ .store ∧ ¬right 26) ∨ ((k = .store ∨ k = .rdwr) ∧ ¬right 27)
    let bank (tid : Nat) : Prop :=
      let b := (s.tile tid).bank (off / 2 ^ 17)
      let inside := b.mode = .scratch ∨ b.mode = .ring ∧ off % 2 ^ 17 + n ≤ b.ring.count * (64 * 2 ^ b.ring.slotsz)
      (¬inside → bad .bankMode) ∧ (inside → b.asid ≠ a.asid → bad .bankAsid) ∧
      (inside → b.asid = a.asid → s.resolve a k ea n = .ok (.bank tid off, s))
    (ea.toNat % n ≠ 0 → bad .misaligned) ∧
    (ea.toNat % n = 0 → 5 ≤ path → bad .badPath) ∧
    (ea.toNat % n = 0 → path = 0 ∨ path = 4 → Bits ea 57 3 ≠ 0 → bad .badPath) ∧
    (ea.toNat % n = 0 → path = 1 → Bits ea 22 38 ≠ 0 → bad .badPath) ∧
    (ea.toNat % n = 0 → path = 1 → Bits ea 22 38 = 0 → bank a.tid) ∧
    (ea.toNat % n = 0 → path = 2 → Bits ea 35 25 ≠ 0 ∨ 111 < Bits ea 22 7 → bad .badPath) ∧
    (ea.toNat % n = 0 → path = 2 → Bits ea 35 25 = 0 → Bits ea 22 7 ≤ 111 →
      (s.live tile = false → bad .tileDark) ∧ (s.live tile = true → denied → bad .tilePerm) ∧
      (s.live tile = true → ¬denied → bank tile)) ∧
    (ea.toNat % n = 0 → path = 0 ∨ path = 4 → Bits ea 57 3 = 0 →
      (∀ f, s.xlate a ea k = .error (.flt f) → s.resolve a k ea n = .error (.flt f)) ∧
      (∀ pa t, s.xlate a ea k = .ok (pa, t) → t.peerOf pa = none → s.resolve a k ea n = .ok (.mem pa, t)) ∧
      (∀ pa t p o, s.xlate a ea k = .ok (pa, t) → t.peerOf pa = some (p, o) → s.resolve a k ea n = .ok (.peer p o, t)) ∧
      ((∀ c, a.core = some c → State.tlbFind (s.core c).tlb a.asid va = none) → State.tlbFind (s.tile a.tid).tlb a.asid va = none →
        Bit (W (s.rawLoad (s.root a.asid + 8 * (va / 2 ^ 48 % 2 ^ 9)) 8)) 0 = false →
        s.resolve a k ea n = .error (.flt { code := .xlateMiss, info := W (va + accCode k * 2 ^ 60) }))) ∧
    (ea.toNat % n = 0 → path = 3 → Bits ea 19 41 ≠ 0 ∨ Bits ea 0 3 ≠ 0 ∨ n ≠ 8 → bad .badPath) ∧
    (ea.toNat % n = 0 → path = 3 → Bits ea 19 41 = 0 → Bits ea 0 3 = 0 → n = 8 →
      s.resolve a k ea n = .ok (.sys (Bits ea 3 16), s))

/-- R9, R184, R191: an access whose address fails a check raises that fault, and no register, byte or cache changes but by
the fault's own effects. -/
def Rules.AccessFaults : Prop :=
  ∀ (s : State) (d : XReg) (m : MemOp) (sz : Fin 4) (o : AccOpts) (f : Flt), s.settled → s.issueGate o.ord = .ok () →
    let n := 2 ^ sz.val
    (s.resolve s.agent .load (s.addrOf m) n = .error (.flt f) → exec (.ld d m sz o) s = .next (s.raise f)) ∧
    (s.resolve s.agent .load (s.addrOf m) 16 = .error (.flt f) → exec (.ldp d m o) s = .next (s.raise f)) ∧
    (s.resolve s.agent .store (s.addrOf m) n = .error (.flt f) → exec (.st d m sz o) s = .next (s.raise f)) ∧
    (s.resolve s.agent .store (s.addrOf m) 16 = .error (.flt f) → exec (.stp d m o) s = .next (s.raise f))

/-- R192, R193: PREF completes whatever its address, and where the caches need not lose a line no byte that a core sees, no
home and no register changes; CWB makes the line's dirty bytes reach the coherence point of its scope and leaves the core's
copies clean; CINV drops them too; with SC co, and on paths 1 and 2, both do nothing.  All three complete. -/
def Rules.LineOperations : Prop :=
  ∀ (s s1 : State) (m : MemOp) (ch : Fin 2) (sc : Scope) (pa : Nat) (l : Loc) (e : Stop) (f : Flt), s.settled →
    let pl := pa / 64
    let own (t : State) : CLine := getD {} (t.core s.myCore).l1d pl
    let far (t : State) : CLine := getD {} (t.tile s.myTid).l2 pl
    (s.resolve s.agent .load (s.addrOf m) 1 = .error e → exec (.pref m ch) s = .next s.complete) ∧
    (s.resolve s.agent .load (s.addrOf m) 1 = .ok (l, s1) → (∀ a, l ≠ .mem a) → exec (.pref m ch) s = .next s.complete) ∧
    (s.resolve s.agent .load (s.addrOf m) 1 = .ok (.mem pa, s1) →
      ∃ t : State, exec (.pref m ch) s = .next t.complete ∧ (ch.val = 0 → (own t).valid = BitVec.allOnes 64) ∧
        (s1.room s.myCore 1 → (∀ core a, t.seenByte core a = s1.seenByte core a) ∧ s1.cachesOnly t)) ∧
    (s.resolve s.agent .line (s.addrOf m) 1 = .error (.flt f) →
      exec (.cwb m sc) s = .next (s.raise f) ∧ exec (.cinv m sc) s = .next (s.raise f)) ∧
    (s.resolve s.agent .line (s.addrOf m) 1 = .ok (l, s1) → (∀ a, l ≠ .mem a) →
      exec (.cwb m sc) s = .next s1.complete ∧ exec (.cinv m sc) s = .next s1.complete) ∧
    (s.resolve s.agent .line (s.addrOf m) 1 = .ok (.mem pa, s1) →
      (exec (.cwb m .co) s = .next s1.complete ∧ exec (.cinv m .co) s = .next s1.complete) ∧
      ∃ t u : State, exec (.cwb m sc) s = .next t.complete ∧ exec (.cinv m sc) s = .next u.complete ∧ u.mem = t.mem ∧
        (sc ≠ .co →
          (own t).dirty = 0 ∧ (State.pastL2 sc pl = true → (far t).dirty = 0) ∧
          find pl (u.core s.myCore).l1d = none ∧ find pl (u.core s.myCore).l1i = none ∧
          (State.pastL2 sc pl = true → find pl (u.tile s.myTid).l2 = none) ∧
          (s1.fwinAt (64 * pl) = none →
            (s1.room s.myCore 1 → ∀ a, t.seenByte s.myCore a = s1.seenByte s.myCore a) ∧
            (∀ k : Nat, k < 64 → (own s1).owed.getLsbD k = true →
              (t.l2View s.myTid pl).extractLsb' (8 * k) 8 = (own s1).data.extractLsb' (8 * k) 8) ∧
            (State.pastL2 sc pl = true →
              (∀ k : Nat, k < 64 → (own s1).owed.getLsbD k = true →
                t.homeByte (64 * pl + k) = (own s1).data.extractLsb' (8 * k) 8) ∧
              (∀ k : Nat, k < 64 → (own s1).owed.getLsbD k = false → (far s1).owed.getLsbD k = true →
                t.homeByte (64 * pl + k) = (far s1).data.extractLsb' (8 * k) 8)))))

/-- R212, R214, R215, R180, R206: FENCE waits while an access of a kind in PRED, or with `.lb` one through path 2 to the own
tile, has not performed at its bank, and with w in PRED while the status of an earlier atomic is owed; otherwise it
completes.  With r in PRED it takes along the bytes that earlier loads returned before they were written back; with w it
sends the core's dirty bytes past its L1D (and past its tile's L2, for lines whose coherence point lies beyond it); with r
among its successors it then drops every clean byte below the coherence point.
Which bytes a FENCE with r takes along is the model's reading (log 6). -/
def Rules.Fences : Prop :=
  ∀ (s : State) (pr pw sr sw lb : Bool) (sc : Scope), (pw = true → s.statusGate = .ok ()) →
    let l1 (t : State) (pl : Nat) : CLine := getD {} (t.core s.myCore).l1d pl
    let l2 (t : State) (pl : Nat) : CLine := getD {} (t.tile s.myTid).l2 pl
    let r := if pr then s.reveal (fun _ => true) sc else s
    let held : Prop := ∃ e ∈ s.me.accs, (e.store = none ∧ pr = true) ∨ (e.store ≠ none ∧ pw = true) ∨
      (lb = true ∧ e.mesh = true ∧ e.tid = s.myTid)
    (held → exec (.fence pr pw sr sw lb sc) s = .next (s.park (.fence pr pw lb))) ∧
    (¬held → ∃ t u : State, exec (.fence pr pw sr sw lb sc) s = .next u.complete ∧ t.ctxs = s.ctxs ∧ u.ctxs = s.ctxs ∧
      (pw = false ∨ sc = .co → t = r) ∧ (sr = false ∨ sc = .co → u = t) ∧ u.mem = t.mem ∧
      (sc ≠ .co → pw = true → ∀ pl, (l1 t pl).dirty = 0 ∧ (State.pastL2 sc pl = true → (l2 t pl).dirty = 0)) ∧
      (sc ≠ .co → sr = true → ∀ pl, (l1 u pl).valid &&& ~~~(l1 u pl).dirty = 0 ∧
        (State.pastL2 sc pl = true → (l2 u pl).valid &&& ~~~(l2 u pl).dirty = 0)))

/-- R175, R181, R182, R194, R340: BANKCFG of another core's bank raises BANK_OWNER, one of a bank with a window that is not
FREE raises WIN_BUSY, and one that would change a ring that is not empty raises RING_BUSY; otherwise it completes, and its
change and its result are on their way (R182 leaves Before and After open until then; that the two come together is the
model's choice, log 39). -/
def Rules.BankModes : Prop :=
  ∀ (s : State) (d : XReg) (b : Fin 32) (mode : BankMode) (pool : Bool), s.settled →
    let k := (s.tile s.myTid).bank b.val
    let same := k.mode = mode ∧ k.pool = pool ∧ (mode = .cache ∨ k.asid = s.myAsid)
    let c : BankSet := { bank := b.val, mode := mode, pool := pool }
    let full : Prop := k.mode = .ring ∧ k.ring.count ≠ 0 ∧ k.ring.freeN ≠ k.ring.count
    (b.val / 4 ≠ idCore s.cur.id → s.priv = false →
      exec (.bankcfg d b mode pool) s = .next (s.raise { code := .bankOwner, info := W b.val })) ∧
    (b.val / 4 = idCore s.cur.id ∨ s.priv = true →
      (s.bankWindowed s.myTid b.val = true →
        exec (.bankcfg d b mode pool) s = .next (s.raise { code := .winBusy, info := s.openWord })) ∧
      (s.bankWindowed s.myTid b.val = false → ¬same → full →
        exec (.bankcfg d b mode pool) s = .next (s.raise { code := .ringBusy, info := s.openWord })) ∧
      (s.bankWindowed s.myTid b.val = false → same ∨ ¬full →
        exec (.bankcfg d b mode pool) s = .next (s.modMe fun k => s.depends (.x d 0)
          { k with pend := [{ wr := .x d 0, due := none, pc := s.cur.pc, flt := none, cfg := some c }] }).complete))

/-- R177, R181, R182, R194: when the result of a BANKCFG arrives, a ring that is no longer empty, or a window that was set
meanwhile, makes a late fault and no change; otherwise X[D] takes the old setting, and the bank the new one (log 39): the same setting
has no effect; another leaves the bank with its mode, its pool bit and its ASID, an unset ring, and 0 in every byte, with no
line of the L2 in it, and no other bank, byte of a bank or tile changes. -/
def Rules.BankChanges : Prop :=
  ∀ (s : State) (tid : Nat) (ctx : Ctx) (e : Pend) (c : BankSet) (d : XReg) (w : Word), ctx.pend = [e] → e.cfg = some c →
    e.wr = .x d w → e.grp = 0 → e.dead = false → e.atom = false → ctx.late = none →
    let k := (s.tile tid).bank c.bank
    let same := k.mode = c.mode ∧ k.pool = c.pool ∧ (c.mode = .cache ∨ k.asid = ctx.asid)
    let old := (match k.mode with | .cache => 0 | .scratch => 1 | .ring => 2) + (if k.pool then 4 else 0)
    let after := (s.arriveAt tid ctx 0).1
    let t := (s.arriveAt tid ctx 0).2
    (∀ f, s.bankBusy tid ctx.asid c = some f → t = s ∧ after.late = some { flt := f, pc := e.pc } ∧ after.x = ctx.x) ∧
    (s.bankBusy tid ctx.asid c = none →
      (d.val ≠ 0 → after.x.get d = W (old * 32 + c.bank)) ∧ after.pend = [] ∧ after.late = none ∧ (same → t = s) ∧
      (¬same →
        ((t.tile tid).bank c.bank).mode = c.mode ∧ ((t.tile tid).bank c.bank).pool = c.pool ∧
        ((t.tile tid).bank c.bank).ring.count = 0 ∧ ((t.tile tid).bank c.bank).ring.slots = [] ∧
        (c.mode ≠ .cache → ((t.tile tid).bank c.bank).asid = ctx.asid) ∧
        (∀ b, b ≠ c.bank → (t.tile tid).bank b = (s.tile tid).bank b) ∧
        (∀ a, t.bankByte tid a = if a / 2 ^ 17 = c.bank then 0 else s.bankByte tid a) ∧
        (k.mode = .cache → ∀ l ∈ (t.tile tid).l2, l.2.bank ≠ c.bank) ∧
        (∀ x, x ≠ tid → t.tile x = s.tile x)))

/-- R186-R188, R195-R197: RINIT sets the descriptor of an empty ring, or raises the fault of R197; RSTAT reads its counters;
RPUSH and RPOP take the slot at their index at once when one is there and no earlier request waits, write 0 under `.try` and
wait otherwise when none is; a take of a slot of another NFM raises its fault; a request that was answered completes with its
slot after an acquire; the release forms mark the named slot after a release of the context's accesses. -/
def Rules.RingInstructions : Prop :=
  ∀ (s : State) (d a : XReg) (m : MemOp) (sc : Scope) (tr : Bool) (tid b i : Nat), s.settled →
    let ea := s.addrOf m
    let w := s.xval a
    let r := s.ring tid b
    let slotB := 64 * 2 ^ r.slotsz
    (let k := (s.tile s.myTid).bank (Bits w 0 5)
      let legal : Prop := Bits w 20 44 = 0 ∧ Bits w 5 3 ≤ 5 ∧ 2 ≤ Bits w 8 12 ∧ Bits w 8 12 ≤ 2048 ∧
        Bits w 8 12 * (64 * 2 ^ Bits w 5 3) ≤ 2 ^ 17
      let no (c : Code) : Prop := exec (.rinit a) s = .next (s.raise { code := c, info := s.openWord })
      (k.mode ≠ .ring → no .bankMode) ∧ (k.mode = .ring → k.asid ≠ s.myAsid → no .bankAsid) ∧
      (k.mode = .ring → k.asid = s.myAsid → ¬legal → no .ringAddr) ∧
      (k.mode = .ring → k.asid = s.myAsid → legal → k.ring.empty = false → no .ringBusy) ∧
      (k.mode = .ring → k.asid = s.myAsid → legal → k.ring.empty = true →
        exec (.rinit a) s = .next (s.modRing s.myTid (Bits w 0 5) fun q =>
          { count := Bits w 8 12, slotsz := Bits w 5 3, freeN := Bits w 8 12, claims := q.claims, takes := q.takes }).complete)) ∧
    (∀ v, s.me.answer = .val v → let t := (s.acquire s.myCore sc).wx d v
      exec (.rpushClaim d m sc tr) s = .next t.complete ∧ exec (.rpopTake d m sc tr) s = .next t.complete) ∧
    (∀ f, s.me.answer = .flt f → exec (.rpushClaim d m sc tr) s = .next (s.raise f) ∧
      exec (.rpopTake d m sc tr) s = .next (s.raise f)) ∧
    (∀ f, s.ringBase ea = .error (.flt f) → s.me.answer = .none →
      exec (.rpushClaim d m sc tr) s = .next (s.raise f) ∧ exec (.rpopTake d m sc tr) s = .next (s.raise f)) ∧
    (Bits w 60 4 = 1 ∨ Bits w 60 4 = 2 → Bits w 0 17 = 0 → s.ringPlace .load w = .ok (tid, b) →
      ((s.tile tid).bank b).mode = .ring →
      exec (.rstat d a) s = .next ((s.packetTo tid).wlong (.x d (W (r.freeN + r.filled * 2 ^ 12 + r.count * 2 ^ 24 + r.claimI * 2 ^ 36 +
        r.takeI * 2 ^ 47 + r.slotsz * 2 ^ 58)))).complete) ∧
    (s.ringBase ea = .ok (tid, b) → s.me.answer = .none →
      (r.freeN ≠ 0 → r.claims = [] →
        exec (.rpushClaim d m sc tr) s = .next (((((s.packetTo tid).modRing tid b fun _ =>
          { r with slots := put r.claimI { st := .claimed } r.slots, freeN := r.freeN - 1,
                   claimI := (r.claimI + 1) % r.count })).acquire s.myCore sc).wx d (ea + W (r.claimI * slotB))).complete) ∧
      (r.freeN = 0 → tr = true → exec (.rpushClaim d m sc tr) s = .next ((s.packetTo tid).wx d 0).complete) ∧
      ((r.freeN = 0 ∧ tr = false) ∨ (r.freeN ≠ 0 ∧ r.claims ≠ []) → exec (.rpushClaim d m sc tr) s = .next
        (((s.packetTo tid).modRing tid b fun r => { r with claims := r.claims ++ [.claim s.cur.id ea] }).park (.ring tid b))) ∧
      (r.filled ≠ 0 → r.takes = [] → s.takeFault tid b s.myAsid = none →
        exec (.rpopTake d m sc tr) s = .next (((((s.packetTo tid).modRing tid b fun _ =>
          { r with slots := put r.takeI { r.slot r.takeI with st := .taken, mark := false } r.slots, filled := r.filled - 1,
                   takeI := (r.takeI + 1) % r.count })).acquire s.myCore sc).wx d (ea + W (r.takeI * slotB))).complete) ∧
      (r.filled = 0 → tr = true → exec (.rpopTake d m sc tr) s = .next ((s.packetTo tid).wx d 0).complete) ∧
      (∀ f, r.filled ≠ 0 → r.takes = [] → s.takeFault tid b s.myAsid = some f →
        exec (.rpopTake d m sc tr) s = .next (s.raise f)) ∧
      ((r.filled = 0 ∧ tr = false) ∨ (r.filled ≠ 0 ∧ r.takes ≠ []) → exec (.rpopTake d m sc tr) s = .next
        (((s.packetTo tid).modRing tid b fun r => { r with takes := r.takes ++ [.take s.cur.id ea] }).park (.ring tid b)))) ∧
    (s.relGate = .ok () →
      (∀ f, s.ringSlotAt ea .claimed = .error (.flt f) → exec (.rpushPublish m sc) s = .next (s.raise f)) ∧
      (∀ f, s.ringSlotAt ea .taken = .error (.flt f) → exec (.rpopRelease m sc) s = .next (s.raise f)) ∧
      (s.ringSlotAt ea .claimed = .ok (tid, b, i) → exec (.rpushPublish m sc) s = .next
        (((s.release s.myCore sc).packetTo tid).modRing tid b fun r => r.publishSlot i s.me.nfm s.myTid false).complete) ∧
      (s.ringSlotAt ea .taken = .ok (tid, b, i) → exec (.rpopRelease m sc) s = .next
        (((s.release s.myCore sc).packetTo tid).modRing tid b fun r => r.releaseSlot i).complete))

/-- R187: a publish of the slot at the publish index fills it, with those after it that are ready, and a publish of another
slot only marks it; a release frees in the same way.  Slots are therefore seen in claim order. -/
def Rules.RingOrder : Prop :=
  ∀ (r : Ring) (i : Nat) (nfm data : Bool) (tid : Nat), 2 ≤ r.count →
    let nxt (j : Nat) : Nat := (j + 1) % r.count
    (i ≠ r.pubI → ¬((r.slot r.pubI).st = .claimed ∧ (r.slot r.pubI).mark = true) →
      let q := r.publishSlot i nfm tid data
      q.filled = r.filled ∧ q.pubI = r.pubI ∧ (q.slot i).mark = true ∧ ∀ j, j ≠ i → q.slot j = r.slot j) ∧
    (i = r.pubI → i < r.count → ¬((r.slot (nxt i)).st = .claimed ∧ (r.slot (nxt i)).mark = true) →
      let q := r.publishSlot i nfm tid data
      q.filled = r.filled + 1 ∧ q.pubI = nxt i ∧ q.slot i = { st := .filled, nfm := nfm, tid := tid, data := data } ∧
        ∀ j, j ≠ i → q.slot j = r.slot j) ∧
    (i ≠ r.relI → ¬((r.slot r.relI).st = .taken ∧ (r.slot r.relI).mark = true) →
      let q := r.releaseSlot i
      q.freeN = r.freeN ∧ q.relI = r.relI ∧ (q.slot i).mark = true ∧ ∀ j, j ≠ i → q.slot j = r.slot j) ∧
    (i = r.relI → (r.slot i).st = .taken → i < r.count →
      ¬((r.slot (nxt i)).st = .taken ∧ (r.slot (nxt i)).mark = true) →
      let q := r.releaseSlot i
      q.freeN = r.freeN + 1 ∧ q.relI = nxt i ∧ (q.slot i).st = .free ∧ ∀ j, j ≠ i → q.slot j = r.slot j)

/-! ### Vector memory (R142, R143) -/

/-- R142, R143: the vector loads and stores, on bytes of the own tile's banks: the address of each active element by the
instruction, its bytes loaded into its lane, or its lane stored in ascending order; no other byte changes.
That the highest of overlapping elements of VSTS wins is the model's choice (log 70). -/
def Rules.VectorBankAccess : Prop :=
  ∀ (s : State) (d b : VReg) (xa : XReg) (mk : PReg) (ty : Ty) (o : AccOpts) (z : Bool), s.settled →
    s.issueGate o.ord = .ok () → s.unguarded s.myTid → s.prompt →
    let n := tyBits ty
    let w := n / 8
    let s2 := s.orderFirst o.ord o.sc
    let base := s.xval xa
    let on (e : Nat) : Prop := e < 1024 / n ∧ (s.kval mk).getLsbD e = true
    let inBank (at_ : Nat → Word) : Prop := ∀ e, on e →
      Bits (at_ e) 60 4 = 1 ∧ Bits (at_ e) 22 38 = 0 ∧ (at_ e).toNat % w = 0 ∧
      ((s.tile s.myTid).bank (Bits (at_ e) 17 5)).mode = .scratch ∧
      ((s.tile s.myTid).bank (Bits (at_ e) 17 5)).asid = s.myAsid
    let loads (i : Instr) (at_ : Nat → Word) : Prop := inBank at_ →
      ∃ (v : VWord) (t : State), exec i s = .next ((t.orderLoad o.ord o.sc s.seq).wlong (.v d v)).complete ∧
        t = { s2 with tiles := t.tiles, cur := { s2.cur with dep := t.cur.dep } } ∧
        (∀ x a, t.bankByte x a = s2.bankByte x a) ∧
        maskedBy s d mk z n (fun e => BitVec.ofNat n (loadLE (s2.tile s.myTid).sram (Bits (at_ e) 0 22) w)) v
    let stores (i : Instr) (at_ : Nat → Word) : Prop := inBank at_ →
      ∃ t : State, exec i s = .next (t.orderLast o.ord o.sc).complete ∧ t = { s2 with tiles := t.tiles, mons := t.mons } ∧
        (∀ x, x ≠ s.myTid → t.tile x = s2.tile x) ∧
        (∀ e k, on e → k < w → (∀ e', on e' → e < e' → ¬(Bits (at_ e') 0 22 ≤ Bits (at_ e) 0 22 + k ∧
            Bits (at_ e) 0 22 + k < Bits (at_ e') 0 22 + w)) →
          t.bankByte s.myTid (Bits (at_ e) 0 22 + k) = (lane n (s.vval d) e).extractLsb' (8 * k) 8) ∧
        (∀ a, (∀ e, on e → ¬(Bits (at_ e) 0 22 ≤ a ∧ a < Bits (at_ e) 0 22 + w)) →
          t.bankByte s.myTid a = s2.bankByte s.myTid a)
    let unit (e : Nat) : Word := base + W (e * w)
    let strided (e : Nat) : Word := base + BitVec.ofInt 64 (e * (s.xval (xnext xa)).toInt)
    let scattered (e : Nat) : Word := base + (lane 32 (s.vval b) e).signExtend 64
    loads (.vld d xa mk ty o z) unit ∧ loads (.vlds d xa mk ty o z) strided ∧ loads (.vgath d b xa mk ty o z) scattered ∧
    stores (.vst d xa mk ty o) unit ∧ stores (.vsts d xa mk ty o) strided ∧ stores (.vscat d b xa mk ty o) scattered

/-- R143, R178, R203: the vector loads and stores on memory: places are found for the active elements, lowest first; a load
writes the bytes that the core sees there, and a store makes the core see its lanes, one after the other, where the caches
need not lose a line (that the highest of overlapping elements of VSTS wins is the model's choice, log 70).  Behind an earlier
access that acquires and has not performed, every element's access is on its way. -/
def Rules.VectorMemory : Prop :=
  ∀ (s s1 : State) (d b : VReg) (xa : XReg) (mk : PReg) (ty : Ty) (o : AccOpts) (z : Bool) (ls : List (Nat × Word × Loc))
    (pa : Nat → Nat), s.settled → s.issueGate o.ord = .ok () → s.cur.adep = 0 →
    let n := tyBits ty
    let w := n / 8
    let s2 := s1.orderFirst o.ord o.sc
    let behind : Prop := ∃ e ∈ s2.me.accs, e.acq = true ∧ e.grp ≠ s2.group
    (∀ x ∈ ls, x.2.2 = .mem (pa x.1) ∧ pa x.1 % w = 0) →
    let unit (e : Nat) : Word := s.xval xa + W (e * w)
    let strided (e : Nat) : Word := s.xval xa + BitVec.ofInt 64 (e * (s.xval (xnext xa)).toInt)
    let scattered (e : Nat) : Word := s.xval xa + (lane 32 (s.vval b) e).signExtend 64
    let loads (i : Instr) (at_ : Nat → Word) : Prop :=
      s.placeEls .load w (s.activeAt mk n at_) = .ok (ls, s1) →
      (ls ≠ [] → behind → ∃ (t : State) (v : VWord), exec i s = .next ((t.orderLoad o.ord o.sc s.seq).wgrp (.v d v) 0).complete ∧
        t.me.accs = s2.me.accs ++ ls.map fun x => s2.memAcc (pa x.1) w x.2.1 none (n * x.1) o.ord o.sc) ∧
      (s2.me.accs = [] → ∃ (t : State) (v : VWord), exec i s = .next ((t.orderLoad o.ord o.sc s.seq).wlong (.v d v)).complete ∧
        (s2.room s.myCore 128 → s2.cachesOnly t ∧
        (∀ core a, t.seenByte core a = s2.seenByte core a) ∧
        ∀ e, e < 1024 / n →
          ((s.kval mk).getLsbD e = true → ∀ k, k < w →
            (lane n v e).extractLsb' (8 * k) 8 = s2.seenByte s.myCore (pa e + k)) ∧
          ((s.kval mk).getLsbD e = false → lane n v e = if z then 0 else lane n (s.vval d) e)))
    let stores (i : Instr) (at_ : Nat → Word) : Prop :=
      s.placeEls .store w (s.activeAt mk n at_) = .ok (ls, s1) →
      (ls ≠ [] → behind → ∃ t : State, exec i s = .next (t.orderLast o.ord o.sc).complete ∧
        t.me.accs = s2.me.accs ++ ls.map fun x =>
          s2.memAcc (pa x.1) w x.2.1 (some (lane n (s.vval d) x.1).toNat) 0 o.ord o.sc) ∧
      (s2.me.accs = [] → ∃ t : State, exec i s = .next (t.orderLast o.ord o.sc).complete ∧ (s2.room s.myCore 128 → s2.cachesOnly t ∧
        (∀ core a, core ≠ s.myCore → t.seenByte core a = s2.seenByte core a) ∧
        (∀ x ∈ ls, ∀ k, k < w → (∀ y ∈ ls, x.1 < y.1 → ¬(pa y.1 ≤ pa x.1 + k ∧ pa x.1 + k < pa y.1 + w)) →
          t.seenByte s.myCore (pa x.1 + k) = (lane n (s.vval d) x.1).extractLsb' (8 * k) 8) ∧
        (∀ a, (∀ x ∈ ls, ¬(pa x.1 ≤ a ∧ a < pa x.1 + w)) → t.seenByte s.myCore a = s2.seenByte s.myCore a)))
    loads (.vld d xa mk ty o z) unit ∧ loads (.vlds d xa mk ty o z) strided ∧ loads (.vgath d b xa mk ty o z) scattered ∧
    stores (.vst d xa mk ty o) unit ∧ stores (.vsts d xa mk ty o) strided ∧ stores (.vscat d b xa mk ty o) scattered

/-! ### Atomics (R217-R231) -/

/-- R220, R222: the operations of AMO and RED on n-bit values. -/
def amoSpec {n : Nat} (op : AmoOp) (old v : BitVec n) : BitVec n :=
  match op with
  | .swap => v
  | .add => old + v
  | .and => old &&& v
  | .or => old ||| v
  | .xor => old ^^^ v
  | .min => if old.toInt ≤ v.toInt then old else v
  | .max => if old.toInt ≤ v.toInt then v else old
  | .minu => if old.toNat ≤ v.toNat then old else v
  | .maxu => if old.toNat ≤ v.toNat then v else old

/-- R218, R221-R224: the atomics of integers read the old value at their home, write the new one there in the same step, and
return the old value (RED owes a status instead); the order that they ask for comes first.  One whose home has a fault for
it takes no effect there, and its result or status brings that fault (R82, R221); one whose address fails a check raises it.
RED's value counts at its home from its own step on, gathered or not, which is the model's reading of R224 and R225 (log 10). -/
def Rules.IntegerAtomics : Prop :=
  ∀ (s s1 : State) (d x : XReg) (m : CellOp) (op : AmoOp) (sz : Fin 4) (sc : Scope) (ord : MemOrd) (wide rel : Bool)
    (p : Site), s.settled →
    let at_ (k : AccKind) (n : Nat) (o : MemOrd) (i : Instr) (next : State → Nat → State) : Prop :=
      s.ordGate o = .ok () →
      (∀ f, s.atomSite k (s.cellOf m) n sc = .error (.flt f) → exec i s = .next (s.raise f)) ∧
      (s.atomSite k (s.cellOf m) n sc = .ok (p, s1) → p.flt = none →
        exec i s = .next (next ((s1.orderFirst o sc).siteLoad p sc n).2 ((s1.orderFirst o sc).siteLoad p sc n).1).complete) ∧
      (∀ g, s.atomSite k (s.cellOf m) n sc = .ok (p, s1) → p.flt = some g →
        exec i s = .next (if k = .store then (s1.orderFirst o sc).owe (some g)
          else (s1.orderFirst o sc).watom (.x d (W 0)) (some g)).complete)
    let red (n : Nat) (o : MemOrd) (i : Instr) (act : State → State) : Prop :=
      s.ordGate o = .ok () →
      (∀ f, s.atomSite .store (s.cellOf m) n sc = .error (.flt f) → exec i s = .next (s.raise f)) ∧
      (s.atomSite .store (s.cellOf m) n sc = .ok (p, s1) → p.flt = none →
        exec i s = .next ((act (s1.orderFirst o sc)).owe none).complete) ∧
      (∀ g, s.atomSite .store (s.cellOf m) n sc = .ok (p, s1) → p.flt = some g →
        exec i s = .next ((s1.orderFirst o sc).owe (some g)).complete)
    let n := 2 ^ sz.val
    let v := BitVec.ofNat (8 * n) (s.xval x).toNat
    let e := (s.xval d).toNat % 2 ^ (8 * n)
    let w := (s.xval x).toNat % 2 ^ (8 * n)
    let e2 := (s.xval d).toNat + (s.xval (xnext d)).toNat * 2 ^ 64
    let w2 := (s.xval x).toNat + (s.xval (xnext x)).toNat * 2 ^ 64
    let bn := if wide then 8 else 4
    let amt := (s.xval x).toNat % 2 ^ (8 * bn)
    let lim := (s.xval (xnext x)).toNat % 2 ^ (8 * bn)
    let given (o : Nat) : Nat := if lim ≤ o then 0 else min amt (lim - o)
    at_ .rdwr n ord (.amo d x m op sz sc ord) (fun t o =>
      (t.siteStore p sc n (amoSpec op (BitVec.ofNat (8 * n) o) v).toNat).watom (.x d (W o))) ∧
    at_ .rdwr n ord (.cas d x m ⟨sz.val, by omega⟩ sc ord) (fun t o =>
      (if o = e then t.siteStore p sc n w else t).watom (.x d (W o))) ∧
    at_ .rdwr 16 ord (.cas d x m 4 sc ord) (fun t o =>
      ((if o = e2 then t.siteStore p sc 16 w2 else t).watom (.x d (W o))).watom (.x (xnext d) (W (o / 2 ^ 64)))) ∧
    at_ .rdwr bn ord (.addb d x m wide sc ord) (fun t o =>
      ((t.siteStore p sc bn (o + given o)).watom (.x d (W o))).watom (.x (xnext d) (W (given o)))) ∧
    red n (if rel then .rel else .plain) (.red x m (.int op sz) sc rel) (fun t =>
      t.redStore p sc (some (op, n)) n fun o => (amoSpec op (BitVec.ofNat (8 * n) o) v).toNat)

/-- R217, R218: what the step at a home does to bytes.  At a quarry (or for a host line in host memory) the context's own
copies of the line have gone home first; the old value is the home's bytes, and the store writes exactly n bytes there; in
the banks and in the L1D likewise, with the bytes of the bank and those that the core sees.  That the own copies go home
first is log 61 (DEDUCED: R219 lets them come later).  R224, R225: RED leaves what the atomic of its operation leaves, but
that below a tile L2 and a quarry it gathers, so that a monitor of the line is woken only when the cache that holds the
partial gives it up (that only a monitor can tell is log 10, DEDUCED). -/
def Rules.AtomicHomes : Prop :=
  ∀ (s : State) (p : Site) (sc : Scope) (n v : Nat) (kind : Option (AmoOp × Nat)) (f : Nat → Nat), n ∈ [1, 2, 4, 8, 16, 64] → p.addr % n = 0 →
    let old := (s.siteLoad p sc n).1
    let t := (s.siteLoad p sc n).2
    let u := t.siteStore p sc n v
    let reads (get : Nat → Byte) : Prop := old < 2 ^ (8 * n) ∧ ∀ k, k < n → BitVec.ofNat 8 (old / 2 ^ (8 * k)) = get (p.addr + k)
    let writes (before after : Nat → Byte) : Prop := ∀ a, after a =
      if p.addr ≤ a ∧ a < p.addr + n then BitVec.ofNat 8 (v / 2 ^ (8 * (a - p.addr))) else before a
    u.ctxs = t.ctxs ∧ (∀ id, id ≠ s.cur.id → t.ctx id = s.ctx id) ∧ t.me = { s.me with seen := t.me.seen } ∧
    (p.home = .quarry → reads t.homeByte ∧ writes t.homeByte u.homeByte ∧
      find (p.addr / 64) (t.core s.myCore).l1d = none ∧ find (p.addr / 64) (t.tile (idTid s.myCore)).l2 = none ∧
      ∀ m ∈ u.mons, m.home = .quarry → m.line = p.addr / 64 → m.hit = true) ∧
    (∀ tid, p.home = .ni tid → reads (s.bankByte tid) ∧ t = s.loaded ∧ writes (s.bankByte tid) (u.bankByte tid) ∧
      u.mem = s.mem) ∧
    (p.home = .l1 s.myCore → reads (t.seenByte s.myCore) ∧ writes (t.seenByte s.myCore) (u.seenByte s.myCore) ∧
      (s.room s.myCore 1 → t.mem = s.mem) ∧ u.mem = t.mem) ∧
    (let w := s.redStore p sc kind n f
     let at_ (m : Mon) : Prop := m.line = p.addr / 64 ∧ m.home = p.home
     { w with mons := [] } = { t.siteStore p sc n (f old) with mons := [] } ∧
     (s.holder p.home = none → w = t.siteStore p sc n (f old)) ∧
     ∀ h, s.holder p.home = some h →
       (∀ m ∈ s.mons, at_ m → ∃ q ∈ w.mons, q.id = m.id ∧ { holder := h, kind := kind } ∈ q.part) ∧
       ∀ m ∈ w.mons, at_ m → ∃ q ∈ (w.combineIn h (p.addr / 64)).mons, q.id = m.id ∧ q.hit = true)

/-- R227-R229: FACC and RED with a contribution add it to the cell; FACCRD reads the cell out through an entry by its
rounding mode and clears it under `.clr`; FACCZ returns the flags word and zeroes the cell.  A scaled entry raises
ENTRY_KIND; a fault of the address is raised, and one of the home comes with the result or the status (R82, R221).
RED .cell counts at its home from its own step on, gathered or not, which is the model's reading of R224 and R225 (log 10). -/
def Rules.CellAtomics : Prop :=
  ∀ (s s1 : State) (d x : XReg) (m : CellOp) (k : FReg) (sc : Scope) (ord : MemOrd) (rel clr acq : Bool) (p : Site) (f : Fmt)
    (rm : Nat), s.settled → s.useEntry k.val = .ok f →
    (f.blk ≠ 0 → ∀ i ∈ [Instr.facc x m (.ent k) sc rel, .red x m (.cell k) sc rel, .faccrd d m k clr sc acq],
      exec i s = .next (s.raise { code := .entryKind, info := W k.val })) ∧
    (f.blk = 0 → s.drmOf f 61 = .ok rm →
    let at_ (ak : AccKind) (o : MemOrd) (i : Instr) (late : State → Flt → State) (next : State → Nat → State) : Prop :=
      s.ordGate o = .ok () →
      (∀ g, s.atomSite ak (s.cellOf m) 64 sc = .error (.flt g) → exec i s = .next (s.raise g)) ∧
      (s.atomSite ak (s.cellOf m) 64 sc = .ok (p, s1) → p.flt = none →
        exec i s = .next (next ((s1.orderFirst o sc).siteLoad p sc 64).2 ((s1.orderFirst o sc).siteLoad p sc 64).1).complete) ∧
      (∀ g, s.atomSite ak (s.cellOf m) 64 sc = .ok (p, s1) → p.flt = some g →
        exec i s = .next (late (s1.orderFirst o sc) g).complete)
    let owed (t : State) (g : Flt) : State := t.owe (some g)
    let ro : MemOrd := if rel then .rel else .plain
    let c := f.decode ((s.xval x).toNat % 2 ^ f.cbits)
    at_ .store ro (.facc x m (.ent k) sc rel) owed (fun t o => (t.siteStore p sc 64 (cellAdd o c)).owe none) ∧
    (s.ordGate ro = .ok () →
      (∀ g, s.atomSite .store (s.cellOf m) 64 sc = .error (.flt g) → exec (.red x m (.cell k) sc rel) s = .next (s.raise g)) ∧
      (s.atomSite .store (s.cellOf m) 64 sc = .ok (p, s1) → p.flt = none →
        exec (.red x m (.cell k) sc rel) s =
          .next (((s1.orderFirst ro sc).redStore p sc none 64 fun o => cellAdd o c).owe none).complete) ∧
      (∀ g, s.atomSite .store (s.cellOf m) 64 sc = .ok (p, s1) → p.flt = some g →
        exec (.red x m (.cell k) sc rel) s = .next ((s1.orderFirst ro sc).owe (some g)).complete)) ∧
    at_ .store ro (.facc x m .xi sc rel) owed (fun t o =>
      (t.siteStore p sc 64 (cellAdd o (.fin (Dy.ofInt (s.xval x).toInt)))).owe none) ∧
    at_ .rdwr (if acq then .acq else .plain) (.faccrd d m k clr sc acq)
      (fun t g => (t.watom (.x d (W (cellRead 0 f rm (s.draw rm 0)))) (some g)).advanceRm rm 1) (fun t o =>
      ((if clr then t.siteStore p sc 64 0 else t).watom (.x d (W (cellRead o f rm (s.draw rm 0))))).advanceRm rm 1) ∧
    at_ .store ord (.faccz d m sc ord) (fun t g => t.watom (.x d 0) (some g)) (fun t o => (t.siteStore p sc 64 0).watom (.x d (W (o / 2 ^ 448 % 2 ^ 64)))))

/-- R226, R227: a finite contribution below 2^247 in magnitude adds its value in units of 2^-160, exactly when it is a
multiple of that unit, and counts one; the others set their flags and leave the sum. -/
def Rules.CellArithmetic : Prop :=
  ∀ (c : Nat) (v : Dy), c < 2 ^ 512 → c / 2 ^ 448 % 2 ^ 40 + 1 < 2 ^ 40 → c / 2 ^ 494 = 0 →
    let sum (c : Nat) : Nat := c % 2 ^ 448
    let count (c : Nat) : Nat := c / 2 ^ 448 % 2 ^ 40
    let flag (c i : Nat) : Bool := c.testBit (448 + i)
    (0 ≤ v.e + 160 → v.m = 0 ∨ v.m * 2 ^ (v.e + 160).toNat < 2 ^ 407 →
      let d := cellAdd c (.fin v)
      ((sum d : Nat) : Int) % 2 ^ 448 =
        ((sum c : Int) + (if v.neg then -((v.m * 2 ^ (v.e + 160).toNat : Nat) : Int) else (v.m * 2 ^ (v.e + 160).toNat : Nat))) %
          2 ^ 448 ∧
      count d = count c + 1 ∧ ∀ i, 40 ≤ i → i < 46 → flag d i = flag c i) ∧
    (sum (cellAdd c .nan) = sum c ∧ flag (cellAdd c .nan) 40 = true ∧ count (cellAdd c .nan) = count c + 1) ∧
    (sum (cellAdd c (.inf false)) = sum c ∧ flag (cellAdd c (.inf false)) 41 = true) ∧
    (sum (cellAdd c (.inf true)) = sum c ∧ flag (cellAdd c (.inf true)) 42 = true)

/-- R227: the order in which contributions reach a cell does not matter: every pair commutes, whatever the cell and the
contributions. -/
def Rules.CellOrder : Prop := ∀ (c : Nat) (a b : Machine.Num), cellAdd (cellAdd c a) b = cellAdd (cellAdd c b) a

/-- R77, R230, R231: MWAIT returns at once, with a long-latency result, when the value differs from X[D]'s low bytes or no
monitor is free, and otherwise arms a monitor at the home and waits; a write at the home to the line wakes it, and it then
writes what it reads, for the next instruction to see. -/
def Rules.MonitorWait : Prop :=
  (∀ (s s1 : State) (d : XReg) (m : CellOp) (wide : Bool) (sc : Scope) (acq : Bool) (p : Site), s.settled →
    let n := if wide then 8 else 4
    let t0 := (if acq then s1.acquire s.myCore sc else s1).disarm s.cur.id
    let v := (t0.siteLoad p sc n).1
    let t := (t0.siteLoad p sc n).2
    (∀ f, s.atomSite .load (s.cellOf m) n sc = .error (.flt f) → exec (.mwait d m wide sc acq) s = .next (s.raise f)) ∧
    (s.atomSite .load (s.cellOf m) n sc = .ok (p, s1) →
    (∀ g, p.flt = some g → exec (.mwait d m wide sc acq) s = .next (t.watom (.x d (W v)) (some g)).complete) ∧
    (p.flt = none →
    (s.me.answer ≠ .none → exec (.mwait d m wide sc acq) s = .next (t.wx d (W v)).complete) ∧
    (s.me.answer = .none → v ≠ (s.xval d).toNat % 2 ^ (8 * n) ∨ t.monFree p = false →
      exec (.mwait d m wide sc acq) s = .next (t.watom (.x d (W v))).complete) ∧
    (v = (s.xval d).toNat % 2 ^ (8 * n) → s.me.answer = .none → t.monFree p = true →
      let q : Mon := { id := s.cur.id, home := p.home, line := p.addr / 64, hit := false }
      exec (.mwait d m wide sc acq) s = .next (({ t with mons := t.mons ++ [q] }).park .mwait))))) ∧
  (∀ (s : State), (∃ m ∈ s.mons, m.id = s.cur.u ∧ m.hit = true) → (s.ctx s.cur.u).wait = .mwait →
    exec .mwaitWake s = .next ((s.disarm s.cur.u).answer s.cur.u (.val 0))) ∧
  (∀ (s : State) (pl : Nat) (m : Mon), m ∈ s.mons → m.line = pl → m.home = .quarry →
    ({ m with hit := true } : Mon) ∈ (s.noteWrite .quarry pl).mons)

/-- R79, R80, R82, R212: the n-th of the results on their way to a context returns, in any order: without a fault it is in
its register, unless a later write has taken effect, and older results for that register are gone or will be discarded; with
a fault the register stays and the fault becomes the context's late fault, unless it has one.  The n-th of the statuses that
homes owe arrives likewise. -/
def Rules.ResultsReturn : Prop :=
  (∀ (s : State) (n : Nat) (e : Pend),
    let c := s.ctx s.cur.u
    let rest := c.pend.take n ++ c.pend.drop (n + 1)
    let older := (c.pend.take n).filterMap fun o =>
      if o.wr.same e.wr = false then some o else if o.due = none then some { o with dead := true } else none
    s.cur.v = n → n < 2 ^ 16 → c.pend[n]? = some e → e.due = none → e.grp = 0 → e.cfg = none →
    ∃ t : State, exec .registerResultWrite s = .next t ∧ (∀ id, id ≠ s.cur.u → t.ctx id = s.ctx id) ∧ t.mem = s.mem ∧
      t.tiles = s.tiles ∧
      (e.flt = none → e.dead = false → t.ctx s.cur.u = { c with pend := older ++ c.pend.drop (n + 1) }.put e.wr) ∧
      (e.flt = none → e.dead = true → t.ctx s.cur.u = { c with pend := rest }) ∧
      (∀ f, e.flt = some f → c.late = none →
        t.ctx s.cur.u = { c with pend := rest, late := some { flt := f, pc := e.pc, home := e.atom } }) ∧
      (∀ f l, e.flt = some f → c.late = some l → t.ctx s.cur.u = { c with pend := rest })) ∧
  (∀ (s : State) (n : Nat) (e : StatusDue),
    let c := s.ctx s.cur.u
    let rest := c.status.take n ++ c.status.drop (n + 1)
    s.cur.v = n → c.status[n]? = some e →
    ∃ t : State, exec .homeStatusArrival s = .next t ∧
      (∀ id, id ≠ s.cur.u → t.ctx id = s.ctx id) ∧ t.mem = s.mem ∧ t.tiles = s.tiles ∧
      (e.flt = none → t.ctx s.cur.u = { c with status := rest }) ∧
      (∀ f, e.flt = some f → c.late = none →
        t.ctx s.cur.u = { c with status := rest, late := some { flt := f, pc := e.pc, home := true } }) ∧
      (∀ f l, e.flt = some f → c.late = some l → t.ctx s.cur.u = { c with status := rest }))

/-! ### Futures (R234-R245) -/

/-- Word k of the 32-byte record of a future (R234). -/
def futAt (s : State) (pa k : Nat) : Nat := s.rawLoad (pa + 8 * k) 8

/-- R235, R236, R243: FSET resolves, faults, arms or resets a future of the program: word 0 takes the new state, with its
generation; a resolution stores the value and the resolver, empties the wait list and sends the value to the record of each
of its nodes; X[D] gets the old word 0; no other byte changes. -/
def Rules.FutureSet : Prop :=
  ∀ (s s1 : State) (d v : XReg) (m : CellOp) (pa : Nat), s.settled → s.relGate = .ok () →
    s.futSite s.agent .store (s.cellOf m) = .ok (pa, s1) →
    let t0 := (s1.release s.myCore .mo).pushHome s.myCore (pa / 64)
    let w := futAt t0 pa 0
    let st := w / 2 ^ 62
    let gen := w / 2 ^ 32 % 2 ^ 16
    let rid := idTid s.cur.id + idCore s.cur.id * 2 ^ 13 + idCtx s.cur.id * 2 ^ 16 + s.myAsid.toNat * 2 ^ 23
    let sets (i : Instr) (good : State → Prop) : Prop :=
      ∃ t : State, exec i s = .next (t.watom (.x d (W w))).complete ∧ t.ctxs = t0.ctxs ∧
        (∀ x, t.tile x = { t0.tile x with cols := (t.tile x).cols }) ∧ (∀ a, a < pa ∨ pa + 32 ≤ a → t.homeByte a = t0.homeByte a) ∧ good t
    let late (i : Instr) (f : Flt) : Prop := exec i s = .next (t0.watom (.x d (W w)) (some f)).complete
    let resolved (code : Nat) (t : State) : Prop :=
      futAt t pa 0 = gen * 2 ^ 32 + code * 2 ^ 62 ∧ futAt t pa 1 = (s.xval v).toNat ∧ futAt t pa 2 = 0 ∧
      futAt t pa 3 = rid ∧ t.delivs = t0.delivs ++
        (t0.listedNodes pa).map fun (n : Nat × BitVec 10) =>
          { home := n.1 / 64 * 64, k := n.1 % 8, value := s.xval v, asid := n.2, colour := s.me.colour,
            sender := attach (quarryOf pa) }
    (w % 2 ^ 32 = 0 → st < 2 → sets (.fsetRes d v m) (resolved 2)) ∧
    (w % 2 ^ 32 = 0 → st < 2 → sets (.fsetFlt d v m) (resolved 3)) ∧
    (w % 2 ^ 32 = 0 → 2 ≤ st → late (.fsetRes d v m) { code := .doubleResolve, info := s.cellOf m } ∧
      late (.fsetFlt d v m) { code := .doubleResolve, info := s.cellOf m }) ∧
    (w % 2 ^ 32 ≠ 0 → late (.fsetRes d v m) { code := .futureOwned, info := s.openWord } ∧
      late (.fsetFlt d v m) { code := .futureOwned, info := s.openWord } ∧
      late (.fsetRst d m) { code := .futureOwned, info := s.openWord }) ∧
    sets (.fsetArm d m) (fun t => futAt t pa 0 = (if st = 0 then w + 2 ^ 62 else w) ∧ futAt t pa 1 = futAt t0 pa 1 ∧
      futAt t pa 2 = futAt t0 pa 2) ∧
    (w % 2 ^ 32 = 0 → sets (.fsetRst d m) (fun t =>
      (2 ≤ st → futAt t pa 0 = (gen + 1) % 2 ^ 16 * 2 ^ 32 + futWcnt w * 2 ^ 48 ∧ futAt t pa 1 = 0 ∧ futAt t pa 2 = 0 ∧
        futAt t pa 3 = 0) ∧
      (st < 2 → futAt t pa 0 = w)))

/-- R244, R245: FWAIT on a resolved future sends the delivery of its value; on another it puts its node at the head of the
wait list and counts it; FPOLL reads word 0 and the value. -/
def Rules.FutureWait : Prop :=
  (∀ (s s1 s2 s3 : State) (d r : XReg) (m : CellOp) (pa rpa npa : Nat), s.settled → s.relGate = .ok () →
    let rc := s.xval r
    let node := s.xval d
    s.futSite s.agent .store (s.cellOf m) = .ok (pa, s1) → rc.toNat % 64 ≤ 5 → rc.toNat / 2 ^ 60 = 0 →
    node.toNat / 2 ^ 60 = 0 → node.toNat % 16 = 0 →
    s1.nodeSite (W (rc.toNat / 64 * 64)) 64 = .ok (rpa, s2) → s2.nodeSite node 16 = .ok (npa, s3) →
    npa + 16 ≤ pa ∨ pa + 32 ≤ npa →
    let t0 := (s3.release s.myCore .mo).pushHome s.myCore (pa / 64)
    let w := futAt t0 pa 0
    (2 ≤ w / 2 ^ 62 → exec (.fwait d r m) s =
      .next ((t0.deliver pa (rpa + rc.toNat % 8) (W (futAt t0 pa 1)) s.myAsid s.me.colour).watom (.x d (W w))).complete) ∧
    (w / 2 ^ 62 < 2 → w / 2 ^ 48 % 2 ^ 14 ≠ 16383 → npa < 2 ^ 64 → rpa + rc.toNat % 8 < 2 ^ 64 →
      ∃ t : State, exec (.fwait d r m) s = .next (t.watom (.x d (W w))).complete ∧ t.ctxs = t0.ctxs ∧ t.delivs = t0.delivs ∧
        futAt t pa 0 = w + 2 ^ 48 ∧ futAt t pa 2 = npa ∧ futAt t npa 0 = rpa + rc.toNat % 8 ∧
        futAt t npa 1 = futAt t0 pa 2 ∧
        ∀ a, (a < pa ∨ pa + 24 ≤ a) → (a < npa ∨ npa + 16 ≤ a) → t.homeByte a = t0.homeByte a)) ∧
  (∀ (s s1 : State) (d : XReg) (m : CellOp) (acq : Bool) (pa : Nat), s.settled →
    s.futSite s.agent .load (s.cellOf m) = .ok (pa, s1) →
    let t := (if acq then s1.acquire s.myCore .mo else s1).pushHome s.myCore (pa / 64)
    exec (.fpoll d m acq) s =
      .next ((t.watom (.x d (W (futAt t pa 0)))).watom (.x (xnext d) (W (futAt t pa 1)))).complete)

/-- R235, R303, R346: a request to arm is on its way until a move takes it to its future's home (that it comes as a move of its
own is the model's reading, log 83): there EMPTY becomes ARMED, with the rest of word 0 kept, every other state stays, and no
other byte of any home and no register changes. -/
def Rules.ArmArrival : Prop :=
  ∀ (s : State) (n pa : Nat) (r : List Move), s.norb.halted = false → s.agenda = .arm n :: r → s.arms[n]? = some pa →
    ∃ t : State, step s = .next t ∧ t.arms = dropNth s.arms n ∧ t.ctxs = s.ctxs ∧
      (futAt s pa 0 / 2 ^ 62 = 0 → futAt t pa 0 = futAt s pa 0 + 2 ^ 62) ∧
      (futAt s pa 0 / 2 ^ 62 ≠ 0 → futAt t pa 0 = futAt s pa 0) ∧
      ∀ a, a < pa ∨ pa + 8 ≤ a → t.homeByte a = s.homeByte a

/-- R241, R242, R244: a future whose address fails a check raises that fault at FSET, FWAIT and FPOLL; FWAIT raises FUTURE_ADDR
for a record, then a node, that is malformed or not on path 0, and the fault of one that it may not write; a list that counts
16,383 nodes takes no other, and its word 0 is the answer. -/
def Rules.FutureFaults : Prop :=
  ∀ (s s1 s2 s3 : State) (d v : XReg) (m : CellOp) (acq : Bool) (pa rpa npa : Nat), s.settled →
    let rc := s.xval v
    let node := s.xval d
    let wait := exec (.fwait d v m) s
    (∀ f, s.futSite s.agent .load (s.cellOf m) = .error (.flt f) → exec (.fpoll d m acq) s = .next (s.raise f)) ∧
    (s.relGate = .ok () →
      (∀ f, s.futSite s.agent .store (s.cellOf m) = .error (.flt f) →
        exec (.fsetRes d v m) s = .next (s.raise f) ∧ exec (.fsetArm d m) s = .next (s.raise f) ∧
        exec (.fsetFlt d v m) s = .next (s.raise f) ∧ exec (.fsetRst d m) s = .next (s.raise f) ∧ wait = .next (s.raise f)) ∧
      (s.futSite s.agent .store (s.cellOf m) = .ok (pa, s1) →
        let goodRec : Prop := rc.toNat % 64 ≤ 5 ∧ rc.toNat / 2 ^ 60 = 0
        let goodNode : Prop := node.toNat / 2 ^ 60 = 0 ∧ node.toNat % 16 = 0
        let base := W (rc.toNat / 64 * 64)
        (¬goodRec → wait = .next (s.raise { code := .futureAddr, info := rc })) ∧
        (goodRec → ¬goodNode → wait = .next (s.raise { code := .futureAddr, info := node })) ∧
        (goodRec → goodNode → ∀ f, s1.nodeSite base 64 = .error (.flt f) → wait = .next (s.raise f)) ∧
        (goodRec → goodNode → s1.nodeSite base 64 = .ok (rpa, s2) →
          (∀ f, s2.nodeSite node 16 = .error (.flt f) → wait = .next (s.raise f)) ∧
          (s2.nodeSite node 16 = .ok (npa, s3) →
            let t := (s3.release s.myCore .mo).pushHome s.myCore (pa / 64)
            let w := futAt t pa 0
            w / 2 ^ 62 < 2 → w / 2 ^ 48 % 2 ^ 14 = 16383 → wait = .next (t.watom (.x d (W w))).complete))))

/-! ### Barriers (R246-R255) -/

/-- R246, R249-R255: the barrier instructions.  BINIT makes a record and writes its status; BARR and BARV arrive at the
record and wait, the last arrival of a record without parent and children flips the phase and answers every member with it,
and a member that has its answer completes; BTEST reads what is missing, and in the window of a tree's release WT may read 0 (R466); BFREE frees an idle record. -/
def Rules.BarrierInstructions : Prop :=
  ∀ (s : State) (d a : XReg) (op : AmoOp) (v : Bool) (chn : BitVec 8) (idx : BitVec 14), s.settled →
    let i := idx.toNat
    let b := s.bar s.myTid i
    let bit := barBit s.cur.id
    let all := b.arr ||| BitVec.ofNat 88 (2 ^ bit)
    let owned : Prop := i / 2048 = idCore s.cur.id ∨ s.priv = true
    let enters : Prop := s.me.answer = .none ∧ s.relGate = .ok () ∧ b.use = true ∧ b.asid = s.myAsid ∧
      s.me.gang.isSome = true ∧ s.cur.id < 2 ^ 20 ∧ idCtx s.cur.id < 11 ∧ b.memb.getLsbD bit = true ∧ b.wt = false ∧ b.fire = false
    let t0 := s.release s.myCore b.scope
    (owned → b.use = true → exec (.binit d a v chn idx) s = .next (s.wlong (.x d 1)).complete) ∧
    (owned → b.use = false → Bit (s.xval (xnext (xnext a))) 27 = false → Bits (s.xval (xnext (xnext a))) 28 36 = 0 →
      Bits (s.xval (xnext a)) 24 40 = 0 → v = false →
      let memb := BitVec.ofNat 88 ((s.xval a).toNat + (s.xval (xnext a)).toNat * 2 ^ 64)
      (∀ c < 8, memb.getLsbD (11 * c) = false) → memb ≠ 0 →
      exec (.binit d a v chn idx) s = .next ((s.setBar s.myTid i
        { memb := memb, use := true, chn := chn.toNat, ptid := Bits (s.xval (xnext (xnext a))) 0 13,
          pidx := Bits (s.xval (xnext (xnext a))) 13 14, pv := false, asid := s.myAsid, vb := false,
          root := (s.myTid, i) }).wlong (.x d 0)).complete) ∧
    (∀ w, s.me.answer = .val w →
      exec (.barr d idx) s = .next (s.wx d w).complete ∧ exec (.barv d a (.int op) idx) s = .next (s.wx d w).complete) ∧
    (enters → all ≠ b.memb ∨ b.cha ≠ b.chn →
      exec (.barr d idx) s = .next ((t0.setBar s.myTid i { b with arr := all }).park (.barrier i))) ∧
    (enters → all = b.memb → b.cha = b.chn → b.chn = 0 → b.pv = false → b.outs = [] →
      ∃ t : State, exec (.barr d idx) s = .next t ∧ (t.bar s.myTid i).phase = !b.phase ∧ (t.bar s.myTid i).arr = 0 ∧
        t.me.st = .ready ∧ t.me.answer = .val (if b.phase then 0 else 1) ∧ t.me.pc = s.cur.pc) ∧
    (enters → b.vb = true → b.vop = 0 → all ≠ b.memb ∨ b.cha ≠ b.chn →
      exec (.barv d a (.int op) idx) s = .next ((t0.setBar s.myTid i (({ b with arr := all }.addVal (amoCode op)
        (s.xval a).toNat) |> fun c => { c with outs := put bit (0, 8) c.outs })).park (.barrier i))) ∧
    (b.use = true → b.asid = s.myAsid →
      let miss := (b.memb &&& ~~~b.arr).toNat
      let reads (wt : Bool) (t : State) : Prop := exec (.btest d idx) s = .next ((t.wlong (.x d (W miss))).wlong (.x (xnext d)
        (W (miss / 2 ^ 64 + (b.chn - b.cha) * 2 ^ 24 + b2n b.phase * 2 ^ 32 + b2n wt * 2 ^ 33)))).complete
      let window : Prop := b.wt = true ∧ ∃ r ∈ s.trees, (r.tid, r.idx) = b.root
      (¬window → reads b.wt s) ∧ (window → ∃ wt, reads wt { s with seq := s.seq + 1 })) ∧
    (owned → b.use = true → b.asid = s.myAsid → b.arr = 0 → b.cha = 0 → b.wt = false → b.fire = false →
      ∃ t : State, exec (.bfree d idx) s = .next (t.wlong (.x d 0)).complete ∧ (t.bar s.myTid i).use = false ∧
        (∀ j, j ≠ i → t.bar s.myTid j = s.bar s.myTid j) ∧ t.ctxs = s.ctxs) ∧
    (owned → b.use = true → b.asid = s.myAsid → b.arr ≠ 0 ∨ b.cha ≠ 0 ∨ b.wt = true ∨ b.fire = true →
      exec (.bfree d idx) s = .next (s.wlong (.x d 1)).complete)

/-- R246, R251-R253, R255: what the barrier instructions refuse, each check in its order: a record of another core, one that
is not in use or of another address space, a context outside the gang or the record, a contribution without a value buffer
or with another operation, and an entry or rounding mode that is not legal; and the statuses of BINIT and BFREE. -/
def Rules.BarrierChecks : Prop :=
  ∀ (s : State) (d a : XReg) (src : BarvSrc) (v : Bool) (chn : BitVec 8) (idx : BitVec 14), s.settled →
    let i := idx.toNat
    let b := s.bar s.myTid i
    let owned : Prop := i / 2048 = idCore s.cur.id ∨ s.priv = true
    let bad (j : Instr) (c : Code) : Prop := exec j s = .next (s.raise { code := c, info := W i })
    let opc := match src with
      | .int op => amoCode op
      | .cell _ _ => 9
    (¬owned → exec (.binit d a v chn idx) s = .next (s.raise { code := .barOwner, info := s.openWord }) ∧
      exec (.bfree d idx) s = .next (s.raise { code := .barOwner, info := s.openWord })) ∧
    (owned → b.use = true → b.asid ≠ s.myAsid → bad (.bfree d idx) .barAsid) ∧
    (owned → b.use = false → b.arr = 0 → b.cha = 0 → b.wt = false → b.fire = false →
      exec (.bfree d idx) s = .next (s.wlong (.x d 5)).complete) ∧
    (b.use = false → bad (.btest d idx) .barState) ∧ (b.use = true → b.asid ≠ s.myAsid → bad (.btest d idx) .barAsid) ∧
    (s.me.answer = .none →
      (b.use = false → bad (.barr d idx) .barState ∧ bad (.barv d a src idx) .barState) ∧
      (b.use = true → b.asid ≠ s.myAsid → bad (.barr d idx) .barAsid ∧ bad (.barv d a src idx) .barAsid) ∧
      (b.use = true → b.asid = s.myAsid →
        let inside := s.me.gang.isSome = true
        let member := b.memb.getLsbD (barBit s.cur.id) = true
        (¬inside → bad (.barr d idx) .barOutsideGang ∧ bad (.barv d a src idx) .barOutsideGang) ∧
        (inside → ¬member → bad (.barr d idx) .barNotMember ∧ bad (.barv d a src idx) .barNotMember) ∧
        (inside → member →
          (b.vb = false → bad (.barv d a src idx) .barNoval) ∧
          (b.vb = true → b.vop ≠ 0 → b.vop ≠ opc → bad (.barv d a src idx) .barMismatch) ∧
          (∀ xi k, src = .cell xi k → b.vb = true → b.vop = 0 ∨ b.vop = 9 →
            (∀ f, s.cellEntry k.val = .error (.flt f) → exec (.barv d a src idx) s = .next (s.raise f)) ∧
            (∀ e f, s.cellEntry k.val = .ok e → s.drmOf e 14 = .error (.flt f) →
              exec (.barv d a src idx) s = .next (s.raise f)))))) ∧
    (owned → b.use = false →
      let par := s.xval (xnext (xnext a))
      let memb := BitVec.ofNat 88 ((s.xval a).toNat + (s.xval (xnext a)).toNat * 2 ^ 64)
      let badArg : Prop := (∃ c < 8, memb.getLsbD (11 * c) = true) ∨ Bits (s.xval (xnext a)) 24 40 ≠ 0 ∨ Bits par 28 36 ≠ 0 ∨
        (memb = 0 ∧ chn = 0)
      let full : Prop := (Bit par 27 = true ∧ 256 ≤ s.countBars (·.pv)) ∨ (v = true ∧ 128 ≤ s.countBars (·.vb))
      let tid := Bits par 0 13
      let p := s.bar tid (Bits par 13 14)
      let parent : Prop := s.live tid = true ∧ p.use = true ∧ p.asid = s.myAsid
      let status (w : Word) (t : State) : Prop := exec (.binit d a v chn idx) s = .next (t.wlong (.x d w)).complete
      let made (root : Nat × Nat) : State := s.setBar s.myTid i
        { memb := memb, use := true, chn := chn.toNat, ptid := tid, pidx := Bits par 13 14, pv := Bit par 27, asid := s.myAsid,
          vb := v, root := root }
      (badArg → status 3 s) ∧ (¬badArg → full → status 2 s) ∧
      (¬badArg → ¬full → Bit par 27 = true → ¬parent → status 4 s) ∧
      (¬badArg → ¬full → Bit par 27 = true → parent → status 0 (made p.root)) ∧
      (¬badArg → ¬full → Bit par 27 = false → status 0 (made (s.myTid, i))))

/-- R248-R250, R253: an arrival by BARR, or by BARV with an integer or a contribution to a cell, sets the context's bit and
combines its value.  Where others are missing the context waits; the last arrival at a record with a parent sends the child's
arrival with the value and waits; at a root with children it sends the release that is due 3,000 fabric cycles later; at a
root without, the record starts its next phase and every waiting member is READY with its result: the new phase for BARR, the
combined value, or the readout of the cell by the entry and mode of its BARV, which draws under mode 5. -/
def Rules.BarrierArrivals : Prop :=
  ∀ (s : State) (d a : XReg) (op : AmoOp) (xi : Bool) (k : FReg) (idx : BitVec 14) (j : Instr) (b1 : Bar), s.settled →
    let i := idx.toNat
    let b := s.bar s.myTid i
    let bit := barBit s.cur.id
    let all := b.arr ||| BitVec.ofNat 88 (2 ^ bit)
    let enters : Prop := s.me.answer = .none ∧ s.relGate = .ok () ∧ b.use = true ∧ b.asid = s.myAsid ∧
      s.me.gang.isSome = true ∧ s.cur.id < 2 ^ 20 ∧ idCtx s.cur.id < 11 ∧ b.memb.getLsbD bit = true ∧ b.wt = false ∧ b.fire = false
    let arrives : Prop := (j = .barr d idx ∧ b1 = { b with arr := all }) ∨
      (b.vb = true ∧ j = .barv d a (.int op) idx ∧ (b.vop = 0 ∨ b.vop = amoCode op) ∧
        b1 = { ({ b with arr := all } : Bar).addVal (amoCode op) (s.xval a).toNat with outs := put bit (0, 8) b.outs }) ∨
      (b.vb = true ∧ j = .barv d a (.cell xi k) idx ∧ (b.vop = 0 ∨ b.vop = 9) ∧
        ∃ e rm c, s.cellEntry k.val = .ok e ∧ s.drmOf e 14 = .ok rm ∧
          s.contribution (if xi then .xi else .ent k) (s.xval a) = .ok c ∧
          b1 = { ({ b with arr := all } : Bar).addVal 9 (cellAdd 0 c) with
                 outs := put bit (resolveEntry s.src.nfm (s.ftAt k.val), rm) b.outs })
    let waits (t : State) : Prop := t.me.st = .parked ∧ t.me.wait = .barrier i ∧ t.me.pc = s.cur.pc ∧ sameRegs s.me t.me []
    let drawn (n : Nat) : Bool := (find n b1.outs).any fun o => o.2 == 5
    let result (n : Nat) (c : Ctx) : Word := match find n b1.outs with
      | none => if b.phase then 0 else 1
      | some (e, rm) => if rm = 8 then W b1.value.toNat else
          W (cellRead (if b1.vop = 9 then b1.value.toNat else 0) (fmtOf false e) rm
            (if rm = 5 then icg c.srkey.toNat c.srctr.toNat 0 else 0))
    enters → arrives →
      (all ≠ b.memb ∨ b.cha ≠ b.chn → ∃ t : State, exec j s = .next t ∧ waits t ∧ t.bar s.myTid i = b1 ∧
        (∀ n, n ≠ i → t.bar s.myTid n = s.bar s.myTid n) ∧ t.kids = s.kids ∧ t.trees = s.trees) ∧
      (all = b.memb → b.cha = b.chn → b.pv = true → ∃ t : State, exec j s = .next t ∧ waits t ∧
        t.bar s.myTid i = { b1 with wt := true } ∧ t.trees = s.trees ∧
        t.kids = s.kids ++ [{ ptid := b.ptid, pidx := b.pidx, asid := b.asid, vop := b1.vop, value := b1.value,
                              colour := s.cur.colour, sender := s.myTid }]) ∧
      (all = b.memb → b.cha = b.chn → b.pv = false → b.chn ≠ 0 → ∃ t : State, exec j s = .next t ∧ waits t ∧
        t.bar s.myTid i = { b1 with fire := true } ∧ t.kids = s.kids ∧
        t.trees = s.trees ++ [{ tid := s.myTid, idx := i, value := b1.value, vop := b1.vop, due := s.fab + 3000,
                                colour := s.cur.colour }]) ∧
      (all = b.memb → b.cha = b.chn → b.pv = false → b.chn = 0 → ∃ t : State, exec j s = .next t ∧
        t.bar s.myTid i = { b with phase := !b.phase, arr := 0, cha := 0, value := 0, vop := 0, outs := [] } ∧
        t.kids = s.kids ∧ t.trees = s.trees ∧
        t.me.st = .ready ∧ t.me.answer = .val (result bit s.me) ∧ t.me.pc = s.cur.pc ∧ sameRegs s.me t.me [] ∧
        (∀ n < 88, b.memb.getLsbD n = true →
          let id := ident s.myTid (n / 11) (n % 11)
          let c := s.ctx id
          id ≠ s.cur.id → c.wait = .barrier i → c.answer = .none → c.asid = b.asid → c.st = .parked →
            t.ctx id = { c with st := .ready, answer := .val (result n c),
                                srctr := if drawn n then c.srctr + 1 else c.srctr }))

/-! ### Tasks, gangs and regions (R28, R38-R41, R256-R280) -/

/-- R259: the checks of a header in their order, each with the header as its information word; a supervisor core is a target
for a privileged context alone; a header that passes them all is sent. -/
def Rules.SendChecks : Prop :=
  ∀ (s : State) (h : Word),
    let mbz := Bits h 27 5 ≠ 0 ∨ Bits h 48 16 ≠ 0 ∨ (Bit h 18 = false ∧ Bits h 19 8 ≠ 0)
    let tid := Bits h 0 13
    let known := s.live tid = true
    let super := s.isSuper (tid + Bits h 13 3 * 2 ^ 13) = true ∧ s.priv = false
    let taken := s.tileRight s.myAsid s.myTid tid 28 = true
    let open_ := Bit h 18 = false ∨ (find (Bits h 19 8) (s.space s.myAsid.toNat).regions).isSome = true
    let fault (c : Code) : Prop := s.sendChecks h = .error (.flt { code := c, info := h })
    (mbz → fault .taskMsg) ∧ (¬mbz → ¬known → fault .taskTarget) ∧ (¬mbz → known → super → fault .taskTarget) ∧
    (¬mbz → known → ¬super → ¬taken → fault .taskPerm) ∧
    (¬mbz → known → ¬super → taken → ¬open_ → fault .regionClosed) ∧
    (¬mbz → known → ¬super → taken → open_ → s.sendChecks h = .ok ())

/-- R38, R258, R260, R274, R275, R280: TSEND, TSENDN and TSELF put a message with the sender's ASID, NFM, tile and colour on
its way, counted in its region, and wait; with the answer of the fabric they complete, writing it to X[D]. -/
def Rules.TaskSending : Prop :=
  (∀ (s : State) (d a : XReg) (tgt : BitVec 58) (w : Word), s.me.answer = .val w →
    exec (.tsend d a) s = .next (s.wx d w).complete ∧ exec (.tsendn d a) s = .next (s.wx d w).complete ∧
    exec (.tself d tgt) s = .next (s.wx d w).complete) ∧
  (∀ (s s1 : State) (d a : XReg) (tgt : BitVec 58) (w : Vector Word 8), s.settled → s.me.answer = .none →
    s.relGate = .ok () →
    let sends (i : Instr) (base : State) (w : Vector Word 8) (o : Origin) : Prop :=
      ∃ t : State, exec i s = .next (t.park (.send none)) ∧ t.me = base.me ∧
        (∃ f : Flight, t.flights = base.flights ++ [f] ∧ f.org = o ∧ f.resend = none ∧ f.tid = Bits w[1] 0 13 ∧
          f.msg = { w := w, asid := base.myAsid, nfm := base.src.nfm, sender := base.myTid, colour := base.me.colour,
                    kind := .task }) ∧
        (let k := base.myAsid.toNat * 256 + Bits w[1] 19 8
         let was := getD (0, 0) (base.tile base.myTid).regs k
         Bit w[1] 18 = true → getD (0, 0) (t.tile base.myTid).regs k = ((was.1 + 1) % 2 ^ 32, was.2))
    (s.readRecord (s.xval a) [0, 1, 2] = .ok (w, s1) → s.sendChecks w[1] = .ok () →
      sends (.tsend d a) s1 w (.tsend s1.cur.id) ∧ sends (.tsendn d a) s1 w (.once s1.cur.id)) ∧
    (let h := W (Bits (s.xval 7) 16 32 * 2 ^ 16 + s.myCore)
     let g := (((s.cur.pc >>> 6) + (tgt.extractLsb' 3 55).signExtend 64) <<< 6) + (tgt.setWidth 3).setWidth 64
     s.sendChecks h = .ok () →
      sends (.tself d tgt) s #v[g, h, s.xval 1, s.xval 2, s.xval 3, s.xval 4, s.xval 5, s.xval 6] (.once s.cur.id)))

/-- R259, R274, R275, R277, R278, R280: a record that cannot be read, a header that fails a check and a region's future that
fails one raise that fault, at TSEND, TSENDN, TSELF, GLAUNCH and RGOPEN, and nothing is sent; a fault that the fabric answers
is raised likewise. -/
def Rules.SendFaults : Prop :=
  ∀ (s s1 : State) (d a : XReg) (tgt : BitVec 58) (org : Option XReg) (w : Vector Word 8) (f : Flt), s.settled →
    s.relGate = .ok () →
    let h := W (Bits (s.xval 7) 16 32 * 2 ^ 16 + s.myCore)
    (s.me.answer = .none →
      (s.readRecord (s.xval a) [0, 1, 2] = .error (.flt f) →
        exec (.tsend d a) s = .next (s.raise f) ∧ exec (.tsendn d a) s = .next (s.raise f)) ∧
      (s.readRecord (s.xval a) [0, 1, 2] = .ok (w, s1) → s.sendChecks w[1] = .error (.flt f) →
        exec (.tsend d a) s = .next (s.raise f) ∧ exec (.tsendn d a) s = .next (s.raise f)) ∧
      (s.sendChecks h = .error (.flt f) → exec (.tself d tgt) s = .next (s.raise f))) ∧
    (s.me.answer = .flt f → exec (.tsend d a) s = .next (s.raise f) ∧ exec (.tsendn d a) s = .next (s.raise f) ∧
      exec (.tself d tgt) s = .next (s.raise f)) ∧
    (s.readRecord (s.xval a) [0, 1] = .error (.flt f) → exec (.glaunch d a org) s = .next (s.raise f)) ∧
    (s.futSite s.agent .store (s.xval a) = .error (.flt f) → exec (.rgopen d a) s = .next (s.raise f))

/-- R276: MSEND claims a slot, fills it with its bytes and publishes it, answering 0; a full ring answers 1 under `.try`,
and is waited for otherwise; the slot that it waited for is filled likewise. -/
def Rules.MessageSend : Prop :=
  ∀ (s s1 s2 : State) (d a b : XReg) (tr : Bool) (len : BitVec 12) (tid k i v : Nat), s.settled →
    s.relGate = .ok () → s.msendRing (s.xval a) = .ok (tid, k) →
    let src := s.xval b
    let n := 64 * 2 ^ (s.ring tid k).slotsz
    len.toNat % 8 = 0 → len ≠ 0 → len.toNat ≤ n → src.toNat % 8 = 0 → src.toNat / 2 ^ 60 ≤ 1 →
    let readable : Prop := ∃ p, s.readBytes src (len.toNat / 8) = .ok p
    let r := s.release s.myCore .mo
    let filled (t : State) (i : Nat) : State := (((t.packetTo tid).bankStore tid (k * 2 ^ 17 + i * n) n v).modRing tid k fun q =>
      q.publishSlot i t.src.nfm t.myTid true).wx d 0
    (∀ w, s.me.answer = .val w → s.readBytes src (len.toNat / 8) = .ok (v, s2) →
      exec (.msend d a b tr len) s = .next (filled s2 w.toNat).complete) ∧
    (s.me.answer = .none → readable → (r.ring tid k).freeN ≠ 0 → (r.ring tid k).claims = [] → r.claimNow tid k = some (i, s1) →
      s1.readBytes src (len.toNat / 8) = .ok (v, s2) → (s1.ring tid k).slotsz = (s.ring tid k).slotsz →
      exec (.msend d a b tr len) s = .next (filled s2 i).complete) ∧
    (s.me.answer = .none → (s.ring tid k).freeN = 0 → tr = true → exec (.msend d a b tr len) s = .next (r.wx d 1).complete) ∧
    (s.me.answer = .none → readable → (r.ring tid k).freeN = 0 → tr = false → exec (.msend d a b tr len) s =
      .next ((r.modRing tid k fun q => { q with claims := q.claims ++ [.msend s.cur.id] }).park (.ring tid k)))

/-- R277: GLAUNCH answers 2 for a malformed record, 3 for a rectangle that leaves the grid, 4 for a dark tile in it, 1 when
its admission unit is full, and 0 when it takes the record, which then waits there with its order of arrival; a future of
the record that fails its checks raises their fault. -/
def Rules.GangLaunch : Prop :=
  ∀ (s s1 s2 : State) (d a : XReg) (org : Option XReg) (w0 : Vector Word 8) (fut : Option Nat) (f : Flt), s.settled →
    s.relGate = .ok () → s.readRecord (s.xval a) [0, 1] = .ok (w0, s1) →
    let w := match org with
      | none => w0
      | some b => w0.set 1 (W (w0[1].toNat / 2 ^ 13 * 2 ^ 13 + (s.xval b).toNat % 2 ^ 13))
    let o := Bits w[1] 0 13
    let wd := Bits w[1] 13 4 + 1
    let ht := Bits w[1] 17 4 + 1
    let t := (s2.release s2.myCore .mo).packet
    let malformed := Bits w[1] 35 29 ≠ 0 ∨ Bits w[1] 21 8 = 0 ∨ Bits w[1] 29 4 = 0 ∨ 10 < Bits w[1] 29 4 ∨
      Bits w[2] 0 5 ≠ 0 ∨ t.gangCores w[1] = []
    let inside := o < 8192 ∧ tileX o < 112 ∧ tileX o + wd ≤ 112 ∧ tileY o + ht ≤ 64
    let lit := ∀ x y, x < wd → y < ht → t.live (tidOf (tileX o + x) (tileY o + y)) = true
    let answers (n : Nat) (u : State) : Prop := exec (.glaunch d a org) s = .next (u.wx d (W n)).complete
    (s1.gangFut s.agent w = .error (.flt f) → exec (.glaunch d a org) s = .next (s.raise f)) ∧
    (s1.gangFut s.agent w = .ok (fut, s2) →
    (malformed → answers 2 t) ∧ (¬malformed → ¬inside → answers 3 t) ∧ (¬malformed → inside → ¬lit → answers 4 t) ∧
    (¬malformed → inside → lit → 32 ≤ (t.chip (chipOf o)).gangs.length → answers 1 t) ∧
    (¬malformed → inside → lit → (t.chip (chipOf o)).gangs.length < 32 →
      ∃ u, answers 0 u ∧ u.gangNo = t.gangNo + 1 ∧ u.ctxs = t.ctxs ∧ t.gangNo ∈ (u.chip (chipOf o)).gangs ∧
        ∃ k : Gang, find t.gangNo u.gangs = some k ∧ k.w = w ∧ k.asid = s.myAsid ∧ k.colour = s.me.colour ∧
          k.fut = fut ∧ k.arr = t.fab ∧ k.tries = 0 ∧ k.admitted = false))

/-- R272, R278, R279: RGOPEN takes the lowest free region for an EMPTY future, which it arms, and answers 0x100 when none is
free and 0x200 when the future is not EMPTY; RGCLOSE closes an open region and answers 1 for one that is not open. -/
def Rules.Regions : Prop :=
  (∀ (s s1 : State) (d a : XReg) (pa i : Nat), s.settled → s.relGate = .ok () →
    s.futSite s.agent .store (s.xval a) = .ok (pa, s1) →
    let t := (s1.release s.myCore .mo).pushHome s.myCore (pa / 64)
    let taken (r : Nat) : Prop := (find r (t.space s.myAsid.toNat).regions).isSome = true
    ((∀ r < 256, taken r) → exec (.rgopen d a) s = .next (t.wx d 0x100).complete) ∧
    (i < 256 → ¬taken i → (∀ r < i, taken r) →
      (futAt t pa 0 / 2 ^ 62 ≠ 0 → exec (.rgopen d a) s = .next (t.wx d 0x200).complete) ∧
      (futAt t pa 0 / 2 ^ 62 = 0 → ∃ u : State, exec (.rgopen d a) s = .next (u.wx d (W i)).complete ∧
        futAt u pa 0 = futAt t pa 0 + 2 ^ 62 ∧ u.ctxs = t.ctxs ∧
        ∃ r : Region, find i (u.space s.myAsid.toNat).regions = some r ∧ r.closed = false ∧ r.fut = pa ∧
          r.colour = s.me.colour))) ∧
  (∀ (s : State) (d : XReg) (rid : BitVec 8), s.relGate = .ok () →
    let t := (s.release s.myCore .mo).packet
    let g := find rid.toNat (t.space s.myAsid.toNat).regions
    (g = none → exec (.rgclose d rid) s = .next (t.wx d 1).complete) ∧
    (∀ r, g = some r → ∃ u : State, exec (.rgclose d rid) s = .next (u.wx d 0).complete ∧ u.ctxs = t.ctxs ∧
      ∃ q : Region, find rid.toNat (u.space s.myAsid.toNat).regions = some q ∧ q.closed = true ∧ q.fut = r.fut ∧
        (r.closed = false → q.mark = s.waves)))

/-- R261, R262, R443: a message reaches its target: with room in the run queue, and no earlier one for its core in the tile's
overflow store, it is the queue's last entry; otherwise it goes behind the overflow, and where the tile is frozen for its
ASID, into the NI image; either way the sender has status 0.  A full target, or one that is closed to the ASID, leaves TSEND's message to be
resent 256 cycles later, and TSENDN's is dropped with status 1.  A resend comes when its time has. -/
def Rules.MessageArrival : Prop :=
  (∀ (s : State) (f : Flight) (id : Nat), s.flights[s.cur.u]? = some f → f.resend = none →
    s.mustFollow s.cur.u f = false → s.forwardOf f.tid f.msg = none →
    let core := f.tid + Bits f.msg.w[1] 13 3 * 2 ^ 13
    let closed := (s.tile f.tid).closed.contains f.msg.asid.toNat = true
    let frozen := (s.tile f.tid).frozen.contains f.msg.asid.toNat = true
    let direct := (s.core core).queue.length < 64 ∧ ∀ o ∈ (s.tile f.tid).ovr, Bits o.w[1] 13 3 ≠ Bits f.msg.w[1] 13 3
    let room := ¬closed ∧ ¬frozen ∧ direct
    let spill := ¬closed ∧ ¬frozen ∧ ¬direct ∧ (s.tile f.tid).ovr.length < 256
    let image := ¬closed ∧ frozen
    let full := closed ∨ (¬frozen ∧ ¬direct ∧ 256 ≤ (s.tile f.tid).ovr.length)
    (spill → f.org = .tsend id ∨ f.org = .once id → (s.ctx id).st = .parked →
      ∃ t : State, exec .taskMessageArrival s = .next t ∧ (t.tile f.tid).ovr = (s.tile f.tid).ovr ++ [f.msg] ∧
        t.cores = s.cores ∧ t.flights = dropNth s.flights s.cur.u ∧ (t.ctx id).st = .ready ∧ (t.ctx id).answer = .val 0) ∧
    (image → f.org = .tsend id ∨ f.org = .once id → (s.ctx id).st = .parked →
      ∃ t : State, exec .taskMessageArrival s = .next t ∧ (t.tile f.tid).img = (s.tile f.tid).img ++ [f.msg] ∧
        (t.tile f.tid).ovr = (s.tile f.tid).ovr ∧ t.cores = s.cores ∧ t.flights = dropNth s.flights s.cur.u ∧
        (t.ctx id).st = .ready ∧ (t.ctx id).answer = .val 0) ∧
    (room → f.org = .tsend id ∨ f.org = .once id → (s.ctx id).st = .parked →
      ∃ t : State, exec .taskMessageArrival s = .next t ∧ (t.core core).queue = (s.core core).queue ++ [f.msg] ∧
        t.flights = dropNth s.flights s.cur.u ∧ (t.ctx id).st = .ready ∧ (t.ctx id).answer = .val 0) ∧
    (full → f.org = .tsend id → ∃ t : State, exec .taskMessageArrival s = .next t ∧ t.cores = s.cores ∧
      t.flights = setNth s.flights s.cur.u { f with resend := some (s.fab + 256) } ∧
      (t.ctx id).wait = .send (some (s.fab + 256))) ∧
    (full → f.org = .once id → ∃ t : State, exec .taskMessageArrival s = .next t ∧ t.cores = s.cores ∧
      t.flights = dropNth s.flights s.cur.u ∧ (t.ctx id).answer = .val 1)) ∧
  (∀ (s : State) (f : Flight) (due id key : Nat), s.flights[s.cur.u]? = some f → f.resend = some due → due ≤ s.fab →
    let again := setNth s.flights s.cur.u { f with resend := none, tid := Bits f.msg.w[1] 0 13 }
    (f.org = .tsend id → exec .tsendResend s =
      .next (({ s with flights := again }).modCtx id fun c => { c with wait := .send none })) ∧
    (f.org = .unit key → exec .deferredResend s = .next { s with flights := again })) ∧
  (∀ (s : State) (m : Msg) (due : Nat) (r : List (Msg × Nat)), (s.chip s.cur.u).fwait = (m, due) :: r → due ≤ s.fab →
    (s.chip s.cur.u).fq.length < 64 →
    ∃ t : State, exec .faultMessageResend s = .next t ∧ (t.chip s.cur.u).fq = (s.chip s.cur.u).fq ++ [m] ∧
      (t.chip s.cur.u).fwait = r ∧ t.ctxs = s.ctxs)

/-- R28, R163, R264, R265, R421, R426: a core whose control context is free takes the oldest message of its queue, and the
context starts: PC, x1-x6 and x7 from the message, every other register 0, the table and the ASID of the envelope.  A message
of an unbound ASID raises ASID_UNBOUND with the message carried; one whose NFM is not its profile's, or whose entry is no
legal target, faults the context before its first issue. -/
def Rules.TaskStart : Prop :=
  (∀ (s : State) (m : Msg) (r : List Msg),
    let core := s.cur.u
    let tid := idTid core
    s.live tid = true → s.isSuper core = false → (s.ctx (ctxOn core 0)).st = .free → (s.core core).drain = none →
    (s.core core).qrest = [] → (s.core core).queue = m :: r → (s.space m.asid.toNat).susp = false →
    (s.tile tid).frozen = [] → m.kind = .task →
    let t := (s.modCore core fun c => { c with queue := r }).refillQueue core
    ((s.space m.asid.toNat).prof.isSome = true → exec .taskDequeue s = .next (t.startTask core m)) ∧
    ((s.space m.asid.toNat).prof = none → exec .taskDequeue s = .next (t.sendCarry (chipOf tid)
      { code := .asidUnbound, info := t.openWord } { src := 5, tid := tid, core := idCore core, asid := m.asid } m.w))) ∧
  (∀ (s : State) (core : Nat) (m : Msg) (f : Flt),
    let id := ctxOn core 0
    let b := s.startBanks core m.w[0]
    let q := (b.setCtx id (b.taskCtx core m)).acquire core .mo
    let word := W (m.sender + b2n m.nfm * 2 ^ 13 + b2n (s.profNfm m.asid) * 2 ^ 14)
    let mismatch : Flt := { code := .formatMismatch, info := word }
    (m.nfm ≠ s.profNfm m.asid → s.startTask core m = q.halted id mismatch false 0 ∧
      ((s.startTask core m).ctx id).st = .faulted ∧ ((s.startTask core m).ctx id).pc = m.w[0]) ∧
    (m.nfm = s.profNfm m.asid → q.legal core m.asid m.w[0] 0 = .error (.flt f) → s.startTask core m = q.raiseAt id f ∧
      (q.pagerFor id f = none →
        ((s.startTask core m).ctx id).st = .faulted ∧ ((s.startTask core m).ctx id).pc = m.w[0]))) ∧
  (∀ (s t : State) (core : Nat) (m : Msg), m.nfm = s.profNfm m.asid →
    let id := ctxOn core 0
    let b := s.startBanks core m.w[0]
    ((b.setCtx id (b.taskCtx core m)).acquire core .mo).legal core m.asid m.w[0] 0 = .ok t →
    s.startTask core m = t ∧
    (let c := t.ctx id
     c.st = .ready ∧ c.pc = m.w[0] ∧ c.x.get 1 = m.w[2] ∧ c.x.get 2 = m.w[3] ∧ c.x.get 3 = m.w[4] ∧ c.x.get 4 = m.w[5] ∧
     c.x.get 5 = m.w[6] ∧ c.x.get 6 = m.w[7] ∧ c.x.get 7 = m.w[1] ∧ (∀ r : XReg, 7 < r.val → c.x.get r = 0) ∧
     (∀ r : PReg, c.p.get r = false) ∧ (∀ r : VReg, c.v.get r = 0) ∧ c.asid = m.asid ∧ c.colour = m.colour ∧
     c.nfm = s.profNfm m.asid ∧ c.cls.toNat = Bits m.w[1] 16 2 ∧ c.child = 0 ∧ c.l0 = {} ∧ c.l1 = {} ∧
     (∀ k (h : k < 24), c.ft[k].toNat = s.profField m.asid (1024 + 128 * k) 128) ∧
     c.region = (if Bit m.w[1] 18 then some (BitVec.ofNat 8 (Bits m.w[1] 19 8)) else none)))

/-- R36, R269, R270: the attempt of a waiting gang, when no earlier one with which it competes is due: when each of its cores
has helpers enough, every member starts with its rank and arguments and the gang leaves the unit; otherwise it is counted,
and after 50 microseconds its cores drain for it. -/
def Rules.GangAdmission : Prop :=
  ∀ (s : State) (k : Gang),
    let g := s.cur.u
    let cores := s.gangCores k.w[1]
    let hlp := Bits k.w[1] 29 4
    find g s.gangs = some k → k.admitted = false → k.arr + k.tries * 2000 ≤ s.fab → s.gangWaits g k = false →
    let enough := ∀ c ∈ cores, hlp ≤ (s.gangFree c g).length ∧ s.halts (idTid c) k.asid = false
    (enough → exec .gangAdmissionAttempt s = .next (s.admitGang g k cores)) ∧
    (¬enough → s.fab < k.arr + 100000 → exec .gangAdmissionAttempt s =
      .next { s with gangs := put g { k with tries := k.tries + 1 } s.gangs }) ∧
    (¬enough → k.arr + 100000 ≤ s.fab → exec .gangAdmissionAttempt s =
      .next (cores.foldl (fun t c => t.drainFor c (g, k))
        { s with gangs := put g { k with tries := k.tries + 1, drains := true } s.gangs })) ∧
    (∀ (t : State) (c h n : Nat),
      let x := (((((((Vector.replicate 64 (0 : Word)).set 1 k.w[3]).set 2 k.w[4]).set 3 k.w[5]).set 4 k.w[6]).set 5
        k.w[7]).set 6 (W n)).set 7 k.w[1]
      let m : Ctx :=
        { st := .ready, pc := k.w[0], x := x, ft := profileTable s k.asid, nfm := s.profNfm k.asid, colour := k.colour,
          cls := BitVec.ofNat 2 (Bits k.w[1] 33 2), srctr := BitVec.ofNat 128 (n * 2 ^ 64), asid := k.asid,
          gang := some (g, n), gap := (s.core c).cyc + 1 }
      ((s.setCtx (ctxOn c h) m).acquire c .mo).legal c k.asid k.w[0] 0 = .ok t → s.startMember g k c h n = t)

/-- R39, R40, R41: a gleaner wave comes when its 4 microseconds have passed (8,000 fabric cycles); it counts one more wave and resolves a closed region whose totals agree, and did in the wave
before it, both begun after its RGCLOSE; any other region stays, with its totals noted. -/
def Rules.GleanerWave : Prop :=
  ∀ (s : State) (a rid : Nat) (r : Region), (s.space a).regions = [(rid, r)] → s.spaces = [(a, s.space a)] →
    let w := s.waves + 1
    let tot := s.regionTotals a rid
    let quiet := r.closed = true ∧ tot.1 = tot.2 ∧ r.mark + 1 < w ∧ r.prev = some (w - 1, tot.1, tot.2)
    (s.fab < 8000 * w → exec .gleanerWave s = .next s) ∧
    (8000 * w ≤ s.fab → ∃ t : State, exec .gleanerWave s = .next t ∧ t.waves = w ∧ t.ctxs = s.ctxs ∧
      (quiet → find rid (t.space a).regions = none ∧ (futAt s r.fut 0 / 2 ^ 62 < 2 → futAt s r.fut 0 % 2 ^ 32 = 0 → futAt t r.fut 0 / 2 ^ 62 = 2)) ∧
      (¬quiet → find rid (t.space a).regions = some { r with prev := some (w, tot.1, tot.2) } ∧ t.mem = s.mem))

/-! ### Formats (R149-R174) -/

/-- R168-R170: FTSET and FTGEN write one entry of ft8-ft31 and no other; FTGET reads one, fixed entries included; FTGEN
builds the entry of its family; NFMSET sets NFM.  No other register and no byte changes. -/
def Rules.FormatTable : Prop :=
  ∀ (s : State) (f : FReg) (a d : XReg) (p : Fin 8) (u noinf ctx sat n : Bool), s.settled →
    let sets (i : Instr) (e : EntryBits → Prop) : Prop :=
      ∃ t : State, exec i s = .next t.complete ∧ t.mem = s.mem ∧ t.cores = s.cores ∧ sameRegs s.me t.me [] ∧
        t.me.nfm = s.me.nfm ∧ (∀ c, c ≠ s.cur.id → t.ctx c = s.ctx c) ∧ e (t.ftAt f.val) ∧
        ∀ g : Nat, g < 32 → g ≠ f.val → t.ftAt g = s.ftAt g
    (8 ≤ f.val → sets (.ftset f a) (fun e => e = s.xval (xnext a) ++ s.xval a)) ∧
    (8 ≤ f.val → 1 ≤ p.val → (u = true ∨ p.val ≤ 7) → sets (.ftgen f p u noinf ctx sat) (fun e =>
      eF e 0 2 = 0 ∧ eF e 2 1 = (if u then 0 else 1) ∧ eF e 3 6 = 8 ∧ eF e 9 4 = (if u then 9 else 8) - p.val ∧
      eF e 13 6 = p.val - 1 ∧ eF e 20 16 = 2 ^ ((if u then 8 else 7) - p.val) ∧
      eF e 36 2 = (if ctx then 3 else if noinf then 2 else 1) ∧ eF e 38 2 = (if sat || noinf then 0 else 1) ∧
      eF e 40 1 = 1 ∧ eF e 41 2 = 0 ∧ eF e 48 3 = 0)) ∧
    exec (.ftget d f) s = .next ((s.wx d ((s.ftAt f.val).setWidth 64)).wx (xnext d) ((s.ftAt f.val).extractLsb' 64 64)).complete ∧
    (∃ t : State, exec (.nfmset n) s = .next t.complete ∧ t.me.nfm = n ∧ sameRegs s.me t.me [] ∧ t.mem = s.mem ∧
      t.me.ft = s.me.ft)

/-- R58, R152, R161, R171: CVT through legal unscaled entries decodes its source exactly and rounds it once; `.xi` reads an
integer and `.xo` rounds to one of its type, with 0 for a NaN; under RM 5 SRCTR advances by one.  A reserved rounding mode, a
malformed entry and a scaled one raise their faults (that they are checked in this order is the model's choice, log 76). -/
def Rules.ScalarConvert : Prop :=
  (∀ (s : State) (d a : XReg) (x y : FReg) (ty : Ty) (rm : Rm) (r : Nat) (fx fy : Fmt), s.settled →
    s.rmOf rm 10 = .ok r → s.useEntry x.val = .ok fx → s.useEntry y.val = .ok fy → fx.blk = 0 → fy.blk = 0 →
    let u := s.draw r 0
    let out (w : Word) : Host.Outcome State Fault Refusal := .next ((s.wlat 4 (.x d w)).advanceRm r 1).complete
    exec (.cvt d a (.fmt x y) rm) s = out (W (fx.round r u (fy.decode (s.xval a).toNat))) ∧
    exec (.cvt d a (.xi ty x) rm) s = out (W (fx.round r u (.fin (Dy.ofInt (valTy ty (s.xval a)))))) ∧
    exec (.cvt d a (.xo ty y) rm) s =
      out (BitVec.ofInt 64 (roundToInt r u (loTy ty) (hiTy ty) (fy.decode (s.xval a).toNat)))) ∧
  (∀ (s : State) (d a : XReg) (x y : FReg) (ty : Ty) (rm : Rm) (r : Nat) (f : Flt) (fx fy : Fmt), s.settled →
    let no (op : CvtOp) (g : Flt) : Prop := exec (.cvt d a op rm) s = .next (s.raise g)
    let kind (k : FReg) : Flt := { code := .entryKind, info := W k.val }
    (s.rmOf rm 10 = .error (.flt f) → no (.fmt x y) f ∧ no (.xi ty x) f ∧ no (.xo ty y) f) ∧
    (s.rmOf rm 10 = .ok r →
      (s.useEntry x.val = .error (.flt f) → no (.fmt x y) f ∧ no (.xi ty x) f) ∧
      (s.useEntry x.val = .ok fx → fx.blk ≠ 0 → no (.fmt x y) (kind x) ∧ no (.xi ty x) (kind x)) ∧
      (s.useEntry y.val = .error (.flt f) → no (.xo ty y) f ∧
        (s.useEntry x.val = .ok fx → fx.blk = 0 → no (.fmt x y) f)) ∧
      (s.useEntry y.val = .ok fy → fy.blk ≠ 0 → no (.xo ty y) (kind y) ∧
        (s.useEntry x.val = .ok fx → fx.blk = 0 → no (.fmt x y) (kind y)))))

/-- R172: VCVT between unscaled entries: element e of the narrower side stands at e + part x E; an active element gets the
source decoded exactly and rounded once; the others keep VD.  A part that does not exist raises ENTRY_KIND. -/
def Rules.VectorConvert : Prop :=
  ∀ (s : State) (d a c : VReg) (mk : PReg) (ft src : FReg) (rm : Rm) (part : Fin 8) (r : Nat) (fd fs : Fmt), s.settled →
    s.rmOf rm 48 = .ok r → s.useEntry ft.val = .ok fd → s.useEntry src.val = .ok fs → fd.blk = 0 → fs.blk = 0 →
    fd.cbits ∈ [8, 16, 32, 64] → fs.cbits ∈ [8, 16, 32, 64] →
    let wide := max fs.cbits fd.cbits
    let E := 1024 / wide
    let q := wide / min fs.cbits fd.cbits
    let si (e : Nat) : Nat := if fs.cbits < fd.cbits then e + part.val * E else e
    let di (e : Nat) : Nat := if fd.cbits < fs.cbits then e + part.val * E else e
    (q ≤ part.val → exec (.vcvt d a c mk ft rm src part) s = .next (s.raise { code := .entryKind, info := W ft.val })) ∧
    (part.val < q → ∃ v, exec (.vcvt d a c mk ft rm src part) s =
        .next ((s.wlat 4 (.v d v)).advanceRm r E).complete ∧
      (∀ e, e < E → (s.kval mk).getLsbD e = true → lane fd.cbits v (di e) = BitVec.ofNat fd.cbits
        (fd.round r (s.draw r e) (fs.decode (lane fs.cbits (s.vval a) (si e)).toNat))) ∧
      ∀ o, o < 1024 / fd.cbits → (∀ e, e < E → (s.kval mk).getLsbD e = true → di e ≠ o) →
        lane fd.cbits v o = lane fd.cbits (s.vval d) o)

/-- R173: VCVT to a scaled destination of the source's width: each block with an active element takes the scale of R173, its
elements are the quotients rounded once, the scale code goes to its byte of VC, and the other bytes of VC are kept.
Where VC is VD, VD is written and VC over it, which is the model's choice (log 77); RM is checked before the entries (log
76). -/
def Rules.ScaledConvert : Prop :=
  ∀ (s : State) (d a c : VReg) (mk : PReg) (ft src : FReg) (rm : Rm) (r : Nat) (fd fs : Fmt), s.settled →
    s.rmOf rm 48 = .ok r → s.useEntry ft.val = .ok fd → s.useEntry src.val = .ok fs → fd.blk ∈ [16, 32, 64] → fs.blk = 0 →
    fd.cbits = fs.cbits → fd.cbits ∈ [8, 16] →
    let n := fd.cbits
    let E := 1024 / n
    let sc := fmtOf s.me.nfm (s.ftAt fd.scent)
    let x (e : Nat) : Machine.Num := fs.decode (lane n (s.vval a) e).toNat
    let on (e : Nat) : Bool := (s.kval mk).getLsbD e
    let block (b : Nat) : List Machine.Num := (((List.range E).filter on).filter fun e => e / fd.blk == b).map x
    ∃ v w, exec (.vcvt d a c mk ft rm src 0) s = .next (((s.wlat 4 (.v d v)).wlat 4 (.v c w)).advanceRm r E).complete ∧
      (∀ e, e < E → lane n v e = if on e then BitVec.ofNat n (fd.round r (s.draw r e)
        ((x e).div (sc.decode (blockScale fd sc (block (e / fd.blk)))))) else lane n (s.vval d) e) ∧
      ∀ b, b < 128 → lane 8 w b = if block b = [] ∨ E / fd.blk ≤ b then lane 8 (s.vval c) b
        else BitVec.ofNat 8 (blockScale fd sc (block b))

/-- R158, R172, R173: VCVT between any two legal entries, of whatever widths and blocks: the source elements take the scale of
their byte of VC, each block of the destination with an active element its own scale, in its byte of VC; the other elements of
VD and bytes of VC are kept.  A part that does not exist, and a block wider than the elements converted, raise ENTRY_KIND.
Where VC is VD, VD is written and VC over it, which is the model's choice (log 77); the order of the checks is too (log 76). -/
def Rules.BlockConvert : Prop :=
  ∀ (s : State) (d a c : VReg) (mk : PReg) (ft src : FReg) (rm : Rm) (part : Fin 8) (r : Nat) (fd fs : Fmt), s.settled →
    s.rmOf rm 48 = .ok r → s.useEntry ft.val = .ok fd → s.useEntry src.val = .ok fs → fd.blk ∈ [0, 16, 32, 64] →
    fs.blk ∈ [0, 16, 32, 64] → fd.cbits ∈ [8, 16, 32, 64] → fs.cbits ∈ [8, 16, 32, 64] →
    let wide := max fs.cbits fd.cbits
    let E := 1024 / wide
    let q := wide / min fs.cbits fd.cbits
    let si (e : Nat) : Nat := if fs.cbits < fd.cbits then e + part.val * E else e
    let di (e : Nat) : Nat := if fd.cbits < fs.cbits then e + part.val * E else e
    let from_ := fmtOf s.me.nfm (s.ftAt fs.scent)
    let to_ := fmtOf s.me.nfm (s.ftAt fd.scent)
    let x (e : Nat) : Machine.Num :=
      let v := fs.decode (lane fs.cbits (s.vval a) (si e)).toNat
      if fs.blk = 0 then v else scaled v (from_.decode (lane 8 (s.vval c) (si e / fs.blk)).toNat)
    let on (e : Nat) : Bool := (s.kval mk).getLsbD e
    let block (b : Nat) : List Machine.Num := (((List.range E).filter on).filter fun e => di e / fd.blk == b).map x
    (E < fd.blk ∨ q ≤ part.val →
      exec (.vcvt d a c mk ft rm src part) s = .next (s.raise { code := .entryKind, info := W ft.val })) ∧
    (fd.blk ≤ E → part.val < q → ∃ v w, exec (.vcvt d a c mk ft rm src part) s =
        .next ((if fd.blk = 0 then s.wlat 4 (.v d v) else (s.wlat 4 (.v d v)).wlat 4 (.v c w)).advanceRm r E).complete ∧
      (∀ e, e < E → on e = true → lane fd.cbits v (di e) = BitVec.ofNat fd.cbits (fd.round r (s.draw r e)
        (if fd.blk = 0 then x e else (x e).div (to_.decode (blockScale fd to_ (block (di e / fd.blk))))))) ∧
      (∀ o, o < 1024 / fd.cbits → (∀ e, e < E → on e = true → di e ≠ o) → lane fd.cbits v o = lane fd.cbits (s.vval d) o) ∧
      (fd.blk ≠ 0 → ∀ b, b < 128 → lane 8 w b =
        if block b = [] then lane 8 (s.vval c) b else BitVec.ofNat 8 (blockScale fd to_ (block b))))

/-- R174: VPACK moves the low WIDTH bits of each element to their place and keeps the other bits of VD; VUNPK moves them
back, zero-extended; a part that does not fit raises ENTRY_KIND. -/
def Rules.Packing : Prop :=
  ∀ (s : State) (d a : VReg) (ft : FReg) (part : Fin 8) (f : Fmt), s.settled → s.useEntry ft.val = .ok f →
    f.cbits ∈ [8, 16, 32, 64] → 1 ≤ f.width → f.width ≤ f.cbits →
    let E := 1024 / f.cbits
    let w := f.width
    let g := part.val
    (1024 < (g + 1) * E * w →
      exec (.vpack d a ft part) s = .next (s.raise { code := .entryKind, info := W ft.val }) ∧
      exec (.vunpk d a ft part) s = .next (s.raise { code := .entryKind, info := W ft.val })) ∧
    ((g + 1) * E * w ≤ 1024 →
      (∃ v, exec (.vpack d a ft part) s = .next (s.wr (.v d v)).complete ∧
        ∀ k, k < 1024 → v.getLsbD k =
          if w * g * E ≤ k ∧ k < w * (g * E + E) then
            (s.vval a).getLsbD (f.cbits * ((k - w * g * E) / w) + (k - w * g * E) % w)
          else (s.vval d).getLsbD k) ∧
      (∃ v, exec (.vunpk d a ft part) s = .next (s.wr (.v d v)).complete ∧
        ∀ e, e < E → lane f.cbits v e = ((s.vval a).extractLsb' (w * (g * E + e)) w).setWidth f.cbits))

/-! ### Jobs (R281-R309) -/

/-- R164, R281, R282, R303, R376: MJOB raises the fault of the first check that fails, in the order of R303, with the check
of a bound job after check 6; a descriptor that passes them puts the job into the lowest free slot of its tile's table with
its snapshots and future, READY when it has no input, and returns its id; a full table returns 0.  A bound job is tagged with
its entry, which counts it, and the bind is consumed; a failing or a refused one keeps it. -/
def Rules.JobSubmission : Prop :=
  (∀ (s : State) (d a : XReg) (c : PReg) (k : JobKind) (f : Flt), s.settled → s.relGate = .ok () →
    s.readDesc (s.xval a) = .error (.flt f) → exec (.mjob d a c k) s = .next (s.raise f)) ∧
  ∀ (s s1 s2 : State) (d a : XReg) (c : PReg) (k : JobKind) (w : BitVec 512) (ents : List Snap) (fut : Option Nat),
    s.settled → s.relGate = .ok () → s.readDesc (s.xval a) = .ok (w, s1) →
    let tid := s.myTid
    let t := s2.release s2.myCore .ti
    (kindOk (tileKind tid) k = false →
      exec (.mjob d a c k) s = .next (s.raise { code := .jobKind, info := W (kindNum k) })) ∧
    (kindOk (tileKind tid) k = true → ∀ p, s.descBad tid s.myAsid k w (s.foBytes k w) = some p →
      exec (.mjob d a c k) s = .next (s.raise { code := .jobDesc, info := W p })) ∧
    (kindOk (tileKind tid) k = true → s.descBad tid s.myAsid k w (s.foBytes k w) = none →
      (∀ f, s.snapJob k w = .error (.flt f) → exec (.mjob d a c k) s = .next (s.raise f)) ∧
      (s.snapJob k w = .ok ents → ∀ f, s1.jobTargets tid s.myAsid w = .error (.flt f) →
        exec (.mjob d a c k) s = .next (s.raise f)) ∧
      (s.snapJob k w = .ok ents → s1.jobTargets tid s.myAsid w = .ok (fut, s2) →
        (∀ b p, s.me.bind = some b → s.arcBreach k w = some p →
          exec (.mjob d a c k) s = .next (s.raise { code := .arcDesc, info := W p })) ∧
        (s.me.bind = none ∨ s.arcBreach k w = none → 5 ≤ s.resolveOrm k w ents →
          exec (.mjob d a c k) s = .next (s.raise { code := .jobDesc, info := 349 })) ∧
        (∀ b, s.me.bind = some b → s.arcBreach k w = none → s.resolveOrm k w ents < 5 →
          (t.freeJob tid = none →
          exec (.mjob d a c k) s = .next (((t.kick tid 0 w.toNat).wx d 0).wr (.p c false)).complete) ∧
          (∀ i, t.freeJob tid = some i →
            let id := ((t.tile tid).slot i).gen % 1023 + 1 + i * 2 ^ 10
            ∃ n : State, exec (.mjob d a c k) s = .next ((n.wx d (W id)).wr (.p c true)).complete ∧ n.me.bind = none ∧
              (w.toNat / 2 ^ 424 % 2 ^ 80 = 0 →
                (getD ({} : Arc) (n.tile tid).eng.arcs b.ent).busy = (getD ({} : Arc) (t.tile tid).eng.arcs b.ent).busy + 1 ∧
                ∃ j : Job, ((n.tile tid).slot i).job = some j ∧ j.st = .ready ∧ j.arc = some (s.arcOf k w b) ∧
                  j.kind = k ∧ j.desc = w ∧ j.ents = ents ∧ j.fut = fut))))) ∧
    (kindOk (tileKind tid) k = true → s.descBad tid s.myAsid k w (s.foBytes k w) = none → s.snapJob k w = .ok ents →
      s1.jobTargets tid s.myAsid w = .ok (fut, s2) → s.me.bind = none → s.resolveOrm k w ents < 5 →
      (t.freeJob tid = none →
          exec (.mjob d a c k) s = .next (((t.kick tid 0 w.toNat).wx d 0).wr (.p c false)).complete) ∧
      (∀ i, t.freeJob tid = some i →
        let id := ((t.tile tid).slot i).gen % 1023 + 1 + i * 2 ^ 10
        ∃ n : State, exec (.mjob d a c k) s = .next ((n.wx d (W id)).wr (.p c true)).complete ∧
          (w.toNat / 2 ^ 424 % 2 ^ 80 = 0 → n.ctxs = t.ctxs ∧ n.mem = t.mem ∧ n.arms = t.arms ++ fut.toList ∧
            ((n.tile tid).slot i).gen = ((t.tile tid).slot i).gen % 1023 + 1 ∧
            ∃ j : Job, ((n.tile tid).slot i).job = some j ∧ j.st = .ready ∧ j.kind = k ∧ j.desc = w ∧
              j.asid = s.myAsid ∧ j.sub = s.cur.id ∧ j.ents = ents ∧ j.fut = fut ∧ j.beats = 0)))

/-- R304: MJOBR sends its request to the target tile and is held at issue; with the target's answer it completes, its id in
X[D] and P[C].  The target refuses a capability that does not hold with JOB_CAP. -/
def Rules.RemoteJobs : Prop :=
  (∀ (s : State) (d a b : XReg) (c : PReg) (k : JobKind) (v : Word), s.me.answer = .val v →
    exec (.mjobr d a b c k) s = .next ((s.wx d v).wr (.p c (v != 0))).complete) ∧
  (∀ (s s1 : State) (d a b : XReg) (c : PReg) (k : JobKind) (w : BitVec 512) (ents : List Snap), s.settled →
    s.me.answer = .none → s.relGate = .ok () → s.readDesc (s.xval a) = .ok (w, s1) → s.snapJob k w = .ok ents →
    (s.xval (xnext a)).toNat / 2 ^ 13 = 0 → s.live (s.xval (xnext a)).toNat = true →
    ∃ (t : State) (r : RemoteJob), exec (.mjobr d a b c k) s = .next (t.park .held) ∧
      t.rjobs = s1.rjobs ++ [r] ∧ r.tid = (s.xval (xnext a)).toNat ∧ r.kind = k ∧ r.desc = w ∧ r.ents = ents ∧
      r.cap = s.xval b ∧ r.sub = s.cur.id) ∧
  (∀ (s : State) (r : RemoteJob), s.rjobs[s.cur.u]? = some r →
    let t : State := { ((s.uninject (idTid r.sub) r.colour).dlv r.tid r.colour) with rjobs := dropNth s.rjobs s.cur.u }
    let a := t.workFor r.sub r.colour
    (∀ id u, a.admitRemote r = .ok (id, u) → exec .remoteJobArrival s = .next (u.answer r.id (.val (W id)))) ∧
    (∀ f, a.admitRemote r = .error (.flt f) → exec .remoteJobArrival s = .next (t.answer r.id (.flt f))) ∧
    (t.capOk r.cap r.tid r.kind = false →
      exec .remoteJobArrival s = .next (t.answer r.id (.flt { code := .jobCap, info := t.openWord }))))

/-- R305-R309: JPOLL and JWAIT of a live job answer 0x100 and wait; of one that is over they acquire at its scope and give
its status, 3 when the table has forgotten it.  JCANC ends a live job with JOB_CANCELLED.  MCAP makes a capability.  TOPKRD
reads one entry of the top-k state.
JCANC only marks the job, whose completion is a later event: the model's reading (log 49). -/
def Rules.JobControl : Prop :=
  ∀ (s : State) (d a : XReg) (slot gen : Nat) (j : Job), s.settled → s.jobId (s.xval a) = .ok (slot, gen) →
    let t := s.tile s.myTid
    let k := t.slot slot
    let isLive := k.job.isSome = true ∧ k.gen = gen
    (isLive → exec (.jpoll d a) s = .next (s.wx d 0x100).complete ∧
      exec (.jwait d a) s = .next (s.park (.job (s.myTid + slot * 2 ^ 13 + gen * 2 ^ 19)))) ∧
    (¬isLive → k.mgen = gen →
      let u := (s.acquire s.myCore (if k.mcs = 1 then .ti else if k.mcs = 2 then .mo else .sy)).wx d (W k.mst)
      exec (.jpoll d a) s = .next u.complete ∧ exec (.jwait d a) s = .next u.complete) ∧
    (¬isLive → k.mgen ≠ gen →
      let u := (s.acquire s.myCore .sy).wx d 3
      exec (.jpoll d a) s = .next u.complete ∧ exec (.jwait d a) s = .next u.complete) ∧
    (¬isLive → exec (.jcanc d a) s = .next (s.wx d 2).complete) ∧
    (isLive → k.job = some j → j.ovr = true → exec (.jcanc d a) s = .next (s.wx d 2).complete) ∧
    (isLive → k.job = some j → j.ovr = false →
      let run := if j.st = .running then 1 else 0
      ∃ u : State, exec (.jcanc d a) s = .next (u.wx d (W run)).complete ∧ u.ctxs = s.ctxs ∧ u.mem = s.mem ∧
        ((u.tile s.myTid).slot slot).job =
          some { j with ovr := true, stop := some { code := .jobCancelled, info := W run } })

/-- R288, R307-R309: JSTAT reads a slot's state and the number of free slots, and for the executing ASID its kind,
generation and waiting inputs; MCAP builds a capability of its rectangle and rights with the profile's tag; TOPKRD reads
one entry, or zeros. -/
def Rules.JobQueries : Prop :=
  (∀ (s : State) (d a : XReg), s.settled →
    let t := s.refreshJobs s.myTid
    let k := (t.tile s.myTid).slot ((s.xval a).toNat % 64)
    let free := ((List.range 64).filter fun i => ((t.tile s.myTid).slot i).job.isNone).length
    ∃ n, exec (.jstat d a) s = .next (t.wx d (W (n + free * 2 ^ 32))).complete ∧
      (k.job = none → n % 4 = 0) ∧
      (∀ j, k.job = some j → n % 4 = (match j.st with | .waiting => 1 | .ready => 2 | .running => 3)) ∧
      (∀ j, k.job = some j → j.asid ≠ s.myAsid → s.priv = false → n < 4) ∧
      (∀ j, k.job = some j → j.asid = s.myAsid → k.mkind < 2 ^ 6 → k.gen < 2 ^ 10 →
        n / 2 ^ 2 % 2 ^ 6 = k.mkind ∧ n / 2 ^ 8 % 2 ^ 10 = k.gen ∧ n / 2 ^ 18 % 2 ^ 10 = s.myAsid.toNat)) ∧
  (∀ (s : State) (d a : XReg) (rights : Fin 8), s.settled → rights.val ≠ 0 → (s.xval a).toNat < 2 ^ 13 →
    (s.xval (xnext a)).toNat < 2 ^ 13 →
    let low := (s.xval a).toNat + (s.xval (xnext a)).toNat * 2 ^ 13 + s.myAsid.toNat * 2 ^ 26 + rights.val * 2 ^ 36
    exec (.mcap d a rights) s =
      .next (s.wx d (W (low + icg (s.profField s.myAsid 64 64) low 0 % 2 ^ 24 * 2 ^ 40))).complete) ∧
  (∀ (s : State) (d a : XReg), s.settled → tileKind s.myTid = .d ∨ tileKind s.myTid = .a → (s.xval a).toNat < 2 ^ 12 →
    let k := (s.tile s.myTid).topk
    let e := (getD [] k.rows ((s.xval a).toNat % 2 ^ 9))[(s.xval a).toNat / 2 ^ 9]?
    (s.topkPending s.cur.id = true → exec (.topkrd d a) s = .next (s.park (.topk s.cur.id))) ∧
    (s.topkPending s.cur.id = false → k.asid = none ∨ k.asid = some s.myAsid →
      (e = none → exec (.topkrd d a) s = .next ((s.wx d 0).wx (xnext d) 0).complete) ∧
      (∀ x, e = some x → exec (.topkrd d a) s =
        .next ((s.wx d (x.raw ++ x.key)).wx (xnext d) (W (x.col + 2 ^ 16))).complete)))

/-- R285: a job waits for an earlier-admitted one that writes a bank that it reads, or reads or writes one that it writes, or
is bound to the same entry of the reuse cache (R376). -/
def mustWait (j k : Job) : Prop :=
  k.seq < j.seq ∧ ((∃ b, b ∈ (State.bankUse j).1 ∧ b ∈ (State.bankUse k).2) ∨
    (∃ b, b ∈ (State.bankUse j).2 ∧ (b ∈ (State.bankUse k).1 ∨ b ∈ (State.bankUse k).2)) ∨
    (∃ a b, j.arc = some a ∧ k.arc = some b ∧ a.ent = b.ent))

/-- R285, R376: the engine issues only when none of its tile's jobs runs, and then the READY job admitted first among those
that wait for no other live job of the tile. -/
def Rules.JobOrder : Prop :=
  ∀ (s : State) (tid i : Nat) (j : Job), s.issuable tid = some (i, j) →
    (i, j) ∈ s.jobsOf tid ∧ j.st = .ready ∧ j.ovr = false ∧ (∀ e ∈ s.jobsOf tid, e.2.st ≠ .running ∧ ¬mustWait j e.2) ∧
    ∀ e ∈ s.jobsOf tid, e.2.st = .ready → e.2.ovr = false → (∀ k ∈ s.jobsOf tid, ¬mustWait e.2 k.2) → j.seq ≤ e.2.seq

/-- R285, R293, R294, R389: the engine issues the READY job that was admitted first and must not wait for another; the
running job's beats pass the gate, which takes their weight from its bucket, and wait there when it has too little; a unit
whose beats have run is performed. -/
def Rules.JobExecution : Prop :=
  (∀ (s : State) (i : Nat) (j : Job), (s.refreshJobs s.cur.u).issuable s.cur.u = some (i, j) → j.kind = .epi →
    j.desc.toNat / 2 ^ 387 % 2 ^ 4 = 0 → (s.refreshJobs s.cur.u).halts s.cur.u j.asid = false →
    exec .jobIssue s = .next ((((s.refreshJobs s.cur.u).workFor j.sub j.colour).engAcquire s.cur.u
      (if idTid j.sub = s.cur.u ∧ j.chain = none then .ti else .mo)).setJob s.cur.u i { j with st := .running })) ∧
  (∀ (s : State) (i n : Nat) (j : Job), (s.jobsOf s.cur.u).find? (fun e => e.2.st == .running && !e.2.ovr) = some (i, j) →
    s.halts s.cur.u j.asid = false → j.arc = none → j.left = some (n + 1) →
    let w := max j.cls (kindClass j.kind)
    let e := (s.tile s.cur.u).eng
    let bucket := min e.bucket (8 * s.gateH s.cur.u + 64)
    let passes := s.mayBeat j.asid = true ∧ w ≤ bucket ∧ e.aclk < 64 * (e.period + 1)
    (passes → ∃ t : State, exec .engineBeat s = .next t ∧ (t.tile s.cur.u).eng.bucket = bucket - w ∧
      (t.tile s.cur.u).eng.aclk = e.aclk + 1 ∧
      ((t.tile s.cur.u).slot i).job = some { j with left := some n, beats := if j.kind = .opmul then j.beats else j.beats + 1 } ∧ t.ctxs = s.ctxs ∧
      t.mem = s.mem) ∧
    (¬passes → exec .engineBeat s = .next (s.workFor j.sub j.colour))) ∧
  (∀ (s t : State) (i : Nat) (j k : Job), (s.jobsOf s.cur.u).find? (fun e => e.2.st == .running && !e.2.ovr) = some (i, j) →
    s.halts s.cur.u j.asid = false → j.arc = none → j.left = some 0 →
    State.performUnit s.cur.u j (s.workFor j.sub j.colour) = .ok (k, t) →
    exec .engineBeat s = .next (t.setJob s.cur.u i k))

/-- R286: a DONE job completes: its 32-byte record is stored, its slot becomes FREE and its mailbox holds its generation,
status 0, scope and ASID. -/
def Rules.JobCompletion : Prop :=
  ∀ (s s1 : State) (j : Job), ((s.tile s.cur.u).slot s.cur.v).job = some j → j.ovr = true → j.stop = none →
    j.chain = none → j.arc = none → j.fut = none →
    let gen := ((s.tile s.cur.u).slot s.cur.v).gen
    let id := gen + s.cur.v * 2 ^ 10
    let eu := j.beats * max j.cls (kindClass j.kind)
    let rec0 := W (j.desc.toNat / 2 ^ 198 % 2 ^ 58 * 2 ^ 6)
    let words := id + kindNum j.kind * 2 ^ 16 + j.asid.toNat * 2 ^ 26 + eu % 2 ^ 64 * 2 ^ 128 + j.beats % 2 ^ 64 * 2 ^ 192
    (s.workFor j.sub j.colour).store { tid := s.cur.u, core := none, asid := j.asid, eng := true } rec0 32 words =
      .ok (none, s1) →
    (s1.tile s.cur.u).slot s.cur.v = (s.tile s.cur.u).slot s.cur.v →
    ∃ t : State, exec .jobCompletion s = .next t ∧ ((t.tile s.cur.u).slot s.cur.v).job = none ∧
      ((t.tile s.cur.u).slot s.cur.v).mgen = gen ∧ ((t.tile s.cur.u).slot s.cur.v).mst = 0 ∧
      ((t.tile s.cur.u).slot s.cur.v).masid = j.asid ∧ ((t.tile s.cur.u).slot s.cur.v).gen = gen ∧ t.ctxs = s1.ctxs

/-- R291: a chunk of one output element without NaN and infinity: its products, by position, are summed exactly at the common
exponent of both operands, and the sum is added to the accumulator with one rounding to binary32; a sum of 0 leaves it. -/
def Rules.DotProduct : Prop :=
  ∀ (a b : Chunk) (acc : Machine.Num), a.spec = false → b.spec = false → a.xs.length = b.xs.length →
    let dot : Int := (List.zipWith (· * ·) a.xs b.xs).sum
    accStep a b acc = (if dot = 0 then acc else
      rnd32 (acc.add false (.fin { neg := decide (dot < 0), m := dot.natAbs, e := a.q + b.q })))

/-! ### Tensor handles and bins (R310-R329) -/

/-- R316-R318: HSET loads a handle whose layout passes R313 and refuses another with the position of its first breach; HGET
reads one of its words; HLD, HST and HNEXT of a dense handle reach the element at its row-major position, with its
coordinates, and raise HANDLE_RANGE outside it; HNEXT past the last element answers 0. -/
def Obligations.TensorHandles : Prop :=
  (∀ (s s1 : State) (h : PReg) (a d : XReg) (k : Fin 8) (v : Nat), s.settled → (s.xval a).toNat % 64 = 0 →
    s.load s.agent (s.xval a) 64 = .ok (v, none, s1) → v < 2 ^ 512 →
    let w : HWord := BitVec.ofNat 512 v
    let cb := if v % 16 = 0 then 1 else s1.entryBytes (v / 2 ^ 8 % 2 ^ 5)
    (handleBad w cb = none → exec (.hset h a) s = .next (s1.wlong (.h h w)).complete) ∧
    (∀ p, handleBad w cb = some p → exec (.hset h a) s = .next (s.raise { code := .handleDesc, info := W p })) ∧
    exec (.hget d h k) s = .next (s.wlong (.x d ((s.me.h.get h).extractLsb' (64 * k.val) 64))).complete) ∧
  (∀ (s : State) (h c : PReg) (d a b : XReg) (f : Fmt), s.settled →
    let w := s.me.h.get h
    let i := (s.xval a).toNat
    let j := (s.xval b).toNat
    let nout := w.toNat / 2 ^ 32 % 2 ^ 16 + 1
    let nin := w.toNat / 2 ^ 48 % 2 ^ 16 + 1
    let val_ := W (w.toNat / 2 ^ 384 % 2 ^ 64)
    let at_ (q : Nat) : Word := val_ + W (q * f.cbytes)
    w.toNat % 2 ^ 4 ≠ 0 → w.toNat / 2 ^ 4 % 2 ^ 2 = 0 → w.toNat / 2 ^ 6 % 2 ^ 2 = 0 → s.handleEntry w = .ok f →
    (nout ≤ i ∨ nin ≤ j → exec (.hld d a b c h) s = .next (s.raise { code := .handleRange, info := W h.val }) ∧
      exec (.hst d a b c h) s = .next (s.raise { code := .handleRange, info := W h.val })) ∧
    (i < nout → j < nin →
      (∀ v t, s.loadHeld s.agent (at_ (i * nin + j)) f.cbytes = .ok (v, t) →
        exec (.hld d a b c h) s = .next ((t.wx d (W v)).wr (.p c true)).complete) ∧
      (∀ t, s.storeHeld s.agent (at_ (i * nin + j)) f.cbytes (s.xval d).toNat = .ok t →
        exec (.hst d a b c h) s = .next (t.wr (.p c true)).complete)) ∧
    (w.toNat / 2 ^ 64 % 2 ^ 32 ≤ i → exec (.hnext d a c h) s = .next (((s.wx d 0).wx (xnext d) 0).wr (.p c false)).complete) ∧
    (i < w.toNat / 2 ^ 64 % 2 ^ 32 → ∀ v t, s.loadHeld s.agent (at_ i) f.cbytes = .ok (v, t) →
      exec (.hnext d a c h) s = .next
        (((t.wx d (W v)).wx (xnext d) (W (i / nin * 2 ^ 16 + i % nin))).wr (.p c true)).complete)) ∧
  (∀ (s t : State) (h c : PReg) (d a b : XReg) (f : Fmt), s.settled → s.elementAt h a b = .ok (none, f, t) →
    exec (.hld d a b c h) s = .next ((t.wx d 0).wr (.p c false)).complete ∧
    exec (.hst d a b c h) s = .next (t.wr (.p c false)).complete)

/-- R324-R328: BINCFG gives the slot its bin set, or 1 while the slot is in use, and `.off` frees it; BINAPP claims the next
entry of its region, writes it and counts it, answering 1 for a closed region and 2 for a full one; BINRUN closes a region
and waits for the replay, answering 2^32 for one that is closed already. -/
def Rules.Bins : Prop :=
  (∀ (s s1 : State) (d a : XReg) (slot : Fin 8) (v : Nat) (fe fe2 : Snap), s.settled → (s.xval a).toNat % 64 = 0 →
    s.atPeer s.agent .load (s.xval a) = false →
    s.loadHeld s.agent (s.xval a) 64 = .ok (v, s1) →
    let w : BitVec 512 := BitVec.ofNat 512 v
    s.binEntry (binFe w) = .ok fe → s.binEntry (binFe2 w) = .ok fe2 →
    (∀ p, binBad w = some p → exec (.bincfg d a slot) s = .next (s.raise { code := .binDesc, info := W p })) ∧
    (binBad w = none → (∀ b, find slot.val (s.tile s.myTid).eng.bins = some b → b.asid = s.myAsid) →
      (s.binBusy s.myTid slot.val = true → exec (.bincfg d a slot) s = .next (s1.wx d 1).complete ∧
        exec (.bincfgOff d slot) s = .next (s.wx d 1).complete) ∧
      (s.binBusy s.myTid slot.val = false →
        (∃ t : State, exec (.bincfg d a slot) s = .next (t.wx d 0).complete ∧ t.ctxs = s1.ctxs ∧
          find slot.val (t.tile s.myTid).eng.bins = some { asid := s.myAsid, desc := w, fe := fe, fe2 := fe2, nfm := s.me.nfm }) ∧
        (∃ t : State, exec (.bincfgOff d slot) s = .next (t.wx d 0).complete ∧ t.ctxs = s.ctxs ∧
          find slot.val (t.tile s.myTid).eng.bins = none)))) ∧
  (∀ (s s1 s2 : State) (d a r : XReg) (slot : Fin 8) (k : BinSlot) (pa ep : Nat), s.settled → s.relGate = .ok () →
    s.binOf slot.val = .ok k →
    let idx := (s.xval a).toNat
    idx < binElems k.desc →
    let reg := idx / 2 ^ binRs k.desc
    let cap := binCap k.desc
    s.binSite s.agent (binCnt k.desc + W (8 * reg)) 8 = .ok (pa, s1) →
    let c := s1.rawLoad pa 8
    let claimed := c % 2 ^ 24
    let v := (s.xval r).toNat % 2 ^ (fmtOf false k.fe.e).cbits
    let adds (op : BinOp) (code v : Nat) : Prop :=
      (2 ^ 63 ≤ c → exec (.binapp d a op slot) s = .next (s1.wx d 1).complete) ∧
      (c < 2 ^ 63 → claimed = cap → exec (.binapp d a op slot) s = .next (s1.wx d 2).complete) ∧
      (c < 2 ^ 63 → claimed ≠ cap →
        (s1.rawStore pa 8 (c + 1)).binSite s.agent (binBase k.desc + W ((reg * cap + claimed) * 16)) 16 = .ok (ep, s2) →
        let t := (s2.release s.myCore .mo).rawStore ep 16 (idx + code * 2 ^ 40 + v * 2 ^ 64)
        exec (.binapp d a op slot) s = .next ((t.rawStore pa 8 (t.rawLoad pa 8 + 2 ^ 24)).wx d 0).complete) ∧
      (∀ f, c < 2 ^ 63 → claimed ≠ cap →
        (s1.rawStore pa 8 (c + 1)).binSite s.agent (binBase k.desc + W ((reg * cap + claimed) * 16)) 16 = .error (.flt f) →
        exec (.binapp d a op slot) s = .next (((s1.rawStore pa 8 (c + 1)).orAt pa (2 ^ 62)).raise f))
    adds (.add r) 0 v ∧ adds (.sub r) 1 v ∧ adds .nan 2 0) ∧
  (∀ (s s1 : State) (d a b : XReg) (clr : Bool) (slot : Fin 8) (k : BinSlot) (pa : Nat) (w : Word), s.settled →
    let reg := (s.xval b).toNat
    (s.me.answer = .val w → exec (.binrun d a b clr slot) s =
      .next ((if w.toNat / 2 ^ 32 % 4 = 0 then s.acquire s.myCore .ti else s).wx d w).complete) ∧
    (s.me.answer = .none → tileKind s.myTid = .s → s.relGate = .ok () → s.binOf slot.val = .ok k → reg ≤ binNreg k.desc →
      s.binCells (s.xval a) (64 * 2 ^ binRs k.desc) = .ok () →
      (s.release s.myCore .ti).binSite { tid := s.myTid, core := none, asid := s.myAsid, eng := true }
        (binCnt k.desc + W (8 * reg)) 8 = .ok (pa, s1) →
      let c := s1.rawLoad pa 8
      (2 ^ 63 ≤ c → exec (.binrun d a b clr slot) s = .next (s1.wx d (W (2 ^ 32))).complete) ∧
      (c < 2 ^ 63 → ∃ t : State, exec (.binrun d a b clr slot) s = .next (t.park .answer) ∧ t.rawLoad pa 8 = c + 2 ^ 63 ∧
        ∃ r : BinRun, (t.tile s.myTid).eng.runs = (s1.tile s.myTid).eng.runs ++ [r] ∧ r.id = s.cur.id ∧ r.slot = slot.val ∧
          r.region = reg ∧ r.cells = s.xval a ∧ r.n = c % 2 ^ 24 ∧ r.clr = clr ∧ r.cls = max s.me.cls.toNat 1 ∧ r.dst = d ∧
          r.colour = s.me.colour ∧ r.beats = 0 ∧ r.zeroed = 0 ∧ r.applied = 0)))

/-- R324, R326-R328: the faults of the bin instructions: a misaligned descriptor, a slot that is not the ASID's, an index or a
region past the set's last, a tile of another kind, cells that do not lie in one bank of the tile, and what a replay answers
with a fault. -/
def Rules.BinFaults : Prop :=
  ∀ (s : State) (d a b : XReg) (op : BinOp) (clr : Bool) (slot : Fin 8) (f : Flt) (k : BinSlot), s.settled →
    let no (i : Instr) (g : Flt) : Prop := exec i s = .next (s.raise g)
    let app := Instr.binapp d a op slot
    let run := Instr.binrun d a b clr slot
    ((s.xval a).toNat % 64 ≠ 0 → no (.bincfg d a slot) { code := .misaligned, info := s.xval a }) ∧
    ((s.xval a).toNat % 64 = 0 → s.atPeer s.agent .load (s.xval a) = true →
      no (.bincfg d a slot) { code := .badPath, info := s.xval a }) ∧
    (find slot.val (s.tile s.myTid).eng.bins = some k → k.asid ≠ s.myAsid →
      no (.bincfgOff d slot) { code := .binSlot, info := s.openWord }) ∧
    (s.relGate = .ok () → s.binOf slot.val = .error (.flt f) → no app f) ∧
    (s.relGate = .ok () → s.binOf slot.val = .ok k → binElems k.desc ≤ (s.xval a).toNat →
      no app { code := .binIndex, info := s.xval a }) ∧
    (s.me.answer = .flt f → no run f) ∧
    (s.me.answer = .none → tileKind s.myTid ≠ .s → no run { code := .jobKind, info := 0 }) ∧
    (s.me.answer = .none → tileKind s.myTid = .s → s.relGate = .ok () →
      (s.binOf slot.val = .error (.flt f) → no run f) ∧
      (s.binOf slot.val = .ok k → binNreg k.desc < (s.xval b).toNat → no run { code := .binIndex, info := s.openWord }) ∧
      (s.binOf slot.val = .ok k → (s.xval b).toNat ≤ binNreg k.desc →
        s.binCells (s.xval a) (64 * 2 ^ binRs k.desc) = .error (.flt f) → no run f))

/-- R328: a replay waits until every claimed entry of its region is written, then takes one beat for each 16 entries at the
gate, zeroes its cells under `.clr`, applies every entry once, empties the region and answers its count; a region that lost
an entry is emptied and answers 2^33.
That a LOST region ends the wait at once is the model's reading (log 48). -/
def Rules.BinReplay : Prop :=
  ∀ (s s1 : State) (r : BinRun) (b : BinSlot) (pa : Nat), (s.tile s.cur.u).eng.runs[s.cur.v]? = some r →
    find r.slot (s.tile s.cur.u).eng.bins = some b →
    let ag : Agent := { tid := s.cur.u, core := none, asid := b.asid, eng := true }
    (s.workFor r.id r.colour).binSite ag (binCnt b.desc + W (8 * r.region)) 8 = .ok (pa, s1) →
    let c := s1.rawLoad pa 8
    let written := c / 2 ^ 24 % 2 ^ 24
    let lost := c / 2 ^ 62 % 2 = 1
    let a := s1.engAcquire s.cur.u .mo
    let goes (r' : BinRun) (t : State) : Prop :=
      exec .binrunReplay s = .next (t.modEng s.cur.u fun e => { e with runs := setNth e.runs s.cur.v r' })
    (¬lost → written ≠ r.n → exec .binrunReplay s = .next s1) ∧
    (lost → exec .binrunReplay s = .next ((a.rawStore pa 8 0).endRun s.cur.u s.cur.v r (.val (W (2 ^ 33))))) ∧
    (¬lost → written = r.n →
      (r.beats < (r.n + 15) / 16 →
        (∀ t, a.gateBeat s.cur.u b.asid r.cls = some t → goes { r with beats := r.beats + 1 } t) ∧
        (a.gateBeat s.cur.u b.asid r.cls = none → exec .binrunReplay s = .next a)) ∧
      ((r.n + 15) / 16 ≤ r.beats → r.clr = true → r.zeroed < 2 ^ binRs b.desc → ∀ t,
        a.storeHeld ag (r.cells + W (64 * r.zeroed)) 64 0 = .ok t → goes { r with zeroed := r.zeroed + 1 } t) ∧
      ((r.n + 15) / 16 ≤ r.beats → r.clr = false ∨ 2 ^ binRs b.desc ≤ r.zeroed →
        (r.applied < r.n → ∀ e a1 old a2 t,
          a.loadHeld ag (binBase b.desc + W ((r.region * binCap b.desc + r.applied) * 16)) 16 = .ok (e, a1) →
          let cell := r.cells + W (64 * (e % 2 ^ 40 % 2 ^ binRs b.desc))
          a1.loadHeld ag cell 64 = .ok (old, a2) →
          a2.storeHeld ag cell 64 (cellAdd old (binContribution b (e % 2 ^ 64) (e / 2 ^ 64))) = .ok t →
          goes { r with applied := r.applied + 1 } t) ∧
        (r.n ≤ r.applied → exec .binrunReplay s =
          .next (((a.rawStore pa 8 0).engRelease s.cur.u .ti).endRun s.cur.u s.cur.v r (.val (W r.n))))))

/-! ### Copies, windows, streams and colours (R330-R353) -/

/-- R330-R336, R346: CPY puts its copy at the end of its channel under the lowest free queue entry and answers its id, 0
when all eight are live; a copy starts once its DEP is ready, moves between 1 and 64 bytes at a time, its watermark after
them, and completes with its record, its queue entry free and its mailbox set. -/
def Rules.Copies : Prop :=
  (∀ (s s1 s2 : State) (d a : XReg) (c : PReg) (ch : Fin 8) (w : BitVec 512) (fut : Option Nat), s.settled →
    s.relGate = .ok () → s.readDesc (s.xval a) = .ok (w, s1) →
    (∀ p, s.copyBad s.myTid s.myAsid w = some p →
      exec (.cpy d a c ch) s = .next (s.raise { code := .jobDesc, info := W p })) ∧
    (s.copyBad s.myTid s.myAsid w = none → s1.recTargets s.myTid s.myAsid (cRec w) (cFut w) = .ok (fut, s2) →
      let t := (s2.release s2.myCore .ti).kick s.myTid (1 + ch.val) w.toNat
      let live (e : Nat) : Prop := (getD {} (t.chan s.myTid ch.val).ents e).live = true
      ((∀ e < 8, live e) → exec (.cpy d a c ch) s = .next ((t.wx d 0).wr (.p c false)).complete) ∧
      (∀ e < 8, ¬live e → (∀ i < e, live i) →
        let id := (getD {} (t.chan s.myTid ch.val).ents e).gen % 1023 + 1 + e * 2 ^ 10 + ch.val * 2 ^ 13
        ∃ n : State, exec (.cpy d a c ch) s = .next ((n.wx d (W id)).wr (.p c true)).complete ∧ n.ctxs = t.ctxs ∧
          n.mem = t.mem ∧ n.arms = t.arms ++ fut.toList ∧ ∃ y : Copy, (n.chan s.myTid ch.val).queue.getLast? = some y ∧ y.ent = e ∧ y.desc = w ∧
            y.asid = s.myAsid ∧ y.sub = s.cur.id ∧ y.colour = s.me.colour ∧ y.fut = fut ∧ y.pos = 0 ∧ y.run = false))) ∧
  (∀ (s : State) (y : Copy) (r : List Copy),
    let t := s.refreshJobs s.cur.u
    (t.chan s.cur.u s.cur.v).queue = y :: r → y.ready = true → y.run = false → y.fault = none →
    t.halts s.cur.u y.asid = false →
    exec .copyStart s =
      .next (((t.workFor y.sub y.colour).engAcquire s.cur.u (if y.far then .mo else .ti)).setHead s.cur.u s.cur.v { y with run := true })) ∧
  (∀ (s s1 s2 : State) (y : Copy) (r : List Copy) (v : Nat), (s.chan s.cur.u s.cur.v).queue = y :: r → y.run = true →
    y.fault = none → y.pos < State.copyTotal y.desc → s.halts s.cur.u y.asid = false →
    let n := copyChunk y.desc y.pos
    0 < n ∧ n ≤ 64 ∧
    ((s.workFor y.sub y.colour).copyRead s.cur.u y n = .ok (v, s1) → s1.copyWrite s.cur.u y n v = .ok s2 →
      exec .watermarkAdvance s = .next (((s2.engRelease s.cur.u .ti).setHead s.cur.u s.cur.v
        { y with pos := y.pos + n }).serveMarks s.cur.u))) ∧
  (∀ (s s1 : State) (y : Copy) (r : List Copy), (s.chan s.cur.u s.cur.v).queue = y :: r → y.run = true → y.fault = none →
    y.pos = State.copyTotal y.desc → y.win = none → y.fut = none →
    let free := (s.workFor y.sub y.colour).setHead s.cur.u s.cur.v { y with desc := y.desc &&& ~~~(BitVec.ofNat 512 (2 ^ 448)) }
    let id := copyId (s.chan s.cur.u s.cur.v) s.cur.v y.ent
    free.store { tid := s.cur.u, core := none, asid := y.asid, eng := true } (cRec y.desc) 32
      (id + 0x3F * 2 ^ 16 + y.asid.toNat * 2 ^ 26 + y.pos % 2 ^ 64 * 2 ^ 192) = .ok (none, s1) →
    (∀ e ∈ (s1.tile s.cur.u).eng.wins, e.2.due = false) →
    let q := s1.chan s.cur.u s.cur.v
    let e := getD {} q.ents y.ent
    ∃ t : State, exec .copyCompletion s = .next t ∧
      (t.chan s.cur.u s.cur.v).queue.length = q.queue.length - 1 ∧
      getD {} (t.chan s.cur.u s.cur.v).ents y.ent = { e with live := false, mgen := e.gen, st := 0, cs := cCs y.desc })

/-- R337, R338, R347-R349: WINSET takes a free window, ABSENT, and answers 1 for one in use; WINCLR frees a window, after
its fill has ended, and answers its state; WMARK reads a watermark, waits for a level of it, or waits for a copy. -/
def Rules.Windows : Prop :=
  (∀ (s s1 : State) (d a : XReg) (win : Fin 32) (v : Nat), s.settled →
    s.loadHeld s.agent (s.xval a) 32 = .ok (v, s1) →
    let w : BitVec 256 := BitVec.ofNat 256 v
    let k := getD ({} : Window) (s.tile s.myTid).eng.wins win.val
    (∀ p, s.winBad s.myTid s.myAsid w = some p →
      exec (.winset d a win) s = .next (s.raise { code := .winDesc, info := W p })) ∧
    (s.winBad s.myTid s.myAsid w = none → k.st ≠ .free → exec (.winset d a win) s = .next (s1.wx d 1).complete) ∧
    (s.winBad s.myTid s.myAsid w = none → k.st = .free →
      ∃ t : State, exec (.winset d a win) s = .next (t.wx d 0).complete ∧ t.ctxs = s1.ctxs ∧ t.mem = s1.mem ∧
        find win.val (t.tile s.myTid).eng.wins = some { st := .absent, asid := s.myAsid, desc := w })) ∧
  (∀ (s : State) (d : XReg) (win : Fin 32), s.settled →
    let w := getD ({} : Window) (s.tile s.myTid).eng.wins win.val
    (w.st = .filling → w.asid = s.myAsid → exec (.winclr d win) s = .next (s.park (.window s.myTid win.val))) ∧
    (w.st ≠ .filling → w.st = .free ∨ w.asid = s.myAsid →
      ∃ t : State, exec (.winclr d win) s =
          .next (t.wx d (match w.st with | .free => 0 | .absent => 1 | .filling => 2 | .present => 3 | .failed => 4)).complete ∧
        t.ctxs = s.ctxs ∧ t.mem = s.mem ∧ find win.val (t.tile s.myTid).eng.wins = none)) ∧
  (∀ (s : State) (d a : XReg) (ch : Fin 8) (w : Word), s.settled →
    let q := (s.chan s.myTid ch.val).queue.find? copyWmon
    let acq := s.acquire s.myCore .ti
    (q = none → exec (.wmarkRd d ch) s = .next (s.wlong (.x d (BitVec.allOnes 64))).complete) ∧
    (∀ y, q = some y → exec (.wmarkRd d ch) s = .next (s.wlong (.x d (copyMark y))).complete) ∧
    (s.me.answer = .val w → exec (.wmarkWt d a ch) s = .next (acq.wx d w).complete) ∧
    (s.me.answer = .none → q = none → exec (.wmarkWt d a ch) s = .next (acq.wx d (BitVec.allOnes 64)).complete) ∧
    (∀ y, s.me.answer = .none → q = some y →
      ((s.xval a).toNat ≤ (copyMark y).toNat → exec (.wmarkWt d a ch) s = .next (acq.wx d (copyMark y)).complete) ∧
      ((copyMark y).toNat < (s.xval a).toNat → exec (.wmarkWt d a ch) s =
        .next (s.park (.mark s.myTid (copyId (s.chan s.myTid ch.val) ch.val y.ent) (s.xval a)))))) ∧
  (∀ (s : State) (d a : XReg), s.settled →
    let id := (s.xval a).toNat % 2 ^ 16
    let e := getD ({} : CopyDone) (s.chan s.myTid (id / 2 ^ 13)).ents (id / 2 ^ 10 % 8)
    let sc : Scope := if e.cs = 1 then .ti else if e.cs = 2 then .mo else .sy
    id % 2 ^ 10 ≠ 0 →
    (s.copyLive s.myTid id = true → exec (.wmarkCw d a) s = .next (s.park (.copy s.myTid id))) ∧
    (s.copyLive s.myTid id = false → e.mgen = id % 2 ^ 10 →
      exec (.wmarkCw d a) s = .next ((s.acquire s.myCore sc).wx d (W e.st)).complete) ∧
    (s.copyLive s.myTid id = false → e.mgen ≠ id % 2 ^ 10 →
      exec (.wmarkCw d a) s = .next ((s.acquire s.myCore .sy).wx d 3).complete))

/-- R345-R349: a descriptor that cannot be read, and a record or future of it that fails its checks, raise their faults at
CPY; a window descriptor does at WINSET; WINCLR of a window of another address space raises BANK_ASID, and WMARK `.cw` of a
number of no copy JOB_ID; a fault that a waiting WMARK `.wt` is answered with is raised. -/
def Rules.CopyFaults : Prop :=
  ∀ (s s1 : State) (d a : XReg) (c : PReg) (ch : Fin 8) (win : Fin 32) (w : BitVec 512) (f : Flt), s.settled →
    (s.relGate = .ok () →
      (s.readDesc (s.xval a) = .error (.flt f) → exec (.cpy d a c ch) s = .next (s.raise f)) ∧
      (s.readDesc (s.xval a) = .ok (w, s1) → s.copyBad s.myTid s.myAsid w = none →
        s1.recTargets s.myTid s.myAsid (cRec w) (cFut w) = .error (.flt f) → exec (.cpy d a c ch) s = .next (s.raise f))) ∧
    (s.loadHeld s.agent (s.xval a) 32 = .error (.flt f) → exec (.winset d a win) s = .next (s.raise f)) ∧
    (let k := getD ({} : Window) (s.tile s.myTid).eng.wins win.val
     k.st ≠ .free → k.asid ≠ s.myAsid → exec (.winclr d win) s = .next (s.raise { code := .bankAsid, info := s.openWord })) ∧
    (s.me.answer = .flt f → exec (.wmarkWt d a ch) s = .next (s.raise f)) ∧
    ((s.xval a).toNat % 2 ^ 10 = 0 → exec (.wmarkCw d a) s = .next (s.raise { code := .jobId, info := s.openWord }))

/-- R341, R342, R350, R351: SUBSCR takes the lowest free subscription of the quarry of its first tile, or answers 0; a
stream claims a slot of its ring for a load, takes one for a store, and moves its next tile through it; UNSUB stops a live
stream and answers its tiles, 2^32 for one that is over.
SUBSCR does not arm FUT, and UNSUB is a mark whose end comes later: the model's reading (log 54). -/
def Rules.Streams : Prop :=
  (∀ (s s1 s2 s3 s4 : State) (d a : XReg) (w : BitVec 512) (rt b pa : Nat) (fut : Option Nat), s.settled →
    s.relGate = .ok () → s.readDesc (s.xval a) = .ok (w, s1) →
    (∀ p, subBad w = some p → exec (.subscr d a) s = .next (s.raise { code := .jobDesc, info := W p })) ∧
    (subBad w = none → s1.recTargets s.myTid s.myAsid (cRec w) (cFut w) = .ok (fut, s2) →
      s.ringBase (subRing w) = .ok (rt, b) → 64 * subLines w ≤ 64 * 2 ^ (s.ring rt b).slotsz →
      s2.subCheck s.myTid s.myAsid w = .ok s3 →
      s3.resolve { tid := s.myTid, core := none, asid := s.myAsid, eng := true } (if subStores w then .store else .load)
        (subTile w 0) 64 = .ok (.mem pa, s4) →
      let q := quarryOf pa
      let t := ((s3.release s3.myCore .mo).kickQuarry q w.toNat).packet
      ((∀ e < 256, (t.sub q e).live = true) → exec (.subscr d a) s = .next (t.wx d 0).complete) ∧
      (∀ e < 256, (t.sub q e).live = false → (∀ i < e, (t.sub q i).live = true) →
        let g := (t.sub q e).gen % 65535 + 1
        exec (.subscr d a) s = .next ((t.setSub q e
          { gen := g, live := true, desc := w, asid := s.myAsid, colour := s.me.colour, tid := rt, sub := s.cur.id,
            fut := fut }).wx d (W (q + e * 2 ^ 6 + g * 2 ^ 14))).complete))) ∧
  (∀ (s s1 : State) (pls : List Nat),
    let u := s.sub s.cur.u s.cur.v
    u.live = true → s.halts u.tid u.asid = false → s.subRingOk u = true →
    (s.workFor u.sub u.colour).subPlaces (idTid u.sub) u.asid u.desc u.t = .ok (pls, s1) →
    (u.slot = none → u.fault = none → u.stop = false → u.t ≠ subTiles u.desc → u.asked = false →
      exec .subscriptionTileStep s = .next ((s1.setSub s.cur.u s.cur.v { u with asked := true }).engineRing u.tid
        (subBank u.desc) (if subStores u.desc then .stake s.cur.u s.cur.v else .sclaim s.cur.u s.cur.v) (subStores u.desc))) ∧
    (∀ i, u.slot = some i → ∃ t : State, exec .subscriptionTileStep s = .next t ∧ t.ctxs = s1.ctxs ∧
      t.sub s.cur.u s.cur.v = { u with t := u.t + 1, slot := none })) ∧
  (∀ (s : State) (d a : XReg) (q e : Nat), s.settled → q < 64 → e < 256 →
    let u := s.sub q e
    (s.xval a).toNat = q + e * 2 ^ 6 + u.gen * 2 ^ 14 → u.gen < 2 ^ 16 →
    (u.live = false → exec (.unsub d a) s = .next (s.packet.wx d (W (2 ^ 32))).complete) ∧
    (u.live = true → u.slot = none → u.fault = none → u.stop = false → u.t ≠ subTiles u.desc →
      ∃ t : State, exec (.unsub d a) s = .next (t.wx d (W u.t)).complete ∧ t.ctxs = s.ctxs ∧ t.mem = s.mem ∧
        t.sub q e = { u with stop := true, asked := false }))

/-- R165, R343, R352, R353: COLSET changes the context's colour to one of its profile's mask and returns the old one, and
raises COLOUR_PERM for another; FWINSET sets a format window of a quarry, after a release at sy, and returns whether the
old one was valid. -/
def Rules.ColoursAndFormatWindows : Prop :=
  (∀ (s : State) (d : XReg) (c : Fin 16), s.settled →
    (s.profField s.myAsid (128 + c.val) 1 = 0 →
      exec (.colset d c) s = .next (s.raise { code := .colourPerm, info := W c.val })) ∧
    (s.profField s.myAsid (128 + c.val) 1 = 1 → exec (.colset d c) s =
      .next (((s.wx d (s.me.colour.setWidth 64)).modMe fun k => { k with colour := BitVec.ofNat 4 c.val })).complete)) ∧
  (∀ (s s1 : State) (d a : XReg) (q : Fin 64) (w : Fin 16) (v : Nat), s.settled → s.priv = true →
    s.relGate = .ok () → s.loadHeld s.agent (s.xval a) 64 = .ok (v, s1) → v < 2 ^ 512 →
    let se : EntryBits := BitVec.ofNat 128 (v / 2 ^ 128)
    let we : EntryBits := BitVec.ofNat 128 (v / 2 ^ 256)
    entryCheckOwn se = none → entryCheckOwn we = none → fwinRefuses se = false → fwinRefuses we = false →
    containerBits (widthOf se) = containerBits (widthOf we) →
    v % 2 ^ 12 = 0 → v / 2 ^ 57 % 2 ^ 19 = 0 → v / 2 ^ 121 % 2 ^ 7 = 0 → v / 2 ^ 385 = 0 →
    let r := s1.release s1.myCore .sy
    let old := getD ({} : FWin) (r.quarry q.val).fwins w.val
    ∃ t : State, exec (.fwinset d a q w) s = .next (t.wx d (if old.v then 1 else 0)).complete ∧ t.ctxs = r.ctxs ∧
      t.mem = r.mem ∧ t.cores = r.cores ∧
      find w.val (t.quarry q.val).fwins = some
        { base := v / 2 ^ 12 % 2 ^ 45, limit := v / 2 ^ 76 % 2 ^ 45, se := se, we := we, v := v / 2 ^ 384 % 2 == 1 } ∧
      ∀ x, x ≠ w.val → find x (t.quarry q.val).fwins = find x (r.quarry q.val).fwins)

/-! ### The expert chain (R354-R372) -/

/-- R355, R366, R368-R370: CHGO queues a run at its domain's lead tile with the next tag and answers its id, 0 when four
runs wait there; the oldest waiting run starts when every chain unit of its domain is free, and tries again a microsecond
later otherwise; CHSTAT reads a run's state and progress, 2 for one that is over; CHSTOP stops a live run.
What CHSTOP lets go on is the model's reading (log 57). -/
def Rules.ChainRuns : Prop :=
  (∀ (s s1 s2 s3 : State) (d a : XReg) (l : BitVec 8192) (ents : List Snap) (fut : Option Nat) (rm : Nat), s.settled →
    s.relGate = .ok () → s.readLcb (s.xval a) = .ok (l, s1) →
    (∀ p, s.lcbBad l = some p → exec (.chgo d a) s = .next (s.raise { code := .chainDesc, info := W p })) ∧
    (s.lcbBad l = none → s.lcbEntries l = .ok ents →
      let lead := (s.domTiles (lDom l)).headD 0
      let ag : Agent := { tid := s.myTid, core := none, asid := s.myAsid, eng := true }
      s1.recTargets lead s.myAsid (lRec l) (lFut l) = .ok (fut, s2) →
      (if lw l 15 = 0 then s3 = s2 else ∃ pas, s2.plainLines ag (lw l 15) (2 * lE l) = .ok (pas, s3)) →
      s.drmOf (fmtOf false (ents.getD 3 {}).e) 67 = .ok rm →
      let q := match fut with
        | some pa => s3.armFut pa
        | none => s3
      let t := (q.release q.myCore .mo).kick lead 9 l.toNat
      let waiting := (t.tile lead).eng.leadq.filter fun r => !r.started
      (4 ≤ waiting.length → exec (.chgo d a) s = .next (t.wx d 0).complete) ∧
      (waiting.length < 4 →
        let tag := (t.tile lead).eng.ltag % 65535 + 1
        ∃ u : State, exec (.chgo d a) s = .next (u.wx d (W (lead * 2 ^ 16 + tag))).complete ∧ u.ctxs = t.ctxs ∧ u.mem = t.mem ∧
          ∃ r : Run, (u.tile lead).eng.leadq = (t.tile lead).eng.leadq ++ [r] ∧ r.tag = tag ∧ r.lcb = l ∧ r.asid = s.myAsid ∧
            r.ents = ents ∧ r.rm = rm ∧ r.fut = fut ∧ r.sub = s.cur.id ∧ r.colour = s.me.colour ∧ r.started = false ∧ r.stop = false ∧ r.next = s.fab))) ∧
  (∀ (s : State) (r : Run), (s.tile s.cur.u).eng.leadq = [r] → r.started = false → r.stop = false → r.next ≤ s.fab →
    s.halts s.cur.u r.asid = false →
    let ts := s.domTiles (lDom r.lcb)
    ((∃ t ∈ ts, (s.tile t).eng.shard ≠ none) → exec .chainStartAttempt s =
      .next (s.modEng s.cur.u fun e => { e with leadq := [{ r with next := s.fab + 2000 }] })) ∧
    ((∀ t ∈ ts, (s.tile t).eng.shard = none) → ∃ t : State, exec .chainStartAttempt s = .next t ∧
      (t.tile s.cur.u).eng.leadq = [{ r with started := true, shards := ts }] ∧ t.ctxs = s.ctxs ∧
      ∀ x ∈ ts, ∃ k, (t.tile x).eng.shard = some { lead := s.cur.u, tag := r.tag, rank := k, asid := r.asid })) ∧
  (∀ (s : State) (d a : XReg), s.settled →
    (s.namedRun (s.xval a) = .ok none →
      exec (.chstat d a) s = .next (s.wx d 2).complete ∧ exec (.chstop d a) s = .next (s.wx d 2).complete) ∧
    (∀ lead r, s.namedRun (s.xval a) = .ok (some (lead, r)) →
      exec (.chstat d a) s = .next (s.wx d (W ((if s.runOver r || r.fault.isSome then 2 else if r.started then 1 else 0) +
        r.routed % 2 ^ 17 * 2 ^ 2 + r.comb % 2 ^ 17 * 2 ^ 19))).complete ∧
      (s.runOver r = true ∨ r.fault ≠ none → exec (.chstop d a) s = .next (s.wx d 2).complete) ∧
      (s.runOver r = false → r.fault = none → ∃ t : State,
        exec (.chstop d a) s = .next (t.wx d (if r.started then 1 else 0)).complete ∧ t.ctxs = s.ctxs ∧ t.mem = s.mem ∧
        ∃ q : Run, t.runAt lead r.tag = some q ∧ q.stop = true))) ∧
  (∀ (s s1 : State) (r : Run), (s.tile s.cur.u).eng.leadq = [r] → s.runOver r = true → r.fault = none → r.stop = false →
    r.fut = none → r.shards = [] → s.halts s.cur.u r.asid = false →
    (s.workFor r.sub r.colour).store { tid := s.cur.u, core := none, asid := r.asid, eng := true } (lRec r.lcb) 32
      (r.tag + 0x3D * 2 ^ 16 + r.asid.toNat * 2 ^ 26 + r.eu % 2 ^ 64 * 2 ^ 128 +
        (r.adm % 2 ^ 32 + r.drop % 2 ^ 32 * 2 ^ 32) * 2 ^ 192) = .ok (none, s1) → (s1.tile s.cur.u).eng.leadq = [r] →
    ∃ t : State, exec .chainRunComplete s = .next t ∧ (t.tile s.cur.u).eng.leadq = [] ∧ t.ctxs = s1.ctxs)

/-- R359-R363, R389: the moves of a shard, for its run's submitter.  Its gate begins on an idle gate tile, takes each column of
the gate and each row of its block in beats at the gate tile's gate, and ends with its block routed; a shard without a
block left goes to its claims.  It posts one claim for each group of 32 experts; a round whose claims are answered leaves
the next round or the dispatch; it stages each token's row, releases, and combines each in order once its products are
there.
The gate's place and waits and the record of a failing access are the model's reading (log 55), and so is the dispatch after
every round (log 56). -/
def Rules.ChainShards : Prop :=
  ∀ (s : State) (h : Shard) (r : Run), s.shardRun s.cur.u = some (h, r) →
    let w := s.workFor r.sub r.colour
    let g := gateTile s.cur.u
    let shardIs (t : State) (k : Shard) : State := t.setShard s.cur.u (some k)
    let goes (i : Instr) (k : Nat) (m : JM State) : Prop :=
      (∀ t, m = .ok t → exec i s = .next t) ∧ (∀ f, m = .error (.flt f) → exec i s = .next (w.failRun h f k))
    (h.st = .gate → r.stop = false → s.halts g r.asid = false →
      let n := (State.blockOf h r).2
      let more := h.round * r.shards.length + h.rank < lBlocks r.lcb
      let wt := max r.cls 2
      (¬more → h.gate = none → exec .chainGate s =
        .next (shardIs w { h with st := .claim, gate := none, group := 0, sel := [], pre := [], tot := [] })) ∧
      (more → h.gate = none → (s.jobsOf g).any (fun e => e.2.st == .running) = true → exec .chainGate s = .next w) ∧
      (more → h.gate = none → (s.jobsOf g).any (fun e => e.2.st == .running) = false →
        let t := shardIs (w.engAcquire g .mo) { h with gate := some (0, none), sel := [] }
        exec .chainGate s = .next (w.attachFloor t g)) ∧
      (∀ i, more → h.gate = some (i, none) →
        (h.cols < lE r.lcb → exec .chainGate s = .next (shardIs w { h with gate := some (i, some 1) })) ∧
        (lE r.lcb ≤ h.cols → i < n → exec .chainGate s =
          .next (shardIs w { h with gate := some (i, some (planesA (fmtOf false (r.ents.getD 0 {}).e))) })) ∧
        (lE r.lcb ≤ h.cols → n ≤ i → exec .chainGate s =
          .next (shardIs ((w.floorEnds g).modRun h.lead h.tag fun r => { r with routed := r.routed + n })
            { h with st := .claim, gate := none, group := 0, pre := [], tot := [] }))) ∧
      (∀ i b, more → h.gate = some (i, some (b + 1)) →
        (w.gateBeat g r.asid wt = none → exec .chainGate s = .next w) ∧
        (∀ t, w.gateBeat g r.asid wt = some t → exec .chainGate s = .next (shardIs
          (t.modRun h.lead h.tag fun r => { r with eu := r.eu + wt }) { h with gate := some (i, some b) }))) ∧
      (∀ i, more → h.gate = some (i, some 0) → w.gateAlien g r h.cols = none →
        (h.cols < lE r.lcb → ∀ t, State.gateColumn g r h.cols w = .ok t → exec .chainGate s =
          .next (shardIs t { h with cols := h.cols + 1, gate := some (i, none) })) ∧
        (lE r.lcb ≤ h.cols → ∀ l t,
          State.gateRow g r (State.gateJob r (State.blockOf h r).1 n) i w = .ok (l, t) → exec .chainGate s =
          .next (shardIs t { h with gate := some (i + 1, none),
                                    sel := h.sel ++ [((State.blockOf h r).1 + i, State.gateWeights l)] })))) ∧
    (h.st = .claim → h.posted = false → h.group < lGroups r.lcb → ∃ t : State, exec .chainClaimRound s = .next t ∧
      t.ctxs = s.ctxs ∧ t.mem = (w.engRelease s.cur.u .mo).mem ∧ (t.tile s.cur.u).eng.claims = (s.tile s.cur.u).eng.claims ++ [State.shardClaim h r] ∧
      (t.tile s.cur.u).eng.shard = some { h with posted := true }) ∧
    (h.st = .claim → h.posted = false → lGroups r.lcb ≤ h.group →
      goes .chainClaimRound 0x3D (State.endRound s.cur.u h r w)) ∧
    (∀ x, h.st = .dispatch → h.toks[h.staged]? = some x → ∀ t, State.stageToken s.cur.u r x.1 x.2 w = .ok t →
      exec .chainDispatch s = .next (shardIs t { h with staged := h.staged + 1 })) ∧
    (h.st = .dispatch → h.toks[h.staged]? = none →
      exec .chainDispatch s = .next (shardIs (w.engRelease s.cur.u .mo) { h with st := .combine })) ∧
    (∀ x, h.st = .combine → h.toks[h.comb]? = some x →
      (∀ y ∈ x.2, y.2.2 < lCap r.lcb → State.productDone r y.1 y.2.2 = true) →
      ∀ t, State.combineToken s.cur.u r x.1 x.2 (w.engAcquire s.cur.u .mo) = .ok t → exec .chainCombine s =
        .next (shardIs (t.modRun h.lead h.tag fun r => { r with comb := r.comb + 1 }) { h with comb := h.comb + 1 })) ∧
    (h.st = .combine → h.toks[h.comb]? = none →
      exec .chainCombine s = .next (shardIs (w.engRelease s.cur.u .mo) { h with st := .done }))

/-- R371, R372: RCSNAP copies each counter to the snapshot and zeroes it, and answers the sum of the selection counts;
SLOTCLM posts a claim and waits for its answer; a round of claims answers every tile of the domain with the sums of the
demands of the tiles before it and of all, or 1 when the tags differ. -/
def Obligations.Claims : Prop :=
  (∀ (s s1 s2 : State) (d a b : XReg) (n : BitVec 8) (src dst : List Nat), s.settled → s.relGate = .ok () →
    let k := n.toNat + 1
    (s.xval a).toNat % 64 = 0 → (s.xval b).toNat % 64 = 0 → (s.xval a).toNat / 2 ^ 60 = 0 → (s.xval b).toNat / 2 ^ 60 = 0 →
    s.plainLines s.agent (s.xval a) (2 * k) = .ok (src, s1) → s1.plainLines s1.agent (s.xval b) (2 * k) = .ok (dst, s2) →
    (src ++ dst).Nodup → (∀ x ∈ src ++ dst, x % 64 = 0) → src.length = 2 * k → dst.length = 2 * k →
    let r := (src ++ dst).foldl (fun t pa => t.pushHome t.myCore (pa / 64)) (s2.release s2.myCore .mo)
    ∃ t : State, exec (.rcsnap d a b n) s = .next ((t.acquire t.myCore .mo).wx d
        (W (((List.range k).map fun e => r.rawLoad (src.getD (2 * e + 1) 0) 64 % 2 ^ 32).sum))).complete ∧ t.ctxs = r.ctxs ∧
      ∀ i, i < 2 * k → t.rawLoad (dst.getD i 0) 64 = r.rawLoad (src.getD i 0) 64 ∧ t.rawLoad (src.getD i 0) 64 = 0) ∧
  (∀ (s : State) (d a b : XReg), s.settled →
    (∀ v, s.me.answer = .val v → exec (.slotclm d a b) s = .next ((s.acquire s.myCore .mo).wx d v).complete) ∧
    (s.me.answer = .none → tileKind s.myTid ≠ .v →
      exec (.slotclm d a b) s = .next (s.raise { code := .jobKind, info := 0 })) ∧
    (∀ v s1 s2, s.me.answer = .none → tileKind s.myTid = .v → s.relGate = .ok () → (s.xval a).toNat % 64 = 0 →
      (s.xval b).toNat % 64 = 0 → s.loadLines s.agent (s.xval a) 3 = .ok (v, s1) → s1.storable (s.xval b) 4 = .ok s2 →
      v / 2 ^ 53 % 2 ^ 459 = 0 → s.domTiles (v % 2 ^ 21) ≠ [] →
      let t := s2.release s2.myCore .mo
      exec (.slotclm d a b) s = .next ((t.modEng s2.myTid fun e => { e with claims := e.claims ++ [
        { id := some s.cur.id, dom := v % 2 ^ 21, tag := v / 2 ^ 21 % 2 ^ 32,
          dem := (List.range 32).map fun j => v / 2 ^ (512 + 32 * j) % 2 ^ 32, out := s.xval b }] }).park .held))) ∧
  (∀ (s : State) (c : Claim) (r : List Claim), (s.tile s.cur.u).eng.claims = c :: r → (s.tile s.cur.u).eng.outs = [] →
    s.domTiles c.dom = [s.cur.u] →
    exec .claimRound s = .next (s.serveHead s.cur.u c (List.replicate 32 0) ((List.range 32).map fun j =>
      c.dem.getD j 0 % 2 ^ 32) true)) ∧
  (∀ (s : State) (tid id : Nat) (c : Claim) (pre tot : List Nat), c.id = some id → (s.ctx id).st = .ready →
    ((s.serveHead tid c pre tot false).ctx id).answer = .val 1)

/-! ### Reuse (R373-R386) -/

/-- R373-R375, R382, R384-R386: ARCSET takes a reuse entry for the ASID and binds it to the context's next job, answering the
entry's valid bit and step; ARCCNT reads the ASID's counters and zeroes them; ARCINV frees the ASID's entries that no job
uses, and answers how many it freed and whether some stayed.  All three raise JOB_KIND on a tile without entries. -/
def Obligations.Reuse : Prop :=
  ∀ (s s1 : State) (d a : XReg) (ent : Fin 32) (v : Nat) (f : Fmt), s.settled →
    let arc (k : Nat) : Arc := getD {} (s.tile s.myTid).eng.arcs k
    let has : Prop := tileKind s.myTid = .d ∨ tileKind s.myTid = .a
    let p := s.space s.myAsid.toNat
    let mine (k : Nat) : Prop := (arc k).held = true ∧ (arc k).asid = s.myAsid
    let keeps (i : Instr) (w : Word) : Prop := ∃ t : State, exec i s = .next (t.wx d w).complete ∧ t.ctxs = s.ctxs ∧
      t.mem = s.mem ∧ ∀ k, getD {} (t.tile s.myTid).eng.arcs k = arc k
    let freed (t : State) (k : Nat) : Prop := (getD {} (t.tile s.myTid).eng.arcs k).held = false
    (¬has → exec (.arccnt d) s = .next (s.raise { code := .jobKind, info := 0 }) ∧
      exec (.arcinv d none) s = .next (s.raise { code := .jobKind, info := 0 }) ∧
      exec (.arcinv d (some ent)) s = .next (s.raise { code := .jobKind, info := 0 })) ∧
    (has → ∃ t : State, exec (.arccnt d) s =
        .next ((t.wx d (W (p.miss * 2 ^ 32 + p.hit))).wx (xnext d) (W p.inval)).complete ∧ t.ctxs = s.ctxs ∧
      t.space s.myAsid.toNat = { p with hit := 0, miss := 0, inval := 0 }) ∧
    (has → mine ent.val → (arc ent.val).busy = 0 → ∃ t : State,
      exec (.arcinv d (some ent)) s = .next (t.wx d 1).complete ∧ t.ctxs = s.ctxs ∧ freed t ent.val ∧
      ∀ k, k ≠ ent.val → getD {} (t.tile s.myTid).eng.arcs k = arc k) ∧
    (has → mine ent.val → (arc ent.val).busy ≠ 0 → keeps (.arcinv d (some ent)) (W (2 ^ 32))) ∧
    (has → (arc ent.val).held = false → keeps (.arcinv d (some ent)) 0) ∧
    (has → (arc ent.val).held = true → (arc ent.val).asid ≠ s.myAsid →
      exec (.arcinv d (some ent)) s = .next (s.raise { code := .arcEntry, info := s.openWord })) ∧
    (has → (∀ k < 32, ¬mine k) → keeps (.arcinv d none) 0) ∧
    ((s.xval a).toNat % 32 = 0 → s.load s.agent (s.xval a) 32 = .ok (v, none, s1) →
      let x : Arc := getD {} (s1.tile s1.myTid).eng.arcs ent.val
      let plain (ea : Word) : Prop := ∀ pa t, s1.resolve s1.agent .load (W (ea.toNat / 64 * 64)) 64 = .ok (.mem pa, t) →
        s1.underFwin pa 64 = false
      (∀ q, State.arcBad v = some q → exec (.arcset d a ent) s = .next (s.raise { code := .arcDesc, info := W q })) ∧
      (State.arcBad v = none → tileKind s1.myTid = .d ∨ tileKind s1.myTid = .a → plain (W (v / 2 ^ 64)) →
        plain (W (v / 2 ^ 128)) → s1.useEntry (v / 2 ^ 208 % 32) = .ok f → f.blk = 0 → f.cbits ≤ 16 →
        ¬(x.held = true ∧ x.asid ≠ s1.myAsid) →
        ∃ t : State, exec (.arcset d a ent) s = .next (t.wx d (W ((if x.valid then 2 ^ 32 else 0) + x.step))).complete ∧
          t.mem = s1.mem ∧ (getD {} (t.tile s1.myTid).eng.arcs ent.val).held = true ∧
          (getD {} (t.tile s1.myTid).eng.arcs ent.val).asid = s1.myAsid ∧
          ∃ b : ArcBind, t.me.bind = some b ∧ b.ent = ent.val ∧
            b.desc = (List.range 4).map fun i => W (v / 2 ^ (64 * i))))

/-! ### Tokens, loans and quota (R387-R397, R404-R406, R447) -/

/-- R388, R390-R393, R404-R406: served by the broker in its turn, TKREQ adds what it is granted, of the pool and up to 255
held, and answers it with its status; TKLEND moves tokens to a loan, 0 when it may not; TKRET returns tokens of G, or ends
a loan; TKQRY and EQRD read what their rules say; what the answers move reaches the gates at their next boundary.  A
request that comes behind a later tile's waits (log 72).  A V tile has no gate. -/
def Rules.Tokens : Prop :=
  ∀ (s : State) (d a b : XReg), s.settled →
    let t := s.myTid
    let z := zoneOf t
    let n := (s.xval a).toNat
    let w := (s.xval b).toNat
    let term := w / 2 ^ 16
    let u := w % 2 ^ 13
    let q := s.atBroker t
    let e := (q.tile t).eng
    let h := q.held t
    let g := min n (min (q.pool z) (255 - h))
    let no (i : Instr) (f : Flt) : Prop := exec i s = .next (s.raise f)
    let badArg : Flt := { code := .tokenArg, info := s.openWord }
    (tileKind t = .v → let f : Flt := { code := .jobKind, info := 0 }
      no (.tkreq d a) f ∧ no (.tklend d a b) f ∧ no (.tkretG d a) f ∧ no (.tkretL d a) f ∧ no (.tkqry d) f) ∧
    (tileKind t ≠ .v → n = 0 ∨ 255 < n → no (.tkreq d a) badArg ∧ no (.tklend d a b) badArg ∧ no (.tkretG d a) badArg) ∧
    (tileKind t ≠ .v → 1 ≤ n → n ≤ 255 →
      (w / 2 ^ 13 % 2 ^ 3 ≠ 0 ∨ 2 ^ 32 ≤ w ∨ term = 0 → no (.tklend d a b) badArg) ∧
      (w / 2 ^ 13 % 2 ^ 3 = 0 → w < 2 ^ 32 → term ≠ 0 → s.gated u = false ∨ zoneOf u ≠ z ∨ u = t →
        no (.tklend d a b) { code := .tokenTarget, info := s.openWord })) ∧
    (tileKind t ≠ .v → s.brokerFree t = false → exec (.tkqry d) s = .next (s.park .broker) ∧
      exec (.tkretL d a) s = .next (s.park .broker) ∧
      (1 ≤ n → n ≤ 255 → exec (.tkreq d a) s = .next (s.park .broker) ∧ exec (.tkretG d a) s = .next (s.park .broker))) ∧
    (tileKind t ≠ .v → s.brokerFree t = true →
      (1 ≤ n → n ≤ 255 →
        exec (.tkreq d a) s = .next (((q.addG t g).modEng t fun e => { e with come := e.come + g }).wx d
          (W (g + (if g = n then 0 else if g ≠ 0 then 1 else if h = 255 then 3 else 2) * 2 ^ 8))).complete ∧
        (let m := min n e.g
         exec (.tkretG d a) s = .next ((q.modEng t fun e =>
           { e with g := e.g - m, gone := e.gone + m, notes := State.payNotes e.notes m }).wx d (W m)).complete) ∧
        (w / 2 ^ 13 % 2 ^ 3 = 0 → w < 2 ^ 32 → term ≠ 0 → s.gated u = true → zoneOf u = z → u ≠ t →
          let full := 255 < q.loansIn u + n + q.floorOf u + (q.tile u).eng.g
          (q.freeLoan z = none ∨ e.g < n + q.underNotice t ∨ full → exec (.tklend d a b) s = .next (q.wx d 0).complete) ∧
          (∀ i, q.freeLoan z = some i → n + q.underNotice t ≤ e.g → ¬full →
            let gen := (getD {} (q.zone z).loans i).gen % 1023 + 1
            ∃ y : State, exec (.tklend d a b) s = .next (y.wx d (W (i + gen * 2 ^ 6))).complete ∧ y.ctxs = q.ctxs ∧
              (y.tile t).eng = { e with g := e.g - n, gone := e.gone + n } ∧
              (y.tile u).eng = { (q.tile u).eng with come := (q.tile u).eng.come + n } ∧
              ∃ l : Loan, find i (y.zone z).loans = some l ∧ l.live = true ∧ l.gen = gen ∧ l.lender = t ∧ l.borrower = u ∧
                l.n = n ∧ l.ends = q.fab + term * 2000))) ∧
      (let l := getD {} (q.zone z).loans (n % 2 ^ 6)
       let lives := l.live = true ∧ l.gen = n / 2 ^ 6 % 2 ^ 10
       let bad := 2 ^ 16 ≤ n ∨ n / 2 ^ 6 % 2 ^ 10 = 0 ∨ (lives ∧ l.lender ≠ t ∧ l.borrower ≠ t)
       (bad → no (.tkretL d a) { code := .tokenArg, info := q.openWord }) ∧
       (¬bad → ¬lives → exec (.tkretL d a) s = .next (q.wx d 0).complete) ∧
       (¬bad → lives → exec (.tkretL d a) s = .next ((((q.endLoan z (n % 2 ^ 6)).modEng l.lender
         fun e => { e with come := e.come + l.n }).modEng l.borrower fun e => { e with gone := e.gone + l.n }).wx d
           (W l.n)).complete)) ∧
      (let y := q.tick t
       let k := (y.tile t).eng
       let r := y.underNotice t
       let left := match k.notes with
         | [] => 0
         | x :: _ => x.2 - k.aclk
       exec (.tkqry d) s = .next ((y.wx d (W (y.held t + k.g % 256 * 2 ^ 8 + y.loansIn t % 256 * 2 ^ 16 +
         y.loansOut t % 256 * 2 ^ 24 + (if y.floorOf t = 0 then 0 else 2 ^ 32) + (if r = 0 then 0 else 2 ^ 33)))).wx (xnext d)
           (W (y.pool z % 2 ^ 12 + r % 256 * 2 ^ 12 + left % 2 ^ 13 * 2 ^ 20))).complete)) ∧
    (let p := s.space s.myAsid.toNat
     exec (.eqrd d) s = .next ((s.wx d (W (p.qremain + (if p.susp then 2 ^ 48 else 0)))).wx (xnext d) (W p.qrefill)).complete)

/-- R389, R391-R394, R404, R447: what the gates, the broker and the quota do by themselves.  A boundary refills a gate by H up
to the cap 8H + 64, with what answers moved; a loan ends at its term, its tokens back with the lender; a tile idle for 64
microseconds gets notice of what it holds and has no notice of, 4096 cycles ahead, and the end of a notice takes its tokens;
at a period boundary QREMAIN is QREFILL and suspension ends.
That an idle tile gets notice only of what has no notice yet, each with its own end, is the model's reading (log 41). -/
def Rules.TokenEvents : Prop :=
  ∀ s : State,
    let u := s.cur.u
    let e := (s.tile u).eng
    let h := s.held u
    (s.gated u = true → ∃ t : State, exec .gateRefill s = .next t ∧ t.ctxs = s.ctxs ∧ t.mem = s.mem ∧
      (t.tile u).eng = { e with h := h, gone := 0, come := 0, period := e.period + 1, aclk := 64 * (e.period + 1),
                                bucket := min (min e.bucket (8 * s.gateH u + 64) + h) (8 * h + 64) }) ∧
    (s.gated u = false → exec .gateRefill s = .next s) ∧
    (let l := getD {} (s.zone u).loans s.cur.v
     (l.live = true → l.ends ≤ s.fab → ∃ t : State, exec .loanTermExpiry s = .next t ∧ t.ctxs = s.ctxs ∧
       (getD {} (t.zone u).loans s.cur.v).live = false ∧ (t.tile l.lender).eng.g = (s.tile l.lender).eng.g + l.n) ∧
     (l.live = false ∨ s.fab < l.ends → exec .loanTermExpiry s = .next s)) ∧
    (let due := max e.beatT e.gT + 64 * 2000 ≤ s.fab
     let r := e.g - s.underNotice u
     (due → r ≠ 0 → ∃ t : State, exec .idleRevocation s = .next t ∧ t.ctxs = s.ctxs ∧ t.mem = s.mem ∧
       (t.tile u).eng.g = e.g ∧ (t.tile u).eng.notes = e.notes ++ [(r, (t.tile u).eng.aclk + 4096)]) ∧
     (e.g = 0 ∨ ¬due ∨ r = 0 → exec .idleRevocation s = .next s)) ∧
    (let q := s.tick u
     let k := (q.tile u).eng
     ((∀ x ∈ k.notes, k.aclk < x.2) → exec .revocationNoticeEnd s = .next q) ∧
     (∀ x, k.notes = [x] → x.2 ≤ k.aclk → x.1 ≤ k.g → ∃ t : State, exec .revocationNoticeEnd s = .next t ∧
       t.ctxs = s.ctxs ∧ (t.tile u).eng.g = k.g - x.1 ∧ (t.tile u).eng.notes = [])) ∧
    (let p := s.space u
     (p.qnext ≤ s.fab → ∃ t : State, exec .quotaPeriodBoundary s = .next t ∧ (t.space u).qremain = p.qrefill ∧
       (t.space u).susp = false ∧ t.mem = s.mem) ∧
     (s.fab < p.qnext → exec .quotaPeriodBoundary s = .next s)) ∧
    (let c := s.ctx u
     (s.space c.asid.toNat).susp = true → c.st = .ready → c.wait = .none → c.answer = .none → c.capt = false →
      c.susp = false → s.freePager (idTid u) = none → ∃ t : State, exec .quotaCapture s = .next t ∧ (t.ctx u).susp = true ∧
        (t.ctx u).pc = c.pc ∧ (t.ctx u).x = c.x ∧ t.mem = s.mem)

/-! ### Frequency, temperature and power (R74, R183, R397-R402) -/

/-- R397, R399-R402: a V/F request is pending until the state of its chiplet moves, one step in 20 microseconds, toward the
greater of the request and, while throttled, TS; the throttle starts at THOT and ends HTH below it, with 200 microseconds
between its changes; an HBM request goes through the 32 channels of its quarry; BUD is kept within 1 to 4096. -/
def Rules.FrequencyAndPower : Prop :=
  ∀ (s : State) (ci q z temp : Nat) (v : Word),
    let p := (s.chip ci).pow
    let k := s.quarry q
    exec (.vfreqWrite ci v) s = .next (s.modChip ci fun c =>
      { c with pow := { c.pow with req := v.toNat % 8, pend := true } }) ∧
    (s.cur.u = ci → p.ramp = none →
      let goal := if p.throt then max p.req p.ts else p.req
      ∃ t : State, exec .vfRampStep s = .next t ∧ t.ctxs = s.ctxs ∧ (t.chip ci).pow.vf = p.vf ∧ (t.chip ci).pow.pend = false ∧
        (t.chip ci).pow.ramp = if p.vf = goal then none
          else some (if p.vf < goal then p.vf + 1 else p.vf - 1, s.fab + 20 * 2000)) ∧
    (∀ g due, s.cur.u = ci → p.ramp = some (g, due) →
      ∃ t : State, exec .vfRampStep s = .next t ∧ (t.chip ci).pow.vf = if due ≤ s.fab then g else p.vf) ∧
    (∀ x, p.eval = some x → s.fab < x + 2000 → exec (.thermalEvaluation ci temp) s = .next (s.modChip ci id)) ∧
    ((∀ x, p.eval = some x → x + 2000 ≤ s.fab) → p.since.getD 0 + 200 * 2000 ≤ s.fab →
      ∃ t : State, exec (.thermalEvaluation ci temp) s = .next t ∧ t.ctxs = s.ctxs ∧ (t.chip ci).pow.temp = temp ∧
        (t.chip ci).pow.throt = (if p.throt then !decide (temp + p.hth ≤ p.thot) else decide (p.thot ≤ temp))) ∧
    (v.toNat % 4 = 3 → exec (.hbmFreqWrite q v) s = .next s) ∧
    (v.toNat % 4 ≠ 3 → k.chg = none → ∃ t : State, exec (.hbmFreqWrite q v) s = .next t ∧
      (t.quarry q).chg = if k.hbm = v.toNat % 4 then none else some (v.toNat % 4, 0, s.fab + 3000)) ∧
    (∀ x, v.toNat % 4 ≠ 3 → k.chg = some x → ∃ t : State, exec (.hbmFreqWrite q v) s = .next t ∧
      (t.quarry q).pend = some (v.toNat % 4) ∧ (t.quarry q).chg = some x) ∧
    (∀ g ch due, s.cur.u = q → k.chg = some (g, ch, due) → ∃ t : State, exec .hbmChannelRetrain s = .next t ∧
      (s.fab < due → t.quarry q = k) ∧
      (due ≤ s.fab → ch < 31 → (t.quarry q).chg = some (g, ch + 1, s.fab + 3000) ∧ (t.quarry q).hbm = k.hbm) ∧
      (due ≤ s.fab → 31 ≤ ch → k.pend = none → (t.quarry q).chg = none ∧ (t.quarry q).hbm = g)) ∧
    (∃ t : State, exec (.zoneBudgetWrite z v) s = .next t ∧ t.ctxs = s.ctxs ∧ t.mem = s.mem ∧
      (t.zone z).bud = max 1 (min 4096 (v.toNat % 2 ^ 13)))

/-- R33, R74, R183: a bit of RETAIN written 1 cancels that core's retention, and its marked banks may lose their contents,
after which they read 0; the others stay as they are. -/
def Rules.Retention : Prop :=
  (∀ (s : State) (tid : Nat), tid < 2 ^ 13 →
    exec (.retainCancel tid 0) s = .next s ∧
    ∀ v : Word, ∃ t : State, exec (.retainCancel tid v) s = .next t ∧ t.ctxs = s.ctxs ∧ t.mem = s.mem ∧
      ∀ c, c < 8 → (v.toNat.testBit c = true → (t.core (tid + c * 2 ^ 13)).keep = none) ∧
        (v.toNat.testBit c = false → (t.core (tid + c * 2 ^ 13)).keep = (s.core (tid + c * 2 ^ 13)).keep)) ∧
  (∀ (s : State), ∃ t : State, exec .scratchPowerLoss s = .next t ∧ t.ctxs = s.ctxs ∧ t.mem = s.mem ∧
    (∀ x, x ≠ s.cur.u → t.tile x = s.tile x) ∧
    ∀ a, t.bankByte s.cur.u a = s.bankByte s.cur.u a ∨ t.bankByte s.cur.u a = 0)

/-! ### Privilege and system registers (R62, R424-R426, R448) -/

/-- R62, R65, R424, R448: an instruction of the list of R448 that a context without privilege issues raises PRIVILEGE at its
major, and SGET or SSET of a privileged register at its selector. -/
def Obligations.Privilege : Prop :=
  ∀ (s : State) (d a : XReg) (n : BitVec 12) (k : BitVec 10) (sel : BitVec 16) (q : Fin 64) (w : Fin 16), s.priv = false →
    let no (i : Instr) (pos : Nat) : Prop := exec i s = .next (s.raise { code := .privilege, info := s.encInfo pos false })
    no (.fwinset d a q w) 88 ∧ no (.ctxrd d a n) 88 ∧ no (.ctxwr d a n) 88 ∧ no (.tretNext a) 88 ∧ no (.tretAt d a) 88 ∧
    no (.tretEnd a) 88 ∧
    no (.tlbinvVa a k) 88 ∧ no (.tlbinvAsid k) 88 ∧ no .tlbinvAll 88 ∧ no (.pgdone d a) 88 ∧ no (.preempt d a) 88 ∧
    no (.resume d a) 88 ∧ no (.asidsetBind d a k) 88 ∧ no (.asidsetFree d k) 88 ∧ no (.asidsetQuery d k) 88 ∧
    no (.dumpreq a) 88 ∧ no (.dbgBrk d a) 88 ∧ no (.dbgClr a) 88 ∧ no (.dbgStep a) 88 ∧
    (sel.getLsbD 15 = true → no (.sget d sel) 51 ∧ no (.sset a sel) 51)

/-- R5, R20, R201, R425, R426: SGET writes what the selector reads, SSET writes the register; a selector that names none raises
SYSREG with the selector.  Both wait for the accesses of the context that have not performed.  CSTAT shows the rounding mode, NFM, colour, class, privilege and gang, and takes only the
rounding mode; SRKEY and the halves of SRCTR are read and written whole. -/
def Obligations.SystemRegisters : Prop :=
  ∀ (s : State) (d a : XReg) (sel : BitVec 16), s.settled →
    let n := sel.toNat
    let v := s.xval a
    let c := s.me
    let holds (k : BitVec 16) (w : Word) (f : Ctx) : Prop := exec (.sget d k) s = .next (s.wlong (.x d w)).complete ∧
      exec (.sset a k) s = .next (s.modMe fun _ => f).complete ∧ exec (.sysregWrite s.cur.id k v) s = .next (s.modMe fun _ => f)
    (sel.getLsbD 15 = false ∨ s.priv = true → c.accs ≠ [] →
      exec (.sget d sel) s = .next (s.park (.accs c.accs.length)) ∧ exec (.sset a sel) s = .next (s.park (.accs c.accs.length))) ∧
    (c.accs = [] →
    (sel.getLsbD 15 = false ∨ s.priv = true →
      (∀ w, s.sysRead s.cur.id n = some w → exec (.sget d sel) s = .next (s.wlong (.x d w)).complete ∧
        ∃ t, s.sysWrite s.cur.id n v = some t ∧ exec (.sset a sel) s = .next t.complete ∧
          exec (.sysregWrite s.cur.id sel v) s = .next t) ∧
      (s.sysRead s.cur.id n = none → exec (.sget d sel) s = .next (s.raise { code := .sysreg, info := W n }) ∧
        exec (.sset a sel) s = .next (s.raise { code := .sysreg, info := W n }))) ∧
    holds 0x10 (W (c.rm.toNat + (if c.nfm then 8 else 0) + c.colour.toNat * 16 + c.cls.toNat * 256 +
      (if s.priv then 1024 else 0) + (if c.gang.isSome then 2048 else 0))) { c with rm := v.setWidth 3 } ∧
    holds 0x40 c.srkey { c with srkey := v } ∧
    holds 0x41 (c.srctr.setWidth 64) { c with srctr := c.srctr.extractLsb' 64 64 ++ v } ∧
    holds 0x42 (c.srctr.extractLsb' 64 64) { c with srctr := v ++ c.srctr.setWidth 64 } ∧
    (s.priv = true → let t := s.modChip (chipOf s.myTid) fun k => { k with fvec := v }
      exec (.sget d 0x8410) s = .next (s.wlong (.x d (s.chip (chipOf s.myTid)).fvec)).complete ∧
      exec (.sset a 0x8410) s = .next t.complete))

/-! ### The context window, return from a fault, debug (R432-R435, R450) -/

/-- What X[A] names for the context window: an identity of the executing chiplet (R432). -/
def namesContext (s : State) (w : Word) : Prop :=
  w.toNat < 2 ^ 20 ∧ idCtx w.toNat ≤ 10 ∧ inGrid (idTid w.toNat) = true ∧ chipOf (idTid w.toNat) = chipOf s.myTid

/-- R432-R434, R450: the target is a FAULTED context of the chiplet, for DBG one that is not FREE; otherwise CTX_STATE.  CTXRD
reads and CTXWR writes an item of its image; an item past the image raises SYSREG.  DBG sets and clears its breakpoint. -/
def Rules.ContextWindow : Prop :=
  ∀ (s : State) (d a : XReg) (n : BitVec 12) (r : XReg), s.settled → s.priv = true → s.relGate = .ok () →
    let w := s.xval a
    let v := s.xval d
    let id := w.toNat
    let c := s.ctx id
    let bad (i : Instr) : Prop := exec i s = .next (s.raise { code := .ctxState, info := w })
    let off (i : Instr) : Prop := exec i s = .next (s.raise { code := .sysreg, info := s.openWord })
    let sets (i : Instr) (c' : Ctx) : Prop := exec i s = .next (s.modCtx id fun _ => c').complete
    (¬(namesContext s w ∧ c.st = .faulted) →
      bad (.ctxrd d a n) ∧ bad (.ctxwr d a n) ∧ bad (.tretNext a) ∧ bad (.tretAt d a) ∧ bad (.tretEnd a) ∧ bad (.dbgStep a)) ∧
    (¬(namesContext s w ∧ c.st ≠ .free) → bad (.dbgBrk d a) ∧ bad (.dbgClr a)) ∧
    (namesContext s w → c.st ≠ .free →
      sets (.dbgBrk d a) { c with brk := some v } ∧ sets (.dbgClr a) { c with brk := none }) ∧
    (namesContext s w → c.st = .faulted →
      (768 ≤ n.toNat → off (.ctxrd d a n) ∧ off (.ctxwr d a n)) ∧
      (n.toNat < 768 →
        exec (.ctxrd d a n) s = .next (s.wlong (.x d
          (imageWord (s.isSuper (coreOf id)) id (State.captured c) n.toNat))).complete ∧
        ∃ t : State, exec (.ctxwr d a n) s = .next t.complete ∧ t = { s with ctxs := t.ctxs } ∧
          ∀ j, j ≠ id → t.ctx j = s.ctx j) ∧
      (c.pend = [] → c.status = [] →
        exec (.ctxrd d a 1) s = .next (s.wlong (.x d c.pc)).complete ∧
        exec (.ctxrd d a (BitVec.ofNat 12 (8 + r.val))) s = .next (s.wlong (.x d (c.x.get r))).complete ∧
        exec (.ctxrd d a 97) s = .next (s.wlong (.x d c.srkey)).complete ∧
        (∃ c' : Ctx, sets (.ctxwr d a 1) c' ∧ c'.pc = v ∧ c'.pcset = true ∧ sameRegs c c' [] ∧
          sameControl c { c' with pcset := c.pcset }) ∧
        (r.val ≠ 0 → sets (.ctxwr d a (BitVec.ofNat 12 (8 + r.val))) { c with x := c.x.set r.val v r.isLt }) ∧
        sets (.ctxwr d a 97) { c with srkey := v } ∧
        exec (.ctxwr d a 0) s = .next s.complete))

/-- R46, R51, R87, R433, R435, R450: TRET makes its FAULTED target READY: `.next` after the faulting slot, whose PC, if CTXWR set
it, must be a legal target, `.at` at a legal target; `.end` ends it as HALT does.  Registers and predicates of the target stay.  DBG `.step` is TRET `.next` that halts
after one instruction.
Going past the PC for a late fault too, and the check of a PC only where CTXWR set it, are the model's reading (log 23). -/
def Rules.ReturnFromFault : Prop :=
  ∀ (s s1 : State) (d a : XReg), s.settled → s.priv = true → s.relGate = .ok () → namesContext s (s.xval a) →
    let id := (s.xval a).toNat
    let c := s.ctx id
    c.st = .faulted →
    let goes (i : Instr) (step : Bool) : Prop := ∃ t : State, exec i s = .next t.complete ∧ (t.ctx id).st = .ready ∧
      (t.ctx id).frec = none ∧ (t.ctx id).step = step ∧ sameRegs c (t.ctx id) [] ∧
      (c.l0.armed = false → c.l1.armed = false → (t.ctx id).pc = seqPc c.pc) ∧ ∀ j, j ≠ id → t.ctx j = s.ctx j
    (c.pcset = false → goes (.tretNext a) false ∧ goes (.dbgStep a) true) ∧
    (c.pcset = true → ∀ f, s.legal (coreOf id) c.asid c.pc (s.encInfo 0 false) = .error (.flt f) →
      exec (.tretNext a) s = .next (s.raise f) ∧ exec (.dbgStep a) s = .next (s.raise f)) ∧
    (c.pcset = true → s.legal (coreOf id) c.asid c.pc (s.encInfo 0 false) = .ok s1 → s1.ctxs = s.ctxs →
      goes (.tretNext a) false ∧ goes (.dbgStep a) true) ∧
    (∀ f, s.legal (coreOf id) c.asid (s.xval d) (s.encInfo 0 false) = .error (.flt f) →
      exec (.tretAt d a) s = .next (s.raise f)) ∧
    (s.legal (coreOf id) c.asid (s.xval d) (s.encInfo 0 false) = .ok s1 → s1.ctx id = c →
      ∃ t : State, exec (.tretAt d a) s = .next t.complete ∧ (t.ctx id).st = .ready ∧ (t.ctx id).frec = none ∧
        (t.ctx id).pc = s.xval d ∧ sameRegs c (t.ctx id) [] ∧ (t.ctx id).l0 = c.l0 ∧ (t.ctx id).l1 = c.l1) ∧
    (c.pend = [] → c.accs = [] → c.child = 0 → c.status = [] → c.late = none → idCtx id = 0 →
      ∃ t : State, exec (.tretEnd a) s = .next t.complete ∧ t.ctx id = {}) ∧
    (c.child ≠ 0 → c.late = none → exec (.tretEnd a) s = .next
      (s.modCtx id fun c => { c with frec := none, st := .parked, wait := .ending, answer := .none }).complete)

/-! ### Translation and paging (R410-R422, R438) -/

/-- R412, R415, R416, R422: TLBINV releases at sy, drops the named translations and lines everywhere, and acquires at sy; no
named translation stays in any TLB.  A walk installs the leaf that it found in the TLBs; one that faults changes nothing. -/
def Rules.Translations : Prop :=
  ∀ (s : State) (a : XReg) (n : BitVec 10), s.settled →
    (s.priv = true → s.relGate = .ok () →
      let ea := s.xval a
      let does (i : Instr) (f : State → State) (gone : TlbE → Prop) : Prop :=
        ∃ t : State, exec i s = .next t.complete ∧ t = (f (s.release s.myCore .sy)).acquire s.myCore .sy ∧ t.ctxs = s.ctxs ∧
          (∀ k, ∀ e ∈ (t.core k).tlb, ¬gone e) ∧ ∀ k, ∀ e ∈ (t.tile k).tlb, ¬gone e
      (Bits ea 60 4 = 0 ∨ Bits ea 60 4 = 4 → does (.tlbinvVa a n) (fun t => t.invPage n ea)
        fun e => e.asid = n ∧ e.va ≤ Bits ea 0 57 ∧ Bits ea 0 57 < e.va + e.size) ∧
      does (.tlbinvAsid n) (fun t => t.invSpaces (· == n)) (fun e => e.asid = n) ∧
      does .tlbinvAll (fun t => t.invSpaces fun _ => true) fun _ => True) ∧
    (∀ (core : Nat) (va : Word) (k : AccKind), core < 2 ^ 16 →
      ((s.profile n).isNone = true → exec (.pageWalk core n va k) s = .next s) ∧
      ((s.profile n).isSome = true →
      let ag : Agent := { tid := idTid core, core := some core, asid := n }
      (∀ x, s.leafFor ag va k = .error x → exec (.pageWalk core n va k) s = .next s) ∧
      (∀ e t e' t', s.leafFor ag va k = .ok (e, t) → t.setDirty ag e va k = .ok (e', t') →
        exec (.pageWalk core n va k) s = .next t' ∧ t'.ctxs = s.ctxs ∧ e' ∈ (t'.core core).tlb ∧
          (State.tlbFind (s.core core).tlb n (Bits va 0 57) = none → e' ∈ (t'.tile (idTid core)).tlb))))

/-- R438: PGDONE answers 1 for a future without owner and 2 for one that is not ARMED; otherwise it invalidates the page of
the fault and resolves the future with X[A+1], answering 0. -/
def Rules.EndOfPageFault : Prop :=
  ∀ (s s1 : State) (d a : XReg) (pa : Nat), s.settled → s.priv = true → s.relGate = .ok () →
    s.futSite s.agent .store (s.xval a) = .ok (pa, s1) →
    let t0 := (s1.release s1.myCore .sy).pushHome s1.myCore (pa / 64)
    let w := futAt t0 pa 0
    (w % 2 ^ 32 = 0 → exec (.pgdone d a) s = .next (t0.wx d 1).complete) ∧
    (w % 2 ^ 32 ≠ 0 → w / 2 ^ 62 ≠ 1 → exec (.pgdone d a) s = .next (t0.wx d 2).complete) ∧
    (w % 2 ^ 32 ≠ 0 → w / 2 ^ 62 = 1 → t0.pagerFault (w % 2 ^ 32) = none →
      ∃ t : State, exec (.pgdone d a) s = .next (t.wx d 0).complete ∧ t.ctxs = t0.ctxs ∧ futAt t pa 0 / 2 ^ 62 = 2 ∧
        futAt t pa 0 % 2 ^ 48 = w % 2 ^ 48 ∧ futAt t pa 1 = (s.xval (xnext a)).toNat) ∧
    (∀ va k, w % 2 ^ 32 ≠ 0 → w / 2 ^ 62 = 1 → t0.pagerFault (w % 2 ^ 32) = some (va, k) →
      exec (.pgdone d a) s = .next
        ((((t0.invPage k va).resolveFut pa true (s.xval (xnext a)) s.meResolver s.me.colour).2).wx d 0).complete)

/-- R407, R409, R421: ASIDSET `.bind` checks the profile, binds a new ASID with status 0, or replaces the profile of a bound
one with status 1 and its translations gone; `.free` answers 2 while the ASID is carried, 3 when it is not bound, and
unbinds it with 0; `.query` reads the binding and the profile's low bits. -/
def Obligations.AddressSpaces : Prop :=
  ∀ (s : State) (d a : XReg) (n : BitVec 10), s.settled → s.priv = true → s.relGate = .ok () →
    let unbinds (r : State) : Prop := (∀ k, ∀ e ∈ (r.core k).tlb, e.asid ≠ n) ∧ ∀ k, ∀ e ∈ (r.tile k).tlb, e.asid ≠ n
    (∀ p t, s.readProfile (s.xval a) = .ok (p, t) →
      (∀ b, State.profileBad p = some b → exec (.asidsetBind d a n) s = .next (s.raise { code := .asidProfile, info := W b })) ∧
      (State.profileBad p = none → (t.profile n).isSome = true → ∃ r : State,
        exec (.asidsetBind d a n) s = .next (r.wx d 1).complete ∧ r.ctxs = t.ctxs ∧
          r.profile n = some (BitVec.ofNat 4096 p) ∧ unbinds r) ∧
      (State.profileBad p = none → t.profile n = none → ∃ r : State,
        exec (.asidsetBind d a n) s = .next (r.wx d 0).complete ∧ ((t.space n.toNat).susp = false → r.ctxs = t.ctxs) ∧
          r.space n.toNat = { t.space n.toNat with prof := some (BitVec.ofNat 4096 p), qrefill := 0, qremain := 0,
                                                   susp := false, hit := 0, miss := 0, inval := 0 })) ∧
    (n = 0 ∨ s.asidCarried n = true → exec (.asidsetFree d n) s = .next (s.wx d 2).complete) ∧
    (n ≠ 0 → s.asidCarried n = false → s.profile n = none → exec (.asidsetFree d n) s = .next (s.wx d 3).complete) ∧
    (n ≠ 0 → s.asidCarried n = false → s.profile n ≠ none → ∃ r : State,
      exec (.asidsetFree d n) s = .next (r.wx d 0).complete ∧ ((s.space n.toNat).susp = false → r.ctxs = s.ctxs) ∧ r.profile n = none ∧ unbinds r) ∧
    (∀ p, s.profile n = some p →
      exec (.asidsetQuery d n) s = .next (s.wx d (W (1 + p.toNat % 8 * 2))).complete) ∧
    (s.profile n = none → exec (.asidsetQuery d n) s = .next (s.wx d 0).complete)

/-! ### Pre-emption (R439-R446) -/

/-- R440, R443, R445, R446: PREEMPT answers 3 for a malformed request and 1 for a unit of nothing; otherwise it waits, and when
its unit is captured answers 0, with every captured context FREE, or 2 when the area is too small.  A context is captured
at its instruction boundary.  RESUME answers 2 where no captured unit stands.
Where a captured unit stands, and that an area may be resumed again, is the model's reading (logs 31, 32). -/
def Obligations.Preemption : Prop :=
  ∀ (s : State) (d a : XReg), s.settled → s.priv = true →
    let w := s.xval a
    let area := s.xval (xnext a)
    let size := s.xval (xnext (xnext a))
    (find s.cur.id s.pres = none → s.relGate = .ok () →
      (preBad w area size = true → exec (.preempt d a) s = .next (s.wx d 3).complete) ∧
      (preBad w area size = false → s.unitIds w = none → exec (.preempt d a) s = .next (s.wx d 1).complete) ∧
      (∀ p t, s.preStart w area size = .ok (.ok (p, t)) → exec (.preempt d a) s = .next
        ({ t with pres := put s.cur.id p t.pres }.noteTaken.park (.capture s.cur.id)))) ∧
    (∀ p, find s.cur.id s.pres = some p →
      let q := s.preEnd w area size p
      exec (.preempt d a) s = .next (q.2.wx d (W q.1)).complete ∧ (q.1 = 0 ∨ q.1 = 2) ∧
        (q.1 = 0 → ∀ i ∈ p.ids, (s.ctx i).taken = true → q.2.ctx i = {})) ∧
    (let c := s.ctx s.cur.u
     (c.capt = true → c.taken = false → s.canCapture c = true → ∃ t : State, exec .contextCapture s = .next t ∧
       (t.ctx s.cur.u).taken = true ∧
       (c.wait ≠ .answer → sameRegs c (t.ctx s.cur.u) [] ∧ (t.ctx s.cur.u).pc = c.pc) ∧
       ∀ m ∈ t.mons, m.id ≠ s.cur.u) ∧
     (c.capt = false ∨ c.taken = true ∨ s.canCapture c = false → ∃ t : State, exec .contextCapture s = .next t ∧
       t = { s with pres := t.pres })) ∧
    (w.toNat % 4096 ≠ 0 ∨ 0x30000000000 ≤ w.toNat → exec (.resume d a) s = .next (s.wx d 2).complete) ∧
    (∀ k t, w.toNat % 4096 = 0 → w.toNat < 0x30000000000 →
      s.resumeUnit w.toNat (Bits area 0 13) = .ok (k, t) → exec (.resume d a) s = .next (t.wx d (W k)).complete) ∧
    (w.toNat % 4096 = 0 → w.toNat < 0x30000000000 → s.unitAt w.toNat = none →
      exec (.resume d a) s = .next (s.wx d 2).complete)

/-! ### Errors, dumps, the host, start and mailbox (R431, R449, R452-R464) -/

/-- R431, R449, R464, R465: DUMPREQ and a fatal error stop the module with a dump to take; the dump is then written, its
header first, and is valid.  A corrected error sends its message; a context's lost data becomes its late fault; a running
job ends with DATA_UNCORR. -/
def Rules.ErrorsAndDumps : Prop :=
  ∀ (s : State) (a : XReg) (tid id index : Nat) (info : Word), s.settled →
    let n := s.norb
    let stops (i : Instr) (src : Nat) (reason : Word) (u : Nat) : Prop := ∃ t : State, exec i s = .next t ∧
      t.norb.halted = true ∧ t.norb.status = .dumping ∧ t.ctxs = s.ctxs ∧ ∃ c, t.norb.trig = some (src, c, reason, u)
    (n.trig = none → n.halted = false →
      (s.priv = true → s.relGate = .ok () → (s.xval a).toNat < 2 ^ 32 → stops (.dumpreq a) 1 (s.xval a) s.myTid) ∧
      stops (.uncorrectableError (.fatal tid info)) 0 info (tid % 2 ^ 13)) ∧
    (n.trig = none → exec .fatalDump s = .next s) ∧
    (∀ src code reason u, n.trig = some (src, code, reason, u) → ∃ t : State, exec .fatalDump s = .next t ∧
      t.norb.trig = none ∧ t.norb.dumpv = true ∧ t.norb.halted = true ∧ t.norb.status = .halted ∧ t.ctxs = s.ctxs ∧
      loadLE t.mem 0x2FF80000000 8 = 0x44554D5057480001 ∧ loadLE t.mem 0x2FF80000010 8 = reason.toNat) ∧
    (∀ T, let ci := chipOf tid
      s.superTile ci = some T → (s.chip ci).fq.length < 64 → (s.chip ci).fwait = [] →
      ∃ t : State, exec (.correctedError tid info) s = .next t ∧ t = { s with chips := t.chips, packets := t.packets } ∧
        ∃ m : Msg, (t.chip ci).fq = (s.chip ci).fq ++ [m] ∧ m.kind = .fault ∧
          m.w = #v[(s.chip ci).fvec, W T, W (0x7E + 5 * 2 ^ 8 + tid % 2 ^ 13 * 2 ^ 32 + 15 * 2 ^ 48), info, 0, 0,
            W (s.chip ci).fseq, 0]) ∧
    (let c := s.ctx id
     let lost : Flt := { code := .dataUncorr, info := info }
     n.trig = none → n.halted = false →
     (c.st ≠ .free → index < 2 ^ 16 → c.pend[index]? = none → c.late = none → exec (.uncorrectableError (.ctxData id index info)) s =
       .next (s.setCtx id { c with late := some { flt := lost, pc := c.pc } })) ∧
     (∀ e, c.st ≠ .free → index < 2 ^ 16 → c.pend[index]? = some e → e.flt = none →
       exec (.uncorrectableError (.ctxData id index info)) s =
         .next (s.setCtx id { c with pend := setNth c.pend index { e with flt := some lost } })) ∧
     (∀ e, c.st ≠ .free → 2 ^ 16 ≤ index → c.status[index - 2 ^ 16]? = some e → e.flt = none →
       exec (.uncorrectableError (.ctxData id index info)) s =
         .next (s.setCtx id { c with status := setNth c.status (index - 2 ^ 16) { e with flt := some lost } })) ∧
     (c.st = .free → exec (.uncorrectableError (.ctxData id index info)) s = .next s)) ∧
    (∀ j, n.trig = none → n.halted = false → ((s.tile tid).slot index).job = some j → j.st = .running → j.ovr = false →
      ∃ (t : State) (j' : Job) (f : Flt), exec (.uncorrectableError (.jobData tid index)) s = .next t ∧
        ((t.tile tid).slot index).job = some j' ∧ j'.stop = some f ∧ f.code = .dataUncorr ∧ j'.ovr = true ∧ t.mem = s.mem)

/-- R452-R456: a host write lands in the exposed part of module memory while HDMCFG enables it, and nowhere otherwise; a
write of a launch window enters its buffer, or is dropped and counted when the window is off, full or not written by a
whole line; slot 63 takes none.  A port's link state shows in its register. -/
def Rules.HostAccess : Prop :=
  ∀ (s : State) (dpa len ci w slot p : Nat) (l : List Byte) (up : Bool),
    let room := if Bit s.hdmcfg 0 then Bits s.hdmcfg 1 12 * 2 ^ 30 else 0
    let win := getD ({} : LaunchWin) (s.chip ci).win w
    (∃ q : List Byte, exec (.hostMemoryAccess dpa len none) s = .next { s with host := q } ∧ q.length = len ∧
      ∀ i, i < len → let a := dpa + i
        (a < room → a < 0x30000000000 → q.getD i 0 = s.homeByte a) ∧ (room ≤ a → a < 0x30000000000 → q.getD i 0 = 0) ∧
        (0x30000E00000 ≤ a → q.getD i 0 = 0) ∧
        (∀ k j b : Nat, k < 448 → j < 8 → b < 0x1000 → a = 0x30000000000 + k * 0x8000 + j * 0x1000 + b →
          (q.getD i 0).toNat = if 0xFC0 ≤ b ∧ b < 0xFC8 then (s.lwStat k j).toNat / 256 ^ (b - 0xFC0) % 256 else 0)) ∧
    (l.length = len → dpa + len ≤ room → dpa < 0x30000000000 → ∃ t : State,
      exec (.hostMemoryAccess dpa len (some l)) s = .next t ∧ t = { s with mem := t.mem, mons := t.mons } ∧
      (∀ i, i < len → t.homeByte (dpa + i) = l.getD i 0) ∧
      ∀ x, x < dpa ∨ dpa + len ≤ x → t.homeByte x = s.homeByte x) ∧
    (room ≤ dpa → dpa < 0x30000000000 → exec (.hostMemoryAccess dpa len (some l)) s = .next s) ∧
    (63 ≤ slot → exec (.launchWrite ci w slot l) s = .next s) ∧
    (slot < 63 → w < 8 → ci < 448 → s.superTile ci ≠ none →
      (Bit win.cfg 10 = false ∨ l.length ≠ 64 ∨ 64 ≤ win.buf.length → ∃ t : State,
        exec (.launchWrite ci w slot l) s = .next t ∧ t = { s with chips := t.chips } ∧
          getD ({} : LaunchWin) (t.chip ci).win w = { win with drop := win.drop + 1 }) ∧
      (Bit win.cfg 10 = true → l.length = 64 → win.buf.length < 64 →
        ∃ (m : Msg) (x : Launch) (q : State), x.msg = m ∧ x.gang = Bit win.cfg 12 ∧ x.priv = Bit win.cfg 11 ∧
          m.asid = BitVec.ofNat 10 (Bits win.cfg 0 10) ∧ some m.sender = s.superTile ci ∧
          m.w[0].toNat = ((List.range 8).map fun i => (l.getD i 0).toNat * 256 ^ i).sum ∧
          q = { s with chips := q.chips } ∧
          getD ({} : LaunchWin) (q.chip ci).win w = { win with buf := win.buf ++ [x] } ∧
          exec (.launchWrite ci w slot l) s = .next (q.serveWindow ci w 65))) ∧
    (24 ≤ p → exec (.peerPortLinkChange p up) s = .next s) ∧
    (p < 24 → let r := getD {} s.peers p
      ∃ t : State, exec (.peerPortLinkChange p up) s = .next t ∧ t = { s with peers := t.peers } ∧
        (getD {} t.peers p).sent = r.sent ∧
        ∀ i, i < 64 → Bit (getD {} t.peers p).reg i = if i = 1 then up else Bit r.reg i)

/-- R455, R459-R463: a refused launch is sent again when its time has come.  A start without failures leaves the state
after reset, BOOTSEQ one higher, and a tile that fails its test dark: memory, registers and FVEC stand at the values that the
model chose (logs 1, 4, 5, 11); launch-window writes that arrived meanwhile count in DROP.  The mailbox commands do what R463
says: BUSY until they end, and ignored while the mailbox is BUSY. -/
def Obligations.StartAndMailbox : Prop :=
  (∀ (s : State) (tid : Nat) (detail : Word), (∀ r ∈ s.norb.log, recResult r = 0) → s.norb.dumpv = false →
    let start (l : List BootResult) (dark : List Nat) : Prop := ∃ n : Norb, exec (.coldReset ⟨l, []⟩) s = .next
        { State.reset with norb := n, dark := dark, agenda := s.agenda, seq := s.seq + 1, cur := s.cur } ∧
      n.status = .ready ∧ n.halted = false ∧ n.bootseq = (s.norb.bootseq + 1) % 2 ^ 32 ∧ n.nfail = dark.length
    (∀ early : List (Nat × Nat), ∃ t : State, exec (.coldReset ⟨[], early⟩) s = .next t ∧ t.ctxs = [] ∧ t.mem = [] ∧
      ∀ ci w, ci < 448 → w < 8 → (getD ({} : LaunchWin) (t.chip ci).win w).drop = early.count (ci, w)) ∧
    start [] [] ∧ (inGrid tid = true → start [{ step := 4, unit := tid, result := 1, detail := detail }] [tid])) ∧
  (∀ s : State,
    let n := s.norb
    let arg := s.cur.u
    let does (i : Instr) (p : Norb → Prop) : Prop := n.status ≠ .busy → ∃ n' : Norb, exec i s = .next { s with norb := n' } ∧
      n'.status = .busy ∧ p n'
    (n.status = .busy → ∀ i ∈ [Instr.readlog, .clearlog, .dumpinfo, .readdump, .releasedump, .mailboxUnknownCmd],
      exec i s = .next s) ∧
    (∀ r, s.agenda = .mailboxEnd :: r → step s = .next { s with agenda := r, norb := { n with status :=
      if n.status ≠ .busy then n.status else if n.fails then .badarg else if n.trig.isSome then .dumping
      else if n.failed then .bootfail else if n.halted then .halted else .ready } }) ∧
    (arg % 256 = 0 → arg < 4096 → does .readlog fun m => m.log = n.log ∧ m.fails = false ∧
      ∀ k, k < 256 → m.window.getD (2 * k) 0 = (n.log.getD (arg + k) (0, 0)).1 ∧
        m.window.getD (2 * k + 1) 0 = (n.log.getD (arg + k) (0, 0)).2) ∧
    (arg % 256 ≠ 0 → does .readlog fun m => m.fails = true ∧ m.window = n.window ∧ m.log = n.log) ∧
    (does .clearlog fun m => m.log = [] ∧ m.bootseq = n.bootseq ∧ m.fails = false) ∧
    (n.dumpv = true → does .dumpinfo fun m => ∀ k, k < 512 →
      m.window.getD k 0 = W (loadLE s.mem (0x2FF80000000 + 8 * k) 8)) ∧
    (n.dumpv = false → does .dumpinfo fun m => ∀ k, m.window.getD k 0 = 0) ∧
    (arg % 4096 = 0 → arg < 2 ^ 31 → does .readdump fun m => ∀ k, k < 512 →
      m.window.getD k 0 = W (loadLE s.mem (0x2FF80000000 + arg + 8 * k) 8)) ∧
    (arg % 4096 ≠ 0 ∨ 2 ^ 31 ≤ arg → does .readdump fun m => m.fails = true ∧ m.window = n.window) ∧
    (does .releasedump fun m => m.dumpv = false ∧ m.log = n.log) ∧
    (s.cur.v = 0 ∨ 5 < s.cur.v → does .mailboxUnknownCmd fun m => m.fails = true ∧ m.log = n.log ∧ m.dumpv = n.dumpv)) ∧
  (∀ (s : State) (f : Flight) (t ci w : Nat), s.flights[s.cur.u]? = some f → f.resend = some t → f.org = .window ci w →
    (s.fab < t → exec .launchResend s = .next s) ∧
    (t ≤ s.fab → let g := { f with resend := none, tid := Bits f.msg.w[1] 0 13 }
      exec .launchResend s = .next { s with flights := setNth s.flights s.cur.u g }))

/-! ### What units do by themselves (R178, R187, R188, R239, R248) -/

/-- R187, R188: the oldest waiting claim or take of a ring is served when a slot is FREE or FILLED, and its context goes on
with the slot's address; a take of data whose NFM differs raises FORMAT_MISMATCH instead. -/
def Rules.RingService : Prop :=
  ∀ (s : State) (id : Nat) (base : Word) (rest : List RingReq),
    let u := s.cur.u
    let b := s.cur.v
    let r := s.ring u b
    let c := s.ctx id
    let at_ (i : Nat) : Word := base + W (i * (64 * 2 ^ r.slotsz))
    let goes (t : State) (a : Answer) : Prop := (t.ctx id).answer = a ∧
      (t.ctx id).st = (if c.st = .parked then .ready else c.st) ∧ sameRegs c (t.ctx id) [] ∧ ∀ j, j ≠ id → t.ctx j = s.ctx j
    (r.claims = [] ∨ r.freeN = 0 → exec .ringClaimServed s = .next s) ∧
    (r.claims = .claim id base :: rest → r.freeN ≠ 0 → ∃ t : State, exec .ringClaimServed s = .next t ∧
      goes t (.val (at_ r.claimI)) ∧ (t.ring u b).claims = rest ∧ (t.ring u b).freeN = r.freeN - 1 ∧
      ((t.ring u b).slot r.claimI).st = .claimed) ∧
    (r.takes = [] ∨ r.filled = 0 → exec .ringTakeServed s = .next s) ∧
    (r.takes = .take id base :: rest → r.filled ≠ 0 →
      ((r.slot r.takeI).nfm = s.profNfm c.asid → ∃ t : State, exec .ringTakeServed s = .next t ∧
        goes t (.val (at_ r.takeI)) ∧ (t.ring u b).takes = rest ∧ (t.ring u b).filled = r.filled - 1 ∧
        ((t.ring u b).slot r.takeI).st = .taken) ∧
      ((r.slot r.takeI).nfm ≠ s.profNfm c.asid → ∃ (t : State) (f : Flt), exec .ringTakeServed s = .next t ∧
        f.code = .formatMismatch ∧ goes t (.flt f) ∧ (t.ring u b).takes = rest ∧ (t.ring u b).filled = r.filled))

/-- R178, R239, R248: a delivery stores its value in the record's argument slot and counts JOIN down, the last one sends the
record's task to a live target; one to a record with JOIN 0 reports JOIN_UNDERFLOW.  A child's arrival counts at its parent, or reports
BAR_TREE; a root's broadcast clears the arrivals of its record.  An instruction line that arrives makes the contexts that wait for it
READY. -/
def Obligations.Arrivals : Prop :=
  (∀ (s : State) (d : Delivery), s.delivs[s.cur.u]? = some d → d.k ≤ 5 →
    let h := futAt s d.home 1
    let join := h / 2 ^ 48
    (2 ≤ join → ∃ t : State, exec .continuationDelivery s = .next t ∧ t.delivs = dropNth s.delivs s.cur.u ∧
      t.flights = s.flights ∧ futAt t (d.home + 16 + 8 * d.k) 0 = d.value.toNat ∧ futAt t d.home 1 = h - 2 ^ 48 ∧
      ∀ a, a < d.home + 8 ∨ d.home + 64 ≤ a → t.homeByte a = s.homeByte a) ∧
    (join = 1 → s.live (h % 2 ^ 13) = true → s.isSuper (h % 2 ^ 16) = false → h / 2 ^ 18 % 2 = 0 →
      ∃ (t : State) (f : Flight), exec .continuationDelivery s = .next t ∧ t.flights = s.flights ++ [f] ∧
      f.msg.asid = d.asid ∧ f.msg.colour = d.colour ∧ f.msg.w[0] = W (futAt s d.home 0) ∧ f.msg.w[1] = W (h % 2 ^ 48) ∧
      (f.msg.w.toList.getD (d.k + 2) 0) = d.value) ∧
    (join = 0 → ∃ t : State, exec .continuationDelivery s = .next t ∧ t.mem = s.mem ∧ t.ctxs = s.ctxs ∧
      t.flights = s.flights)) ∧
  (∀ (s : State) (k : KidArrival), s.kids[s.cur.u]? = some k →
    let p := s.bar k.ptid k.pidx
    (p.use = true → p.cha < p.chn → k.vop = 0 → p.arr ≠ p.memb ∨ p.cha + 1 ≠ p.chn ∨ p.wt = true →
      ∃ t : State, exec .barrierChildArrival s = .next t ∧ t.kids = dropNth s.kids s.cur.u ∧ t.ctxs = s.ctxs ∧
        t.bar k.ptid k.pidx = { p with cha := p.cha + 1 }) ∧
    (p.use = false ∨ p.chn ≤ p.cha → ∃ t : State, exec .barrierChildArrival s = .next t ∧ t.tiles = s.tiles ∧
      t.kids = dropNth s.kids s.cur.u ∧ t.ctxs = s.ctxs)) ∧
  (∀ (s : State) (r : TreeRelease), s.trees[s.cur.u]? = some r →
    (s.fab < r.due → exec .barrierTreeRelease s = .next s) ∧
    (r.due ≤ s.fab → ∃ t : State, exec .barrierTreeRelease s = .next t ∧ t.trees = dropNth s.trees s.cur.u ∧
      let b := s.bar r.tid r.idx
      (b.use = true → b.root = (r.tid, r.idx) → b.fire = true → (t.bar r.tid r.idx).arr = 0 ∧
        (t.bar r.tid r.idx).cha = 0 ∧ (t.bar r.tid r.idx).fire = false ∧ (t.bar r.tid r.idx).wt = false))) ∧
  (∀ (s : State) (c : Fin 11),
    let core := s.cur.u
    let pl := s.cur.v
    let id := core + c.val * 2 ^ 16
    core < 2 ^ 16 → (s.ctx id).wait = .line pl → ∃ t : State, exec .instructionLineArrival s = .next t ∧
      t.ctx id = { s.ctx id with st := .ready, wait := .none } ∧
      find pl (t.core core).l1i = some (if (s.core core).lost = some pl then State.badLine (s.l2View (idTid core) pl)
        else s.l2View (idTid core) pl))

/-! ### Where line operations, fences, power rows and translation rows complete -/

/-- A page of module memory that the executing core's TLB holds for the executing ASID, with a leaf that meets p, maps an
address of path 0 to pa (R410, R413, R415). -/
def mapsTo (s : State) (ea : Word) (pa : Nat) (p : Word → Bool) : Prop :=
  ea.toNat < 2 ^ 57 ∧ pa < Config.moduleBytes ∧ ∃ e : TlbE,
    State.tlbFind (s.core s.myCore).tlb s.myAsid ea.toNat = some e ∧ p e.leaf = true ∧ Bit e.leaf 8 = false ∧
      pa = Bits e.leaf 12 45 * 2 ^ 12 + ea.toNat % e.size

/-- Nothing that a release or FENCE waits for is on its way: no status, no late fault, no bank access (R203, R212). -/
def nothingOwed (c : Ctx) : Prop := c.status = [] ∧ c.accs = [] ∧ c.late = none

/-- R192-R194, R215: PREF completes on every address.  CWB and CINV complete on a mapped line and act on it, and complete without
effect on a byte of a SCRATCH bank of the context's own.  FENCE completes in a context with nothing outstanding.  BANKCFG of a
CACHE bank of the context's core completes, with its change to come as its result arrives (the model's choice, log 39). -/
def Rules.LineCompletion : Prop :=
  ∀ (s : State) (m : MemOp) (ch : Fin 2) (sc : Scope) (pr pw sr sw lb : Bool) (d : XReg) (b : Fin 32) (mode : BankMode)
    (pool : Bool), s.settled →
    let ea := s.addrOf m
    (∃ t : State, exec (.pref m ch) s = .next t.complete ∧ sameRegs s.me t.me [] ∧ sameControl s.me t.me) ∧
    (∀ pa, mapsTo s ea pa (fun l => Bit l 1 || Bit l 2 || Bit l 3) →
      exec (.cwb m sc) s = .next (s.lineBack s.myCore (pa / 64) sc false).complete ∧
      exec (.cinv m sc) s = .next (s.lineBack s.myCore (pa / 64) sc true).complete) ∧
    (ea.toNat / 2 ^ 22 = 2 ^ 38 → let k := (s.tile s.myTid).bank (ea.toNat % 2 ^ 22 / 2 ^ 17)
      k.mode = .scratch → k.asid = s.myAsid →
      exec (.cwb m sc) s = .next s.complete ∧ exec (.cinv m sc) s = .next s.complete) ∧
    (nothingOwed s.me →
      let r := if pr then s.reveal (fun _ => true) sc else s
      let t := if pw then r.release r.myCore sc else r
      exec (.fence pr pw sr sw lb sc) s = .next (if sr then t.acquire t.myCore sc else t).complete) ∧
    (b.val / 4 = idCore s.cur.id → (s.tile s.myTid).eng.wins = [] → ((s.tile s.myTid).bank b.val).mode = .cache →
      let c : BankSet := { bank := b.val, mode := mode, pool := pool }
      exec (.bankcfg d b mode pool) s = .next (s.modMe fun k => s.depends (.x d 0)
        { k with pend := [{ wr := .x d 0, due := none, pc := s.cur.pc, flt := none, cfg := some c }] }).complete)

/-- R74, R183, R397-R402: the writes of BUD, VFREQ, HBMFREQ and RETAIN and the moves of the chiplets and quarries complete in
every state with their effect.
The first 200 us of a chiplet counted from cycle 0 are the model's choice (log 14). -/
def Rules.PowerCompletion : Prop :=
  ∀ (s : State) (z ci q tid temp : Nat) (v : Word),
    let p := (s.chip ci).pow
    let k := s.quarry q
    let n := v.toNat % 2 ^ 13
    (∃ t : State, exec (.zoneBudgetWrite z v) s = .next t ∧ t.ctxs = s.ctxs ∧ t.mem = s.mem ∧
      (t.zone z).bud = if n = 0 then 1 else if 4096 < n then 4096 else n) ∧
    (∃ t : State, exec (.vfreqWrite ci v) s = .next t ∧ t = { s with chips := t.chips } ∧
      (t.chip ci).pow = { p with req := v.toNat % 8, pend := true } ∧ ∀ x, x ≠ ci → t.chip x = s.chip x) ∧
    (p.eval = none → ∃ t : State, exec (.thermalEvaluation ci temp) s = .next t ∧ t = { s with chips := t.chips } ∧
      (t.chip ci).pow.temp = temp ∧ (t.chip ci).pow.eval = some s.fab ∧ (∀ x, x ≠ ci → t.chip x = s.chip x) ∧
      (p.since.getD 0 + 400000 ≤ s.fab → p.throt = false → p.thot ≤ temp →
        (t.chip ci).pow.throt = true ∧ (t.chip ci).pow.since = some s.fab) ∧
      (p.since.getD 0 + 400000 ≤ s.fab → p.throt = true → temp + p.hth ≤ p.thot →
        (t.chip ci).pow.throt = false ∧ (t.chip ci).pow.since = some s.fab) ∧
      (s.fab < p.since.getD 0 + 400000 → (t.chip ci).pow.throt = p.throt ∧ (t.chip ci).pow.since = p.since)) ∧
    (v.toNat % 4 ≠ 3 → ∃ t : State, exec (.hbmFreqWrite q v) s = .next t ∧ t = { s with quars := t.quars } ∧
      (k.chg = none → k.hbm ≠ v.toNat % 4 → (t.quarry q).chg = some (v.toNat % 4, 0, s.fab + 3000)) ∧
      (k.chg ≠ none → t.quarry q = { k with pend := some (v.toNat % 4) })) ∧
    (tid < 2 ^ 13 → ∃ t : State, exec (.retainCancel tid v) s = .next t ∧ t.ctxs = s.ctxs ∧ t.mem = s.mem ∧
      ∀ c, c < 8 → v.toNat.testBit c = true → (t.core (tid + c * 2 ^ 13)).keep = none) ∧
    (∃ t : State, exec .vfRampStep s = .next t ∧ t = { s with chips := t.chips } ∧
      let r := (s.chip s.cur.u).pow
      ∀ g due, r.ramp = some (g, due) → (t.chip s.cur.u).pow.vf = if due ≤ s.fab then g else r.vf) ∧
    (∃ t : State, exec .hbmChannelRetrain s = .next t ∧ t = { s with quars := t.quars } ∧
      let r := s.quarry s.cur.u
      ∀ g ch due, r.chg = some (g, ch, due) → due ≤ s.fab → ch < 31 → (t.quarry s.cur.u).chg = some (g, ch + 1, s.fab + 3000)) ∧
    (∃ t : State, exec .scratchPowerLoss s = .next t ∧ t.ctxs = s.ctxs ∧ t.mem = s.mem ∧ t.cores = s.cores ∧
      ∀ b, b < 32 → ((s.tile s.cur.u).bank b).lose = true → s.coreLive (s.cur.u + b / 4 * 2 ^ 13) = false →
        s.bankNamed s.cur.u b = false → ((t.tile s.cur.u).bank b).lose = false ∧
          ∀ o, o < 2 ^ 17 → t.bankByte s.cur.u (b * 2 ^ 17 + o) = 0)

/-- R412, R415, R422, R438: every form of TLBINV completes in a privileged context with nothing outstanding, between a release
and an acquire at sy; a walk for a VA that the tile's TLB holds gives the core the translation; PGDONE of an ARMED future
with an owner, in a page that the core's TLB lets it write, resolves it and answers 0. -/
def Rules.TranslationCompletion : Prop :=
  ∀ (s : State) (d a : XReg) (n : BitVec 10), s.settled → s.priv = true → nothingOwed s.me →
    let ea := s.xval a
    let r := s.release s.myCore .sy
    let inv (t : State) : State := t.acquire s.myCore .sy
    exec (.tlbinvVa a n) s = .next (inv (r.invPage n ea)).complete ∧
    exec (.tlbinvAsid n) s = .next (inv (r.invSpaces (· == n))).complete ∧
    exec .tlbinvAll s = .next (inv (r.invSpaces fun _ => true)).complete ∧
    (∀ (core : Nat) (va : Word) (e : TlbE), core < 2 ^ 16 → va.toNat < 2 ^ 57 → (s.profile n).isSome = true →
      State.tlbFind (s.core core).tlb n va.toNat = none → State.tlbFind (s.tile (idTid core)).tlb n va.toNat = some e →
      Bit e.leaf 3 = true → Bit e.leaf 8 = false →
      ∃ t : State, exec (.pageWalk core n va .fetch) s = .next t ∧ e ∈ (t.core core).tlb ∧ t.ctxs = s.ctxs ∧ t.mem = s.mem) ∧
    (∀ pa, mapsTo s ea pa (fun l => Bit l 2 && Bit l 6) → ea.toNat % 32 = 0 → pa % 32 = 0 → s.underFwin pa 32 = false →
      (s.core s.myCore).l1d = [] → (s.tile s.myTid).l2 = [] →
      let w := futAt s pa 0
      w % 2 ^ 32 ≠ 0 → w / 2 ^ 62 = 1 → s.pagerFault (w % 2 ^ 32) = none →
      ∃ t : State, exec (.pgdone d a) s = .next (t.wx d 0).complete ∧ t.ctxs = s.ctxs ∧ futAt t pa 0 / 2 ^ 62 = 2 ∧
        futAt t pa 1 = (s.xval (xnext a)).toNat)

/-! ### The whole machine (R9, R26, R44-R65, R75, R460, R464) -/

/-- R19, R26, R176, R397, R399, R402, R407, R421, R460: after reset every tile of the grid is live, every context FREE, every
bank CACHE and not pooled, only ASID 0 bound, every zone's budget 4096, every stack at F0 and every chiplet at V/F state 0;
no message, job or walk is under way, and every memory is in canonical form. -/
def Obligations.ResetState : Prop :=
  let s := State.reset
  (∀ t, s.live t = inGrid t) ∧ (∀ id, (s.ctx id).st = .free) ∧
  (∀ t b, ((s.tile t).bank b).mode = .cache ∧ ((s.tile t).bank b).pool = false) ∧
  (∀ a : BitVec 10, (s.profile a).isSome = true ↔ a = 0) ∧ (∀ z, (s.zone z).bud = 4096) ∧ (∀ q, (s.quarry q).hbm = 0) ∧
  (∀ c, (s.chip c).pow.vf = 0 ∧ (s.chip c).fq = []) ∧ (∀ k, (s.core k).queue = []) ∧ s.flights = [] ∧ s.gangs = [] ∧
  s.mons = [] ∧ s.norb.status = .ready ∧ s.norb.halted = false ∧ s.memOk

/-- R27, R44-R46, R53, R64, R75, R76, R86: a cycle of a core makes READY the contexts whose event has come, and steps the
instruction at the PC of the context that it picks.  When that context waits for nothing and has no access on its way, its
PC has a legal form and lies in a page whose translation the core holds, and the slot in its line of code decodes to an
instruction that its guard lets execute and that its privilege allows, the step is `exec` of that instruction, in a state
whose executing context is this one with every register as it was, followed by the gap and the switch point of its header;
under a guard that is not met the instruction only completes. -/
def Obligations.StepRunsDecoded : Prop :=
  ∀ (s : State) (core c : Nat) (r : List Move) (e : TlbE) (d : BitVec 512) (x : Slot),
    s.norb.halted = false → core < 2 ^ 16 → s.live (idTid core) = true → s.agenda = .cycle core :: r →
    let w := ({ s with agenda := r }.modCore core fun k => { k with cyc := k.cyc + 1 }).wake core
    w.pickCtx core = some c →
    let id := ctxOn core c
    let k := s.ctx id
    let va := Bits (linePc k.pc) 0 57
    let i := k.pc.toNat % 8
    let line := d.toNat
    let word := lineSlot line i
    k.wait = .none → k.answer = .none → k.held = none → k.inc = false → k.pend = [] → k.accs = [] → k.seen = [] →
    k.before = none → k.alone = false → k.brk = none →
    k.pc.toNat < 2 ^ 57 → Bits k.pc 3 3 = 0 → i ≤ 4 →
    State.tlbFind (s.core core).tlb k.asid va = some e → Bit e.leaf 3 = true → Bit e.leaf 8 = false →
    find ((Bits e.leaf 12 45 * 2 ^ 12 + va % e.size) / 64) (s.core core).l1i = some d →
    lineWordParityOk line = true → slotParityOk line i = true → lineWordBad line = none →
    i ∉ pairFirsts (linePair line) → decodeSlot word = .ok x → s.isSuper core = true ∨ privPos word = none →
    let guard := (if x.hdr.pg.val = 0 then true else k.p.get x.hdr.pg) != x.hdr.pn
    ∃ u : State, u.cur.id = id ∧ u.cur.pc = k.pc ∧ u.cur.fst = false ∧ u.cur.snd = false ∧ u.settled ∧
      u.me = { k with st := .ready, exempt := false, refet := none, cdep := u.me.cdep } ∧
      (∀ j, j ≠ id → u.ctx j = w.ctx j ∧ ((∀ m, (s.ctx j).wait ≠ .hwait m) → w.ctx j = { s.ctx j with st := (w.ctx j).st })) ∧
      u = { s with ctxs := u.ctxs, cores := u.cores, agenda := r, cur := u.cur, seq := u.seq } ∧
      (∀ j, u.core j = { s.core j with cyc := (u.core j).cyc, last := (u.core j).last }) ∧
      (guard = true → step s = match exec x.op u with
        | .next t => .next (t.afterIssue x.hdr)
        | o => o) ∧
      (guard = false → step s = .next (u.complete.afterIssue x.hdr))

/-- R54-R61 and their worked encodings: words of spec/ and the instructions that they stand for. -/
def Obligations.DecodeWords : Prop :=
  decodeTableWord 96 0x2000_0608_4018_0000_0000_0000 = some (.add 3 1 2 .i64 false) ∧
  decodeTableWord 96 0x4000_0828_0D20_0000_0000_0010 =
    some (.ld 4 { base := 5, idx := 0, sh := 0, disp := 16 } 3 { sc := .mo, ord := .acq, ch := 0 }) ∧
  decodeTableWord 96 0x8000_0C22_0208_0000_0000_0000 = some (.vfadd 3 1 (.vec 2) 2 1 .rne false) ∧
  decodeTableWord 96 0xB000_12A0_0102_0000_0000_0000 = some (.mjob 9 20 2 .mma) ∧
  decodeTableWord 96 0xF000_1200_0080_0000_0000_0000 = some (.sget 9 0x10) ∧
  decodeTableWord 96 0xF900_12A0_0000_0000_0000_0007 = some (.asidsetBind 9 20 7)

/-- R60, R61, R64, R65: a slot with an unassigned major is refused as an opcode; one whose header breaks R52, or whose body
breaks a limit, is refused as an encoding at the first field that does; every other slot is an instruction within the
limits of its entry. -/
def Obligations.RefusedEncodings : Prop :=
  ∀ w : Nat, w < 2 ^ 96 →
    let op := w / 2 ^ 88
    (assignedOp op = false → decodeSlot w = .error .opcode) ∧
    (assignedOp op = true → w / 2 ^ 83 % 4 = 3 → decodeSlot w = .error (.encoding 83)) ∧
    (assignedOp op = true → w / 2 ^ 83 % 4 ≠ 0 → ¬(0x10 ≤ op ∧ op ≤ 0x1A) → decodeSlot w = .error (.encoding 83)) ∧
    (assignedOp op = true → w / 2 ^ 83 % 4 = 0 → w / 2 ^ 79 % 16 = 1 → decodeSlot w = .error (.encoding 80)) ∧
    (∀ x, decodeSlot w = .ok x → x.op.wf = true ∧ x.hdr.wf op = true ∧ x.op.isEvent = false)

/-- R52-R61, R88-R448: decode of encode is the instruction with its header and every operand, for every well-formed
instruction of the given majors. -/
def decodesBack (p : Nat → Prop) : Prop :=
  ∀ (h : Header) (i : Instr) (op : Nat) (l : List (Nat × Nat)) (w : Nat), encBody i = some (op, l) → p op → assignedOp op = true →
    i.wf = true → h.wf op = true → encode h i = some w → decodeSlot w = .ok { hdr := h, op := i }

/-- R52-R61, R88, R107, R190, R220, R242, R251, R274: the encodings of the control, scalar, memory, atomic, future, barrier and
task majors, below 0x70. -/
def Obligations.DecodeEncodeCore : Prop := decodesBack (· < 0x70)

/-- R52-R61, R130, R167, R302, R315, R345, R367, R383, R403, R420, R448: the encodings of the vector, format, job, engine and
system majors, from 0x70 on. -/
def Obligations.DecodeEncodeUnits : Prop := decodesBack (0x70 ≤ ·)

/-- R463, R464: while Norbufer has stopped the module, no core, engine or unit acts: a move changes nothing but the agenda,
the counter of free values and the fabric clock, unless it is one of Norbufer's own, one of the host's on its memory and the
mailbox, or a core's in the very cycle of the trigger. -/
def Rules.HaltedModule : Prop :=
  ∀ s : State, s.norb.halted = true →
    let own (m : Move) : Prop := (∃ i u v, m = .event i u v ∧ State.actsHalted s.norb i = true) ∨ m = .mailboxEnd ∨
      (∃ a l, m = .hostStore a l) ∨ (∃ a n, m = .hostLoad a n) ∨ (∃ a v, m = .barStore a v) ∨ (∃ a, m = .barLoad a) ∨
      (s.norb.trig ≠ none ∧ s.norb.trigAt = s.fab ∧ ∃ core, m = .cycle core)
    ¬own s.takeMove.1 → ∃ t : State, step s = .next t ∧
      t = { s with agenda := t.agenda, fab := t.fab, seq := t.seq }

/-- R9, R26, R427: nothing stops the module: every step, whatever its move, answers a next state. -/
def Rules.NeverStops : Prop := ∀ s : State, s.goesOn

/-- R3, R4, R184, R218: every step keeps every memory in canonical form: module and host memory, and the bytes of the banks
of every tile. -/
def Obligations.MemoryForm : Prop := ∀ s t : State, s.memOk → step s = .next t → t.memOk

/-! ### The obligations that hold several of the above -/

/-- Scalar arithmetic. -/
def Obligations.ScalarArithmetic : Prop := Rules.ScalarArithmetic ∧ Rules.ScalarDivide

/-- Scalar logic and shifts. -/
def Obligations.ScalarLogicAndShifts : Prop := Rules.ScalarLogic ∧ Rules.ScalarShift

/-- Bit counts and bit fields. -/
def Obligations.BitCountsAndFields : Prop := Rules.BitCount ∧ Rules.BitFields

/-- Compares and predicate moves. -/
def Obligations.ComparesAndPredicates : Prop := Rules.Compares ∧ Rules.MovePredicates

/-- When a result is in its register. -/
def Obligations.ResultsInRegisters : Prop := Rules.ResultWritten ∧ Rules.LatencyResult

/-- Branches. -/
def Obligations.Branches : Prop := Rules.Branches ∧ Rules.BranchFaults

/-- Calls, jumps and returns, and what a transfer does. -/
def Obligations.CallsAndTransfers : Prop := Rules.Calls ∧ Rules.Transfer

/-- Hardware loops. -/
def Obligations.Loops : Prop := Rules.Loops ∧ Rules.LoopEnd

/-- Helpers: SPAWN, HWAIT and HALT. -/
def Obligations.Helpers : Prop := Rules.Helpers ∧ Rules.HelperStart

/-- Traps and taking a fault. -/
def Obligations.TakingAFault : Prop := Rules.TrapInstructions ∧ Rules.TakingAFault

/-- Vector integer arithmetic and selection. -/
def Obligations.VectorArithmetic : Prop := Rules.VectorArithmetic ∧ Rules.VectorSelect

/-- Vector floating point, reductions and moves. -/
def Obligations.VectorFloatAndMoves : Prop := Rules.VectorFloat ∧ Rules.VectorOrder ∧ Rules.VectorMoves

/-- Loads and stores of memory, of system registers and of peers. -/
def Obligations.MemoryAccesses : Prop := Rules.MemoryLoads ∧ Rules.MemoryStores ∧ Rules.OtherAccesses

/-- Loads and stores of SRAM banks. -/
def Obligations.BankAccesses : Prop := Rules.BankAccesses ∧ Rules.BankAccessPerforms

/-- Checks of an access. -/
def Obligations.AccessChecks : Prop := Rules.AddressChecks ∧ Rules.AccessFaults

/-- Line operations, fences and bank modes. -/
def Obligations.LinesFencesAndModes : Prop := Rules.LineOperations ∧ Rules.Fences ∧ Rules.BankModes ∧ Rules.BankChanges

/-- Rings. -/
def Obligations.Rings : Prop := Rules.RingInstructions ∧ Rules.RingOrder ∧ Rules.RingService

/-- Vector loads and stores. -/
def Obligations.VectorMemory : Prop := Rules.VectorBankAccess ∧ Rules.VectorMemory

/-- Atomics on integers. -/
def Obligations.IntegerAtomics : Prop := Rules.IntegerAtomics ∧ Rules.AtomicHomes

/-- Exact accumulator cells. -/
def Obligations.ExactCells : Prop := Rules.CellAtomics ∧ Rules.CellArithmetic ∧ Rules.CellOrder

/-- Monitors and results on their way. -/
def Obligations.WaitsAndResults : Prop := Rules.MonitorWait ∧ Rules.ResultsReturn

/-- Futures. -/
def Obligations.Futures : Prop := Rules.FutureSet ∧ Rules.FutureWait ∧ Rules.FutureFaults ∧ Rules.ArmArrival

/-- Barriers. -/
def Obligations.Barriers : Prop := Rules.BarrierInstructions ∧ Rules.BarrierChecks ∧ Rules.BarrierArrivals

/-- Sending tasks and messages. -/
def Obligations.TaskMessages : Prop := Rules.SendChecks ∧ Rules.TaskSending ∧ Rules.SendFaults ∧ Rules.MessageSend

/-- Gangs and regions. -/
def Obligations.GangsAndRegions : Prop := Rules.GangLaunch ∧ Rules.GangAdmission ∧ Rules.Regions ∧ Rules.GleanerWave

/-- Arrival of messages and the start of tasks. -/
def Obligations.MessageArrivalAndStart : Prop := Rules.MessageArrival ∧ Rules.TaskStart

/-- The format table and packing. -/
def Obligations.FormatsAndPacking : Prop := Rules.FormatTable ∧ Rules.Packing

/-- Conversions. -/
def Obligations.Conversions : Prop := Rules.ScalarConvert ∧ Rules.VectorConvert ∧ Rules.ScaledConvert ∧ Rules.BlockConvert

/-- Submitting jobs. -/
def Obligations.JobSubmission : Prop := Rules.JobSubmission ∧ Rules.RemoteJobs

/-- Waiting for, cancelling and querying jobs. -/
def Obligations.JobControl : Prop := Rules.JobControl ∧ Rules.JobQueries

/-- Running and completing jobs. -/
def Obligations.JobExecution : Prop := Rules.JobOrder ∧ Rules.JobExecution ∧ Rules.JobCompletion ∧ Rules.DotProduct

/-- Bins. -/
def Obligations.Bins : Prop := Rules.Bins ∧ Rules.BinFaults ∧ Rules.BinReplay

/-- Copies and windows. -/
def Obligations.CopiesAndWindows : Prop := Rules.Copies ∧ Rules.Windows ∧ Rules.CopyFaults

/-- Streams, colours and format windows. -/
def Obligations.StreamsColoursFormatWindows : Prop := Rules.Streams ∧ Rules.ColoursAndFormatWindows

/-- The expert chain. -/
def Obligations.ExpertChain : Prop := Rules.ChainRuns ∧ Rules.ChainShards

/-- Energy tokens, loans and quota. -/
def Obligations.Tokens : Prop := Rules.Tokens ∧ Rules.TokenEvents

/-- Frequency, temperature, power and retention. -/
def Obligations.Power : Prop := Rules.FrequencyAndPower ∧ Rules.Retention

/-- The context window, TRET and DBG. -/
def Obligations.ContextWindow : Prop := Rules.ContextWindow ∧ Rules.ReturnFromFault

/-- Translation and the end of a page fault. -/
def Obligations.Translation : Prop := Rules.Translations ∧ Rules.EndOfPageFault

/-- Errors, dumps and the host. -/
def Obligations.ErrorsHostAndDumps : Prop := Rules.ErrorsAndDumps ∧ Rules.HostAccess

/-- Where line operations, fences, power and translation rows complete. -/
def Obligations.Completion : Prop := Rules.LineCompletion ∧ Rules.PowerCompletion ∧ Rules.TranslationCompletion

/-- The module goes on, and stops acting when halted. -/
def Obligations.WholeMachine : Prop := Rules.HaltedModule ∧ Rules.NeverStops
end

