-- ==== Sys2Proof/Laws/Map.lean ====
section
/-! SUPPORT. Laws of the lists of (key, value), and of memory as such a list: read after write, and that every write keeps
the canonical form. -/

namespace Sys2Proof.Machine

section keyed
variable {α : Type}

@[simp] theorem find_put_same (k : Nat) (a : α) (l : List (Nat × α)) : find k (put k a l) = some a := by
  induction l with
  | nil => simp [put, find]
  | cons e r ih =>
    obtain ⟨i, b⟩ := e
    by_cases h : k < i
    · simp [put, find, h]
    · by_cases h' : k = i
      · simp [put, find, h']
      · have : ¬ i = k := fun e => h' e.symm
        simp [put, find, h, h', this, ih]

theorem find_put_other {j k : Nat} (h : j ≠ k) (a : α) (l : List (Nat × α)) : find j (put k a l) = find j l := by
  have hk : ¬ k = j := fun e => h e.symm
  induction l with
  | nil => simp [put, find, hk]
  | cons e r ih =>
    obtain ⟨i, b⟩ := e
    by_cases h1 : k < i
    · simp [put, find, h1, hk]
    · by_cases h2 : k = i
      · have : ¬ i = j := fun e => h (by omega)
        simp [put, find, h2, this]
      · simp only [put, h1, h2, if_false, find, ih]

theorem find_put (j k : Nat) (a : α) (l : List (Nat × α)) : find j (put k a l) = if j = k then some a else find j l := by
  by_cases h : j = k
  · simp [h]
  · simp [h, find_put_other h]

@[simp] theorem find_del_same (k : Nat) (l : List (Nat × α)) : find k (del k l) = none := by
  induction l with
  | nil => rfl
  | cons e r ih =>
    obtain ⟨i, b⟩ := e
    by_cases h : i = k
    · simpa [del, List.filter_cons, h] using ih
    · simpa [del, List.filter_cons, h, find] using ih

theorem find_del_other {j k : Nat} (h : j ≠ k) (l : List (Nat × α)) : find j (del k l) = find j l := by
  induction l with
  | nil => rfl
  | cons e r ih =>
    obtain ⟨i, b⟩ := e
    by_cases h1 : i = k
    · have : ¬ i = j := fun e => h (by omega)
      simpa [del, List.filter_cons, h1, find, show ¬ k = j from fun e => h e.symm] using ih
    · by_cases h2 : i = j
      · simp [del, find, h2, show ¬ j = k from h]
      · simpa [del, List.filter_cons, h1, find, h2] using ih

@[simp] theorem getD_put_same (d : α) (k : Nat) (a : α) (l : List (Nat × α)) : getD d (put k a l) k = a := by simp [getD]

theorem getD_put_other (d : α) {j k : Nat} (h : j ≠ k) (a : α) (l : List (Nat × α)) :
    getD d (put k a l) j = getD d l j := by simp [getD, find_put_other h]

theorem getD_put (d : α) (j k : Nat) (a : α) (l : List (Nat × α)) :
    getD d (put k a l) j = if j = k then a else getD d l j := by
  by_cases h : j = k
  · simp [h]
  · simp [h, getD_put_other d h]

@[simp] theorem put_put (k : Nat) (a b : α) (l : List (Nat × α)) : put k a (put k b l) = put k a l := by
  induction l with
  | nil => simp [put]
  | cons e r ih =>
    obtain ⟨i, c⟩ := e
    by_cases h : k < i
    · simp [put, h]
    · by_cases h' : k = i
      · simp [put, h']
      · simp [put, h, h', ih]

/-- A written list holds what was written and what it held. -/
theorem mem_put {e : Nat × α} {k : Nat} {a : α} {l : List (Nat × α)} (h : e ∈ put k a l) : e = (k, a) ∨ e ∈ l := by
  induction l with
  | nil => simpa [put] using h
  | cons f r ih =>
    obtain ⟨i, b⟩ := f
    unfold put at h
    split at h
    · simpa using h
    · split at h
      · rcases List.mem_cons.1 h with h | h
        · exact .inl h
        · exact .inr (List.mem_cons_of_mem _ h)
      · rcases List.mem_cons.1 h with h | h
        · exact .inr (h ▸ List.mem_cons_self)
        · exact (ih h).imp_right (List.mem_cons_of_mem _)

theorem find_mem {k : Nat} {a : α} {l : List (Nat × α)} (h : find k l = some a) : (k, a) ∈ l := by
  induction l with
  | nil => simp [find] at h
  | cons e r ih =>
    obtain ⟨i, b⟩ := e
    by_cases hi : i = k
    · simp only [find, hi, if_true, Option.some.injEq] at h
      simp [hi, h]
    · simp only [find, hi, if_false] at h
      exact List.mem_cons_of_mem _ (ih h)

end keyed

/-! ### Memory -/

@[simp] theorem cellAt_cellPut_same (m : List Host.Cell) (a : Nat) (b : Byte) : cellAt (cellPut m a b) a = b := by
  unfold cellAt cellPut getD
  split
  · next h => simp [h]
  · simp

theorem cellAt_cellPut_other {a x : Nat} (h : x ≠ a) (m : List Host.Cell) (b : Byte) :
    cellAt (cellPut m a b) x = cellAt m x := by
  unfold cellAt cellPut getD
  split
  · rw [find_del_other h]
  · rw [find_put_other h]

/-- Bytes outside a store read as before. -/
theorem cellAt_storeLE_other {x : Nat} (n : Nat) : ∀ (m : List Host.Cell) (a w : Nat), (x < a ∨ a + n ≤ x) →
    cellAt (storeLE m a n w) x = cellAt m x := by
  induction n with
  | zero => intros; rfl
  | succ n ih =>
    intro m a w h
    rw [storeLE, ih _ _ _ (by omega), cellAt_cellPut_other (by omega)]

/-- Byte i of a store reads as byte i of what was stored. -/
theorem cellAt_storeLE {i : Nat} (n : Nat) : ∀ (m : List Host.Cell) (a w : Nat), i < n →
    cellAt (storeLE m a n w) (a + i) = BitVec.ofNat 8 (w / 256 ^ i) := by
  induction n generalizing i with
  | zero => intro m a w h; omega
  | succ n ih =>
    intro m a w h
    rw [storeLE]
    cases i with
    | zero =>
      rw [cellAt_storeLE_other n _ _ _ (by omega)]
      simp
    | succ i =>
      rw [show a + (i + 1) = (a + 1) + i by omega, ih _ _ _ (by omega), Nat.div_div_eq_div_mul, Nat.pow_succ,
        Nat.mul_comm 256]

/-- A load of bytes that two memories share is the same. -/
theorem loadLE_congr (n : Nat) : ∀ {m k : List Host.Cell} {a : Nat}, (∀ i, i < n → cellAt m (a + i) = cellAt k (a + i)) →
    loadLE m a n = loadLE k a n := by
  induction n with
  | zero => intros; rfl
  | succ n ih =>
    intro m k a h
    rw [loadLE, loadLE, show cellAt m a = cellAt k a from h 0 (by omega),
      ih fun i hi => by simpa [show a + 1 + i = a + (i + 1) by omega] using h (i + 1) (by omega)]

/-- A load outside a store reads as before. -/
theorem loadLE_storeLE_other {m : List Host.Cell} {a n b k w : Nat} (h : b + k ≤ a ∨ a + n ≤ b) :
    loadLE (storeLE m a n w) b k = loadLE m b k :=
  loadLE_congr k fun i hi => cellAt_storeLE_other n m a w (by omega)

/-- Read after write. -/
theorem loadLE_storeLE (n : Nat) : ∀ (m : List Host.Cell) (a w : Nat), loadLE (storeLE m a n w) a n = w % 256 ^ n := by
  induction n with
  | zero => intros; simp [loadLE, Nat.mod_one]
  | succ n ih =>
    intro m a w
    have h8 : (BitVec.ofNat 8 w).toNat = w % 256 := BitVec.toNat_ofNat ..
    have h1 : w % 256 ^ (n + 1) = w % 256 + 256 * (w / 256 % 256 ^ n) := by rw [Nat.pow_succ', Nat.mod_mul]
    rw [storeLE, loadLE, ih, cellAt_storeLE_other n _ _ _ (by omega), cellAt_cellPut_same, h8, h1]

theorem loadLE_lt (n : Nat) : ∀ (m : List Host.Cell) (a : Nat), loadLE m a n < 256 ^ n := by
  induction n with
  | zero => intros; simp [loadLE]
  | succ n ih =>
    intro m a
    have h1 := (cellAt m a).isLt
    have h2 := ih m (a + 1)
    rw [loadLE, Nat.pow_succ]
    omega

/-! ### The canonical form -/

theorem risingFrom_mono {lo lo' : Nat} (h : lo' ≤ lo) {m : List Host.Cell} (hm : risingFrom lo m = true) :
    risingFrom lo' m = true := by
  cases m with
  | nil => rfl
  | cons e r =>
    simp only [risingFrom, Bool.and_eq_true, decide_eq_true_eq] at hm ⊢
    exact ⟨⟨by omega, hm.1.2⟩, hm.2⟩

/-- A part of a canonical memory is canonical. -/
theorem risingFrom_filter (p : Host.Cell → Bool) : ∀ {lo : Nat} {m : List Host.Cell}, risingFrom lo m = true →
    risingFrom lo (m.filter p) = true := by
  intro lo m
  induction m generalizing lo with
  | nil => intro; rfl
  | cons e r ih =>
    intro h
    simp only [risingFrom, Bool.and_eq_true, decide_eq_true_eq] at h
    rw [List.filter_cons]
    split
    · simp only [risingFrom, Bool.and_eq_true, decide_eq_true_eq]
      exact ⟨h.1, ih h.2⟩
    · exact risingFrom_mono (by omega) (ih h.2)

theorem risingFrom_put {a : Nat} {b : Byte} (hb : b ≠ blankByte) : ∀ {lo : Nat} {m : List Host.Cell},
    lo ≤ a → risingFrom lo m = true → risingFrom lo (put a b m) = true := by
  intro lo m
  induction m generalizing lo with
  | nil =>
    intro h _
    simp only [put, risingFrom, Bool.and_eq_true, decide_eq_true_eq, bne_iff_ne]
    exact ⟨⟨h, hb⟩, trivial⟩
  | cons e r ih =>
    intro h hm
    simp only [risingFrom, Bool.and_eq_true, decide_eq_true_eq, bne_iff_ne] at hm
    unfold put
    split
    · simp only [risingFrom, Bool.and_eq_true, decide_eq_true_eq, bne_iff_ne]
      exact ⟨⟨h, hb⟩, ⟨by omega, hm.1.2⟩, hm.2⟩
    · split
      · simp only [risingFrom, Bool.and_eq_true, decide_eq_true_eq, bne_iff_ne]
        exact ⟨⟨h, hb⟩, risingFrom_mono (by omega) hm.2⟩
      · simp only [risingFrom, Bool.and_eq_true, decide_eq_true_eq, bne_iff_ne]
        exact ⟨hm.1, ih (by omega) hm.2⟩

theorem wf_filter (p : Host.Cell → Bool) {m : List Host.Cell} (h : Memory.wf m = true) : Memory.wf (m.filter p) = true :=
  risingFrom_filter p h

theorem wf_cellPut {m : List Host.Cell} (h : Memory.wf m = true) (a : Nat) (b : Byte) :
    Memory.wf (cellPut m a b) = true := by
  unfold cellPut
  split
  · exact wf_filter _ h
  · exact risingFrom_put ‹_› (Nat.zero_le _) h

theorem wf_storeLE (n : Nat) : ∀ {m : List Host.Cell} (_ : Memory.wf m = true) (a w : Nat),
    Memory.wf (storeLE m a n w) = true := by
  induction n with
  | zero => intro m h a w; exact h
  | succ n ih => intro m h a w; exact ih (wf_cellPut h _ _) _ _

theorem wf_storeMasked (n : Nat) : ∀ {m : List Host.Cell} (_ : Memory.wf m = true) (a w k : Nat),
    Memory.wf (storeMasked m a n w k) = true := by
  induction n with
  | zero => intro m h a w k; exact h
  | succ n ih =>
    intro m h a w k
    refine ih ?_ _ _ _
    split
    · exact wf_cellPut h _ _
    · exact h

end Sys2Proof.Machine
end

