-- ==== Sys2Proof/Laws/State.lean ====
section
/-! SUPPORT. One lemma per field of State per update of a record, true by definition, so that no proof unfolds an update;
and what the accessors read after an update. -/

namespace Sys2Proof.Machine

variable (s : State)

@[simp] theorem State.setCtx_cores (id : Nat) (c : Ctx) : (s.setCtx id c).cores = s.cores := rfl
@[simp] theorem State.setCtx_tiles (id : Nat) (c : Ctx) : (s.setCtx id c).tiles = s.tiles := rfl
@[simp] theorem State.setCtx_chips (id : Nat) (c : Ctx) : (s.setCtx id c).chips = s.chips := rfl
@[simp] theorem State.setCtx_zones (id : Nat) (c : Ctx) : (s.setCtx id c).zones = s.zones := rfl
@[simp] theorem State.setCtx_quars (id : Nat) (c : Ctx) : (s.setCtx id c).quars = s.quars := rfl
@[simp] theorem State.setCtx_spaces (id : Nat) (c : Ctx) : (s.setCtx id c).spaces = s.spaces := rfl
@[simp] theorem State.setCtx_mem (id : Nat) (c : Ctx) : (s.setCtx id c).mem = s.mem := rfl
@[simp] theorem State.setCtx_dark (id : Nat) (c : Ctx) : (s.setCtx id c).dark = s.dark := rfl
@[simp] theorem State.setCtx_fab (id : Nat) (c : Ctx) : (s.setCtx id c).fab = s.fab := rfl
@[simp] theorem State.setCtx_qasid (id : Nat) (c : Ctx) : (s.setCtx id c).qasid = s.qasid := rfl
@[simp] theorem State.setCtx_hdmcfg (id : Nat) (c : Ctx) : (s.setCtx id c).hdmcfg = s.hdmcfg := rfl
@[simp] theorem State.setCtx_peers (id : Nat) (c : Ctx) : (s.setCtx id c).peers = s.peers := rfl
@[simp] theorem State.setCtx_gangs (id : Nat) (c : Ctx) : (s.setCtx id c).gangs = s.gangs := rfl
@[simp] theorem State.setCtx_gangNo (id : Nat) (c : Ctx) : (s.setCtx id c).gangNo = s.gangNo := rfl
@[simp] theorem State.setCtx_flights (id : Nat) (c : Ctx) : (s.setCtx id c).flights = s.flights := rfl
@[simp] theorem State.setCtx_delivs (id : Nat) (c : Ctx) : (s.setCtx id c).delivs = s.delivs := rfl
@[simp] theorem State.setCtx_kids (id : Nat) (c : Ctx) : (s.setCtx id c).kids = s.kids := rfl
@[simp] theorem State.setCtx_trees (id : Nat) (c : Ctx) : (s.setCtx id c).trees = s.trees := rfl
@[simp] theorem State.setCtx_rjobs (id : Nat) (c : Ctx) : (s.setCtx id c).rjobs = s.rjobs := rfl
@[simp] theorem State.setCtx_heads (id : Nat) (c : Ctx) : (s.setCtx id c).heads = s.heads := rfl
@[simp] theorem State.setCtx_listed (id : Nat) (c : Ctx) : (s.setCtx id c).listed = s.listed := rfl
@[simp] theorem State.setCtx_jseq (id : Nat) (c : Ctx) : (s.setCtx id c).jseq = s.jseq := rfl
@[simp] theorem State.setCtx_past (id : Nat) (c : Ctx) : (s.setCtx id c).past = s.past := rfl
@[simp] theorem State.setCtx_packets (id : Nat) (c : Ctx) : (s.setCtx id c).packets = s.packets := rfl
@[simp] theorem State.setCtx_mons (id : Nat) (c : Ctx) : (s.setCtx id c).mons = s.mons := rfl
@[simp] theorem State.setCtx_waves (id : Nat) (c : Ctx) : (s.setCtx id c).waves = s.waves := rfl
@[simp] theorem State.setCtx_colT (id : Nat) (c : Ctx) : (s.setCtx id c).colT = s.colT := rfl
@[simp] theorem State.setCtx_saved (id : Nat) (c : Ctx) : (s.setCtx id c).saved = s.saved := rfl
@[simp] theorem State.setCtx_pres (id : Nat) (c : Ctx) : (s.setCtx id c).pres = s.pres := rfl
@[simp] theorem State.setCtx_norb (id : Nat) (c : Ctx) : (s.setCtx id c).norb = s.norb := rfl
@[simp] theorem State.setCtx_host (id : Nat) (c : Ctx) : (s.setCtx id c).host = s.host := rfl
@[simp] theorem State.setCtx_agenda (id : Nat) (c : Ctx) : (s.setCtx id c).agenda = s.agenda := rfl
@[simp] theorem State.setCtx_cur (id : Nat) (c : Ctx) : (s.setCtx id c).cur = s.cur := rfl
@[simp] theorem State.setCtx_seq (id : Nat) (c : Ctx) : (s.setCtx id c).seq = s.seq := rfl
@[simp] theorem State.setCtx_areas (id : Nat) (c : Ctx) : (s.setCtx id c).areas = s.areas := rfl
@[simp] theorem State.setCtx_arms (id : Nat) (c : Ctx) : (s.setCtx id c).arms = s.arms := rfl
@[simp] theorem State.setCtx_dump (id : Nat) (c : Ctx) : (s.setCtx id c).dump = s.dump := rfl
@[simp] theorem State.setCtx_core (id : Nat) (c : Ctx) (j : Nat) : (s.setCtx id c).core j = s.core j := rfl
@[simp] theorem State.setCtx_tile (id : Nat) (c : Ctx) (j : Nat) : (s.setCtx id c).tile j = s.tile j := rfl
@[simp] theorem State.setCtx_chip (id : Nat) (c : Ctx) (j : Nat) : (s.setCtx id c).chip j = s.chip j := rfl
@[simp] theorem State.setCtx_zone (id : Nat) (c : Ctx) (j : Nat) : (s.setCtx id c).zone j = s.zone j := rfl
@[simp] theorem State.setCtx_quarry (id : Nat) (c : Ctx) (j : Nat) : (s.setCtx id c).quarry j = s.quarry j := rfl
@[simp] theorem State.setCtx_space (id : Nat) (c : Ctx) (j : Nat) : (s.setCtx id c).space j = s.space j := rfl
@[simp] theorem State.setCtx_ctx_same (id : Nat) (c : Ctx) : (s.setCtx id c).ctx id = c := getD_put_same _ _ _ _
theorem State.setCtx_ctx_other (id : Nat) (c : Ctx) (j : Nat) (h : j ≠ id) : (s.setCtx id c).ctx j = s.ctx j :=
  getD_put_other _ h _ _

@[simp] theorem State.modCtx_cores (id : Nat) (f : Ctx → Ctx) : (s.modCtx id f).cores = s.cores := rfl
@[simp] theorem State.modCtx_tiles (id : Nat) (f : Ctx → Ctx) : (s.modCtx id f).tiles = s.tiles := rfl
@[simp] theorem State.modCtx_chips (id : Nat) (f : Ctx → Ctx) : (s.modCtx id f).chips = s.chips := rfl
@[simp] theorem State.modCtx_zones (id : Nat) (f : Ctx → Ctx) : (s.modCtx id f).zones = s.zones := rfl
@[simp] theorem State.modCtx_quars (id : Nat) (f : Ctx → Ctx) : (s.modCtx id f).quars = s.quars := rfl
@[simp] theorem State.modCtx_spaces (id : Nat) (f : Ctx → Ctx) : (s.modCtx id f).spaces = s.spaces := rfl
@[simp] theorem State.modCtx_mem (id : Nat) (f : Ctx → Ctx) : (s.modCtx id f).mem = s.mem := rfl
@[simp] theorem State.modCtx_dark (id : Nat) (f : Ctx → Ctx) : (s.modCtx id f).dark = s.dark := rfl
@[simp] theorem State.modCtx_fab (id : Nat) (f : Ctx → Ctx) : (s.modCtx id f).fab = s.fab := rfl
@[simp] theorem State.modCtx_qasid (id : Nat) (f : Ctx → Ctx) : (s.modCtx id f).qasid = s.qasid := rfl
@[simp] theorem State.modCtx_hdmcfg (id : Nat) (f : Ctx → Ctx) : (s.modCtx id f).hdmcfg = s.hdmcfg := rfl
@[simp] theorem State.modCtx_peers (id : Nat) (f : Ctx → Ctx) : (s.modCtx id f).peers = s.peers := rfl
@[simp] theorem State.modCtx_gangs (id : Nat) (f : Ctx → Ctx) : (s.modCtx id f).gangs = s.gangs := rfl
@[simp] theorem State.modCtx_gangNo (id : Nat) (f : Ctx → Ctx) : (s.modCtx id f).gangNo = s.gangNo := rfl
@[simp] theorem State.modCtx_flights (id : Nat) (f : Ctx → Ctx) : (s.modCtx id f).flights = s.flights := rfl
@[simp] theorem State.modCtx_delivs (id : Nat) (f : Ctx → Ctx) : (s.modCtx id f).delivs = s.delivs := rfl
@[simp] theorem State.modCtx_kids (id : Nat) (f : Ctx → Ctx) : (s.modCtx id f).kids = s.kids := rfl
@[simp] theorem State.modCtx_trees (id : Nat) (f : Ctx → Ctx) : (s.modCtx id f).trees = s.trees := rfl
@[simp] theorem State.modCtx_rjobs (id : Nat) (f : Ctx → Ctx) : (s.modCtx id f).rjobs = s.rjobs := rfl
@[simp] theorem State.modCtx_heads (id : Nat) (f : Ctx → Ctx) : (s.modCtx id f).heads = s.heads := rfl
@[simp] theorem State.modCtx_listed (id : Nat) (f : Ctx → Ctx) : (s.modCtx id f).listed = s.listed := rfl
@[simp] theorem State.modCtx_jseq (id : Nat) (f : Ctx → Ctx) : (s.modCtx id f).jseq = s.jseq := rfl
@[simp] theorem State.modCtx_past (id : Nat) (f : Ctx → Ctx) : (s.modCtx id f).past = s.past := rfl
@[simp] theorem State.modCtx_packets (id : Nat) (f : Ctx → Ctx) : (s.modCtx id f).packets = s.packets := rfl
@[simp] theorem State.modCtx_mons (id : Nat) (f : Ctx → Ctx) : (s.modCtx id f).mons = s.mons := rfl
@[simp] theorem State.modCtx_waves (id : Nat) (f : Ctx → Ctx) : (s.modCtx id f).waves = s.waves := rfl
@[simp] theorem State.modCtx_colT (id : Nat) (f : Ctx → Ctx) : (s.modCtx id f).colT = s.colT := rfl
@[simp] theorem State.modCtx_saved (id : Nat) (f : Ctx → Ctx) : (s.modCtx id f).saved = s.saved := rfl
@[simp] theorem State.modCtx_pres (id : Nat) (f : Ctx → Ctx) : (s.modCtx id f).pres = s.pres := rfl
@[simp] theorem State.modCtx_norb (id : Nat) (f : Ctx → Ctx) : (s.modCtx id f).norb = s.norb := rfl
@[simp] theorem State.modCtx_host (id : Nat) (f : Ctx → Ctx) : (s.modCtx id f).host = s.host := rfl
@[simp] theorem State.modCtx_agenda (id : Nat) (f : Ctx → Ctx) : (s.modCtx id f).agenda = s.agenda := rfl
@[simp] theorem State.modCtx_cur (id : Nat) (f : Ctx → Ctx) : (s.modCtx id f).cur = s.cur := rfl
@[simp] theorem State.modCtx_seq (id : Nat) (f : Ctx → Ctx) : (s.modCtx id f).seq = s.seq := rfl
@[simp] theorem State.modCtx_areas (id : Nat) (f : Ctx → Ctx) : (s.modCtx id f).areas = s.areas := rfl
@[simp] theorem State.modCtx_arms (id : Nat) (f : Ctx → Ctx) : (s.modCtx id f).arms = s.arms := rfl
@[simp] theorem State.modCtx_dump (id : Nat) (f : Ctx → Ctx) : (s.modCtx id f).dump = s.dump := rfl
@[simp] theorem State.modCtx_core (id : Nat) (f : Ctx → Ctx) (j : Nat) : (s.modCtx id f).core j = s.core j := rfl
@[simp] theorem State.modCtx_tile (id : Nat) (f : Ctx → Ctx) (j : Nat) : (s.modCtx id f).tile j = s.tile j := rfl
@[simp] theorem State.modCtx_chip (id : Nat) (f : Ctx → Ctx) (j : Nat) : (s.modCtx id f).chip j = s.chip j := rfl
@[simp] theorem State.modCtx_zone (id : Nat) (f : Ctx → Ctx) (j : Nat) : (s.modCtx id f).zone j = s.zone j := rfl
@[simp] theorem State.modCtx_quarry (id : Nat) (f : Ctx → Ctx) (j : Nat) : (s.modCtx id f).quarry j = s.quarry j := rfl
@[simp] theorem State.modCtx_space (id : Nat) (f : Ctx → Ctx) (j : Nat) : (s.modCtx id f).space j = s.space j := rfl
@[simp] theorem State.modCtx_ctx_same (id : Nat) (f : Ctx → Ctx) : (s.modCtx id f).ctx id = (f (s.ctx id)) := getD_put_same _ _ _ _
theorem State.modCtx_ctx_other (id : Nat) (f : Ctx → Ctx) (j : Nat) (h : j ≠ id) : (s.modCtx id f).ctx j = s.ctx j :=
  getD_put_other _ h _ _

@[simp] theorem State.setCore_ctxs (k : Nat) (c : Core) : (s.setCore k c).ctxs = s.ctxs := rfl
@[simp] theorem State.setCore_tiles (k : Nat) (c : Core) : (s.setCore k c).tiles = s.tiles := rfl
@[simp] theorem State.setCore_chips (k : Nat) (c : Core) : (s.setCore k c).chips = s.chips := rfl
@[simp] theorem State.setCore_zones (k : Nat) (c : Core) : (s.setCore k c).zones = s.zones := rfl
@[simp] theorem State.setCore_quars (k : Nat) (c : Core) : (s.setCore k c).quars = s.quars := rfl
@[simp] theorem State.setCore_spaces (k : Nat) (c : Core) : (s.setCore k c).spaces = s.spaces := rfl
@[simp] theorem State.setCore_mem (k : Nat) (c : Core) : (s.setCore k c).mem = s.mem := rfl
@[simp] theorem State.setCore_dark (k : Nat) (c : Core) : (s.setCore k c).dark = s.dark := rfl
@[simp] theorem State.setCore_fab (k : Nat) (c : Core) : (s.setCore k c).fab = s.fab := rfl
@[simp] theorem State.setCore_qasid (k : Nat) (c : Core) : (s.setCore k c).qasid = s.qasid := rfl
@[simp] theorem State.setCore_hdmcfg (k : Nat) (c : Core) : (s.setCore k c).hdmcfg = s.hdmcfg := rfl
@[simp] theorem State.setCore_peers (k : Nat) (c : Core) : (s.setCore k c).peers = s.peers := rfl
@[simp] theorem State.setCore_gangs (k : Nat) (c : Core) : (s.setCore k c).gangs = s.gangs := rfl
@[simp] theorem State.setCore_gangNo (k : Nat) (c : Core) : (s.setCore k c).gangNo = s.gangNo := rfl
@[simp] theorem State.setCore_flights (k : Nat) (c : Core) : (s.setCore k c).flights = s.flights := rfl
@[simp] theorem State.setCore_delivs (k : Nat) (c : Core) : (s.setCore k c).delivs = s.delivs := rfl
@[simp] theorem State.setCore_kids (k : Nat) (c : Core) : (s.setCore k c).kids = s.kids := rfl
@[simp] theorem State.setCore_trees (k : Nat) (c : Core) : (s.setCore k c).trees = s.trees := rfl
@[simp] theorem State.setCore_rjobs (k : Nat) (c : Core) : (s.setCore k c).rjobs = s.rjobs := rfl
@[simp] theorem State.setCore_heads (k : Nat) (c : Core) : (s.setCore k c).heads = s.heads := rfl
@[simp] theorem State.setCore_listed (k : Nat) (c : Core) : (s.setCore k c).listed = s.listed := rfl
@[simp] theorem State.setCore_jseq (k : Nat) (c : Core) : (s.setCore k c).jseq = s.jseq := rfl
@[simp] theorem State.setCore_past (k : Nat) (c : Core) : (s.setCore k c).past = s.past := rfl
@[simp] theorem State.setCore_packets (k : Nat) (c : Core) : (s.setCore k c).packets = s.packets := rfl
@[simp] theorem State.setCore_mons (k : Nat) (c : Core) : (s.setCore k c).mons = s.mons := rfl
@[simp] theorem State.setCore_waves (k : Nat) (c : Core) : (s.setCore k c).waves = s.waves := rfl
@[simp] theorem State.setCore_colT (k : Nat) (c : Core) : (s.setCore k c).colT = s.colT := rfl
@[simp] theorem State.setCore_saved (k : Nat) (c : Core) : (s.setCore k c).saved = s.saved := rfl
@[simp] theorem State.setCore_pres (k : Nat) (c : Core) : (s.setCore k c).pres = s.pres := rfl
@[simp] theorem State.setCore_norb (k : Nat) (c : Core) : (s.setCore k c).norb = s.norb := rfl
@[simp] theorem State.setCore_host (k : Nat) (c : Core) : (s.setCore k c).host = s.host := rfl
@[simp] theorem State.setCore_agenda (k : Nat) (c : Core) : (s.setCore k c).agenda = s.agenda := rfl
@[simp] theorem State.setCore_cur (k : Nat) (c : Core) : (s.setCore k c).cur = s.cur := rfl
@[simp] theorem State.setCore_seq (k : Nat) (c : Core) : (s.setCore k c).seq = s.seq := rfl
@[simp] theorem State.setCore_areas (k : Nat) (c : Core) : (s.setCore k c).areas = s.areas := rfl
@[simp] theorem State.setCore_arms (k : Nat) (c : Core) : (s.setCore k c).arms = s.arms := rfl
@[simp] theorem State.setCore_dump (k : Nat) (c : Core) : (s.setCore k c).dump = s.dump := rfl
@[simp] theorem State.setCore_ctx (k : Nat) (c : Core) (j : Nat) : (s.setCore k c).ctx j = s.ctx j := rfl
@[simp] theorem State.setCore_tile (k : Nat) (c : Core) (j : Nat) : (s.setCore k c).tile j = s.tile j := rfl
@[simp] theorem State.setCore_chip (k : Nat) (c : Core) (j : Nat) : (s.setCore k c).chip j = s.chip j := rfl
@[simp] theorem State.setCore_zone (k : Nat) (c : Core) (j : Nat) : (s.setCore k c).zone j = s.zone j := rfl
@[simp] theorem State.setCore_quarry (k : Nat) (c : Core) (j : Nat) : (s.setCore k c).quarry j = s.quarry j := rfl
@[simp] theorem State.setCore_space (k : Nat) (c : Core) (j : Nat) : (s.setCore k c).space j = s.space j := rfl
@[simp] theorem State.setCore_core_same (k : Nat) (c : Core) : (s.setCore k c).core k = c := getD_put_same _ _ _ _
theorem State.setCore_core_other (k : Nat) (c : Core) (j : Nat) (h : j ≠ k) : (s.setCore k c).core j = s.core j :=
  getD_put_other _ h _ _

@[simp] theorem State.modCore_ctxs (k : Nat) (f : Core → Core) : (s.modCore k f).ctxs = s.ctxs := rfl
@[simp] theorem State.modCore_tiles (k : Nat) (f : Core → Core) : (s.modCore k f).tiles = s.tiles := rfl
@[simp] theorem State.modCore_chips (k : Nat) (f : Core → Core) : (s.modCore k f).chips = s.chips := rfl
@[simp] theorem State.modCore_zones (k : Nat) (f : Core → Core) : (s.modCore k f).zones = s.zones := rfl
@[simp] theorem State.modCore_quars (k : Nat) (f : Core → Core) : (s.modCore k f).quars = s.quars := rfl
@[simp] theorem State.modCore_spaces (k : Nat) (f : Core → Core) : (s.modCore k f).spaces = s.spaces := rfl
@[simp] theorem State.modCore_mem (k : Nat) (f : Core → Core) : (s.modCore k f).mem = s.mem := rfl
@[simp] theorem State.modCore_dark (k : Nat) (f : Core → Core) : (s.modCore k f).dark = s.dark := rfl
@[simp] theorem State.modCore_fab (k : Nat) (f : Core → Core) : (s.modCore k f).fab = s.fab := rfl
@[simp] theorem State.modCore_qasid (k : Nat) (f : Core → Core) : (s.modCore k f).qasid = s.qasid := rfl
@[simp] theorem State.modCore_hdmcfg (k : Nat) (f : Core → Core) : (s.modCore k f).hdmcfg = s.hdmcfg := rfl
@[simp] theorem State.modCore_peers (k : Nat) (f : Core → Core) : (s.modCore k f).peers = s.peers := rfl
@[simp] theorem State.modCore_gangs (k : Nat) (f : Core → Core) : (s.modCore k f).gangs = s.gangs := rfl
@[simp] theorem State.modCore_gangNo (k : Nat) (f : Core → Core) : (s.modCore k f).gangNo = s.gangNo := rfl
@[simp] theorem State.modCore_flights (k : Nat) (f : Core → Core) : (s.modCore k f).flights = s.flights := rfl
@[simp] theorem State.modCore_delivs (k : Nat) (f : Core → Core) : (s.modCore k f).delivs = s.delivs := rfl
@[simp] theorem State.modCore_kids (k : Nat) (f : Core → Core) : (s.modCore k f).kids = s.kids := rfl
@[simp] theorem State.modCore_trees (k : Nat) (f : Core → Core) : (s.modCore k f).trees = s.trees := rfl
@[simp] theorem State.modCore_rjobs (k : Nat) (f : Core → Core) : (s.modCore k f).rjobs = s.rjobs := rfl
@[simp] theorem State.modCore_heads (k : Nat) (f : Core → Core) : (s.modCore k f).heads = s.heads := rfl
@[simp] theorem State.modCore_listed (k : Nat) (f : Core → Core) : (s.modCore k f).listed = s.listed := rfl
@[simp] theorem State.modCore_jseq (k : Nat) (f : Core → Core) : (s.modCore k f).jseq = s.jseq := rfl
@[simp] theorem State.modCore_past (k : Nat) (f : Core → Core) : (s.modCore k f).past = s.past := rfl
@[simp] theorem State.modCore_packets (k : Nat) (f : Core → Core) : (s.modCore k f).packets = s.packets := rfl
@[simp] theorem State.modCore_mons (k : Nat) (f : Core → Core) : (s.modCore k f).mons = s.mons := rfl
@[simp] theorem State.modCore_waves (k : Nat) (f : Core → Core) : (s.modCore k f).waves = s.waves := rfl
@[simp] theorem State.modCore_colT (k : Nat) (f : Core → Core) : (s.modCore k f).colT = s.colT := rfl
@[simp] theorem State.modCore_saved (k : Nat) (f : Core → Core) : (s.modCore k f).saved = s.saved := rfl
@[simp] theorem State.modCore_pres (k : Nat) (f : Core → Core) : (s.modCore k f).pres = s.pres := rfl
@[simp] theorem State.modCore_norb (k : Nat) (f : Core → Core) : (s.modCore k f).norb = s.norb := rfl
@[simp] theorem State.modCore_host (k : Nat) (f : Core → Core) : (s.modCore k f).host = s.host := rfl
@[simp] theorem State.modCore_agenda (k : Nat) (f : Core → Core) : (s.modCore k f).agenda = s.agenda := rfl
@[simp] theorem State.modCore_cur (k : Nat) (f : Core → Core) : (s.modCore k f).cur = s.cur := rfl
@[simp] theorem State.modCore_seq (k : Nat) (f : Core → Core) : (s.modCore k f).seq = s.seq := rfl
@[simp] theorem State.modCore_areas (k : Nat) (f : Core → Core) : (s.modCore k f).areas = s.areas := rfl
@[simp] theorem State.modCore_arms (k : Nat) (f : Core → Core) : (s.modCore k f).arms = s.arms := rfl
@[simp] theorem State.modCore_dump (k : Nat) (f : Core → Core) : (s.modCore k f).dump = s.dump := rfl
@[simp] theorem State.modCore_ctx (k : Nat) (f : Core → Core) (j : Nat) : (s.modCore k f).ctx j = s.ctx j := rfl
@[simp] theorem State.modCore_tile (k : Nat) (f : Core → Core) (j : Nat) : (s.modCore k f).tile j = s.tile j := rfl
@[simp] theorem State.modCore_chip (k : Nat) (f : Core → Core) (j : Nat) : (s.modCore k f).chip j = s.chip j := rfl
@[simp] theorem State.modCore_zone (k : Nat) (f : Core → Core) (j : Nat) : (s.modCore k f).zone j = s.zone j := rfl
@[simp] theorem State.modCore_quarry (k : Nat) (f : Core → Core) (j : Nat) : (s.modCore k f).quarry j = s.quarry j := rfl
@[simp] theorem State.modCore_space (k : Nat) (f : Core → Core) (j : Nat) : (s.modCore k f).space j = s.space j := rfl
@[simp] theorem State.modCore_core_same (k : Nat) (f : Core → Core) : (s.modCore k f).core k = (f (s.core k)) := getD_put_same _ _ _ _
theorem State.modCore_core_other (k : Nat) (f : Core → Core) (j : Nat) (h : j ≠ k) : (s.modCore k f).core j = s.core j :=
  getD_put_other _ h _ _

@[simp] theorem State.setTile_ctxs (k : Nat) (t : Tile) : (s.setTile k t).ctxs = s.ctxs := rfl
@[simp] theorem State.setTile_cores (k : Nat) (t : Tile) : (s.setTile k t).cores = s.cores := rfl
@[simp] theorem State.setTile_chips (k : Nat) (t : Tile) : (s.setTile k t).chips = s.chips := rfl
@[simp] theorem State.setTile_zones (k : Nat) (t : Tile) : (s.setTile k t).zones = s.zones := rfl
@[simp] theorem State.setTile_quars (k : Nat) (t : Tile) : (s.setTile k t).quars = s.quars := rfl
@[simp] theorem State.setTile_spaces (k : Nat) (t : Tile) : (s.setTile k t).spaces = s.spaces := rfl
@[simp] theorem State.setTile_mem (k : Nat) (t : Tile) : (s.setTile k t).mem = s.mem := rfl
@[simp] theorem State.setTile_dark (k : Nat) (t : Tile) : (s.setTile k t).dark = s.dark := rfl
@[simp] theorem State.setTile_fab (k : Nat) (t : Tile) : (s.setTile k t).fab = s.fab := rfl
@[simp] theorem State.setTile_qasid (k : Nat) (t : Tile) : (s.setTile k t).qasid = s.qasid := rfl
@[simp] theorem State.setTile_hdmcfg (k : Nat) (t : Tile) : (s.setTile k t).hdmcfg = s.hdmcfg := rfl
@[simp] theorem State.setTile_peers (k : Nat) (t : Tile) : (s.setTile k t).peers = s.peers := rfl
@[simp] theorem State.setTile_gangs (k : Nat) (t : Tile) : (s.setTile k t).gangs = s.gangs := rfl
@[simp] theorem State.setTile_gangNo (k : Nat) (t : Tile) : (s.setTile k t).gangNo = s.gangNo := rfl
@[simp] theorem State.setTile_flights (k : Nat) (t : Tile) : (s.setTile k t).flights = s.flights := rfl
@[simp] theorem State.setTile_delivs (k : Nat) (t : Tile) : (s.setTile k t).delivs = s.delivs := rfl
@[simp] theorem State.setTile_kids (k : Nat) (t : Tile) : (s.setTile k t).kids = s.kids := rfl
@[simp] theorem State.setTile_trees (k : Nat) (t : Tile) : (s.setTile k t).trees = s.trees := rfl
@[simp] theorem State.setTile_rjobs (k : Nat) (t : Tile) : (s.setTile k t).rjobs = s.rjobs := rfl
@[simp] theorem State.setTile_heads (k : Nat) (t : Tile) : (s.setTile k t).heads = s.heads := rfl
@[simp] theorem State.setTile_listed (k : Nat) (t : Tile) : (s.setTile k t).listed = s.listed := rfl
@[simp] theorem State.setTile_jseq (k : Nat) (t : Tile) : (s.setTile k t).jseq = s.jseq := rfl
@[simp] theorem State.setTile_past (k : Nat) (t : Tile) : (s.setTile k t).past = s.past := rfl
@[simp] theorem State.setTile_packets (k : Nat) (t : Tile) : (s.setTile k t).packets = s.packets := rfl
@[simp] theorem State.setTile_mons (k : Nat) (t : Tile) : (s.setTile k t).mons = s.mons := rfl
@[simp] theorem State.setTile_waves (k : Nat) (t : Tile) : (s.setTile k t).waves = s.waves := rfl
@[simp] theorem State.setTile_colT (k : Nat) (t : Tile) : (s.setTile k t).colT = s.colT := rfl
@[simp] theorem State.setTile_saved (k : Nat) (t : Tile) : (s.setTile k t).saved = s.saved := rfl
@[simp] theorem State.setTile_pres (k : Nat) (t : Tile) : (s.setTile k t).pres = s.pres := rfl
@[simp] theorem State.setTile_norb (k : Nat) (t : Tile) : (s.setTile k t).norb = s.norb := rfl
@[simp] theorem State.setTile_host (k : Nat) (t : Tile) : (s.setTile k t).host = s.host := rfl
@[simp] theorem State.setTile_agenda (k : Nat) (t : Tile) : (s.setTile k t).agenda = s.agenda := rfl
@[simp] theorem State.setTile_cur (k : Nat) (t : Tile) : (s.setTile k t).cur = s.cur := rfl
@[simp] theorem State.setTile_seq (k : Nat) (t : Tile) : (s.setTile k t).seq = s.seq := rfl
@[simp] theorem State.setTile_areas (k : Nat) (t : Tile) : (s.setTile k t).areas = s.areas := rfl
@[simp] theorem State.setTile_arms (k : Nat) (t : Tile) : (s.setTile k t).arms = s.arms := rfl
@[simp] theorem State.setTile_dump (k : Nat) (t : Tile) : (s.setTile k t).dump = s.dump := rfl
@[simp] theorem State.setTile_ctx (k : Nat) (t : Tile) (j : Nat) : (s.setTile k t).ctx j = s.ctx j := rfl
@[simp] theorem State.setTile_core (k : Nat) (t : Tile) (j : Nat) : (s.setTile k t).core j = s.core j := rfl
@[simp] theorem State.setTile_chip (k : Nat) (t : Tile) (j : Nat) : (s.setTile k t).chip j = s.chip j := rfl
@[simp] theorem State.setTile_zone (k : Nat) (t : Tile) (j : Nat) : (s.setTile k t).zone j = s.zone j := rfl
@[simp] theorem State.setTile_quarry (k : Nat) (t : Tile) (j : Nat) : (s.setTile k t).quarry j = s.quarry j := rfl
@[simp] theorem State.setTile_space (k : Nat) (t : Tile) (j : Nat) : (s.setTile k t).space j = s.space j := rfl
@[simp] theorem State.setTile_tile_same (k : Nat) (t : Tile) : (s.setTile k t).tile k = t := getD_put_same _ _ _ _
theorem State.setTile_tile_other (k : Nat) (t : Tile) (j : Nat) (h : j ≠ k) : (s.setTile k t).tile j = s.tile j :=
  getD_put_other _ h _ _

@[simp] theorem State.modTile_ctxs (k : Nat) (f : Tile → Tile) : (s.modTile k f).ctxs = s.ctxs := rfl
@[simp] theorem State.modTile_cores (k : Nat) (f : Tile → Tile) : (s.modTile k f).cores = s.cores := rfl
@[simp] theorem State.modTile_chips (k : Nat) (f : Tile → Tile) : (s.modTile k f).chips = s.chips := rfl
@[simp] theorem State.modTile_zones (k : Nat) (f : Tile → Tile) : (s.modTile k f).zones = s.zones := rfl
@[simp] theorem State.modTile_quars (k : Nat) (f : Tile → Tile) : (s.modTile k f).quars = s.quars := rfl
@[simp] theorem State.modTile_spaces (k : Nat) (f : Tile → Tile) : (s.modTile k f).spaces = s.spaces := rfl
@[simp] theorem State.modTile_mem (k : Nat) (f : Tile → Tile) : (s.modTile k f).mem = s.mem := rfl
@[simp] theorem State.modTile_dark (k : Nat) (f : Tile → Tile) : (s.modTile k f).dark = s.dark := rfl
@[simp] theorem State.modTile_fab (k : Nat) (f : Tile → Tile) : (s.modTile k f).fab = s.fab := rfl
@[simp] theorem State.modTile_qasid (k : Nat) (f : Tile → Tile) : (s.modTile k f).qasid = s.qasid := rfl
@[simp] theorem State.modTile_hdmcfg (k : Nat) (f : Tile → Tile) : (s.modTile k f).hdmcfg = s.hdmcfg := rfl
@[simp] theorem State.modTile_peers (k : Nat) (f : Tile → Tile) : (s.modTile k f).peers = s.peers := rfl
@[simp] theorem State.modTile_gangs (k : Nat) (f : Tile → Tile) : (s.modTile k f).gangs = s.gangs := rfl
@[simp] theorem State.modTile_gangNo (k : Nat) (f : Tile → Tile) : (s.modTile k f).gangNo = s.gangNo := rfl
@[simp] theorem State.modTile_flights (k : Nat) (f : Tile → Tile) : (s.modTile k f).flights = s.flights := rfl
@[simp] theorem State.modTile_delivs (k : Nat) (f : Tile → Tile) : (s.modTile k f).delivs = s.delivs := rfl
@[simp] theorem State.modTile_kids (k : Nat) (f : Tile → Tile) : (s.modTile k f).kids = s.kids := rfl
@[simp] theorem State.modTile_trees (k : Nat) (f : Tile → Tile) : (s.modTile k f).trees = s.trees := rfl
@[simp] theorem State.modTile_rjobs (k : Nat) (f : Tile → Tile) : (s.modTile k f).rjobs = s.rjobs := rfl
@[simp] theorem State.modTile_heads (k : Nat) (f : Tile → Tile) : (s.modTile k f).heads = s.heads := rfl
@[simp] theorem State.modTile_listed (k : Nat) (f : Tile → Tile) : (s.modTile k f).listed = s.listed := rfl
@[simp] theorem State.modTile_jseq (k : Nat) (f : Tile → Tile) : (s.modTile k f).jseq = s.jseq := rfl
@[simp] theorem State.modTile_past (k : Nat) (f : Tile → Tile) : (s.modTile k f).past = s.past := rfl
@[simp] theorem State.modTile_packets (k : Nat) (f : Tile → Tile) : (s.modTile k f).packets = s.packets := rfl
@[simp] theorem State.modTile_mons (k : Nat) (f : Tile → Tile) : (s.modTile k f).mons = s.mons := rfl
@[simp] theorem State.modTile_waves (k : Nat) (f : Tile → Tile) : (s.modTile k f).waves = s.waves := rfl
@[simp] theorem State.modTile_colT (k : Nat) (f : Tile → Tile) : (s.modTile k f).colT = s.colT := rfl
@[simp] theorem State.modTile_saved (k : Nat) (f : Tile → Tile) : (s.modTile k f).saved = s.saved := rfl
@[simp] theorem State.modTile_pres (k : Nat) (f : Tile → Tile) : (s.modTile k f).pres = s.pres := rfl
@[simp] theorem State.modTile_norb (k : Nat) (f : Tile → Tile) : (s.modTile k f).norb = s.norb := rfl
@[simp] theorem State.modTile_host (k : Nat) (f : Tile → Tile) : (s.modTile k f).host = s.host := rfl
@[simp] theorem State.modTile_agenda (k : Nat) (f : Tile → Tile) : (s.modTile k f).agenda = s.agenda := rfl
@[simp] theorem State.modTile_cur (k : Nat) (f : Tile → Tile) : (s.modTile k f).cur = s.cur := rfl
@[simp] theorem State.modTile_seq (k : Nat) (f : Tile → Tile) : (s.modTile k f).seq = s.seq := rfl
@[simp] theorem State.modTile_areas (k : Nat) (f : Tile → Tile) : (s.modTile k f).areas = s.areas := rfl
@[simp] theorem State.modTile_arms (k : Nat) (f : Tile → Tile) : (s.modTile k f).arms = s.arms := rfl
@[simp] theorem State.modTile_dump (k : Nat) (f : Tile → Tile) : (s.modTile k f).dump = s.dump := rfl
@[simp] theorem State.modTile_ctx (k : Nat) (f : Tile → Tile) (j : Nat) : (s.modTile k f).ctx j = s.ctx j := rfl
@[simp] theorem State.modTile_core (k : Nat) (f : Tile → Tile) (j : Nat) : (s.modTile k f).core j = s.core j := rfl
@[simp] theorem State.modTile_chip (k : Nat) (f : Tile → Tile) (j : Nat) : (s.modTile k f).chip j = s.chip j := rfl
@[simp] theorem State.modTile_zone (k : Nat) (f : Tile → Tile) (j : Nat) : (s.modTile k f).zone j = s.zone j := rfl
@[simp] theorem State.modTile_quarry (k : Nat) (f : Tile → Tile) (j : Nat) : (s.modTile k f).quarry j = s.quarry j := rfl
@[simp] theorem State.modTile_space (k : Nat) (f : Tile → Tile) (j : Nat) : (s.modTile k f).space j = s.space j := rfl
@[simp] theorem State.modTile_tile_same (k : Nat) (f : Tile → Tile) : (s.modTile k f).tile k = (f (s.tile k)) := getD_put_same _ _ _ _
theorem State.modTile_tile_other (k : Nat) (f : Tile → Tile) (j : Nat) (h : j ≠ k) : (s.modTile k f).tile j = s.tile j :=
  getD_put_other _ h _ _

@[simp] theorem State.modChip_ctxs (k : Nat) (f : Chip → Chip) : (s.modChip k f).ctxs = s.ctxs := rfl
@[simp] theorem State.modChip_cores (k : Nat) (f : Chip → Chip) : (s.modChip k f).cores = s.cores := rfl
@[simp] theorem State.modChip_tiles (k : Nat) (f : Chip → Chip) : (s.modChip k f).tiles = s.tiles := rfl
@[simp] theorem State.modChip_zones (k : Nat) (f : Chip → Chip) : (s.modChip k f).zones = s.zones := rfl
@[simp] theorem State.modChip_quars (k : Nat) (f : Chip → Chip) : (s.modChip k f).quars = s.quars := rfl
@[simp] theorem State.modChip_spaces (k : Nat) (f : Chip → Chip) : (s.modChip k f).spaces = s.spaces := rfl
@[simp] theorem State.modChip_mem (k : Nat) (f : Chip → Chip) : (s.modChip k f).mem = s.mem := rfl
@[simp] theorem State.modChip_dark (k : Nat) (f : Chip → Chip) : (s.modChip k f).dark = s.dark := rfl
@[simp] theorem State.modChip_fab (k : Nat) (f : Chip → Chip) : (s.modChip k f).fab = s.fab := rfl
@[simp] theorem State.modChip_qasid (k : Nat) (f : Chip → Chip) : (s.modChip k f).qasid = s.qasid := rfl
@[simp] theorem State.modChip_hdmcfg (k : Nat) (f : Chip → Chip) : (s.modChip k f).hdmcfg = s.hdmcfg := rfl
@[simp] theorem State.modChip_peers (k : Nat) (f : Chip → Chip) : (s.modChip k f).peers = s.peers := rfl
@[simp] theorem State.modChip_gangs (k : Nat) (f : Chip → Chip) : (s.modChip k f).gangs = s.gangs := rfl
@[simp] theorem State.modChip_gangNo (k : Nat) (f : Chip → Chip) : (s.modChip k f).gangNo = s.gangNo := rfl
@[simp] theorem State.modChip_flights (k : Nat) (f : Chip → Chip) : (s.modChip k f).flights = s.flights := rfl
@[simp] theorem State.modChip_delivs (k : Nat) (f : Chip → Chip) : (s.modChip k f).delivs = s.delivs := rfl
@[simp] theorem State.modChip_kids (k : Nat) (f : Chip → Chip) : (s.modChip k f).kids = s.kids := rfl
@[simp] theorem State.modChip_trees (k : Nat) (f : Chip → Chip) : (s.modChip k f).trees = s.trees := rfl
@[simp] theorem State.modChip_rjobs (k : Nat) (f : Chip → Chip) : (s.modChip k f).rjobs = s.rjobs := rfl
@[simp] theorem State.modChip_heads (k : Nat) (f : Chip → Chip) : (s.modChip k f).heads = s.heads := rfl
@[simp] theorem State.modChip_listed (k : Nat) (f : Chip → Chip) : (s.modChip k f).listed = s.listed := rfl
@[simp] theorem State.modChip_jseq (k : Nat) (f : Chip → Chip) : (s.modChip k f).jseq = s.jseq := rfl
@[simp] theorem State.modChip_past (k : Nat) (f : Chip → Chip) : (s.modChip k f).past = s.past := rfl
@[simp] theorem State.modChip_packets (k : Nat) (f : Chip → Chip) : (s.modChip k f).packets = s.packets := rfl
@[simp] theorem State.modChip_mons (k : Nat) (f : Chip → Chip) : (s.modChip k f).mons = s.mons := rfl
@[simp] theorem State.modChip_waves (k : Nat) (f : Chip → Chip) : (s.modChip k f).waves = s.waves := rfl
@[simp] theorem State.modChip_colT (k : Nat) (f : Chip → Chip) : (s.modChip k f).colT = s.colT := rfl
@[simp] theorem State.modChip_saved (k : Nat) (f : Chip → Chip) : (s.modChip k f).saved = s.saved := rfl
@[simp] theorem State.modChip_pres (k : Nat) (f : Chip → Chip) : (s.modChip k f).pres = s.pres := rfl
@[simp] theorem State.modChip_norb (k : Nat) (f : Chip → Chip) : (s.modChip k f).norb = s.norb := rfl
@[simp] theorem State.modChip_host (k : Nat) (f : Chip → Chip) : (s.modChip k f).host = s.host := rfl
@[simp] theorem State.modChip_agenda (k : Nat) (f : Chip → Chip) : (s.modChip k f).agenda = s.agenda := rfl
@[simp] theorem State.modChip_cur (k : Nat) (f : Chip → Chip) : (s.modChip k f).cur = s.cur := rfl
@[simp] theorem State.modChip_seq (k : Nat) (f : Chip → Chip) : (s.modChip k f).seq = s.seq := rfl
@[simp] theorem State.modChip_areas (k : Nat) (f : Chip → Chip) : (s.modChip k f).areas = s.areas := rfl
@[simp] theorem State.modChip_arms (k : Nat) (f : Chip → Chip) : (s.modChip k f).arms = s.arms := rfl
@[simp] theorem State.modChip_dump (k : Nat) (f : Chip → Chip) : (s.modChip k f).dump = s.dump := rfl
@[simp] theorem State.modChip_ctx (k : Nat) (f : Chip → Chip) (j : Nat) : (s.modChip k f).ctx j = s.ctx j := rfl
@[simp] theorem State.modChip_core (k : Nat) (f : Chip → Chip) (j : Nat) : (s.modChip k f).core j = s.core j := rfl
@[simp] theorem State.modChip_tile (k : Nat) (f : Chip → Chip) (j : Nat) : (s.modChip k f).tile j = s.tile j := rfl
@[simp] theorem State.modChip_zone (k : Nat) (f : Chip → Chip) (j : Nat) : (s.modChip k f).zone j = s.zone j := rfl
@[simp] theorem State.modChip_quarry (k : Nat) (f : Chip → Chip) (j : Nat) : (s.modChip k f).quarry j = s.quarry j := rfl
@[simp] theorem State.modChip_space (k : Nat) (f : Chip → Chip) (j : Nat) : (s.modChip k f).space j = s.space j := rfl
@[simp] theorem State.modChip_chip_same (k : Nat) (f : Chip → Chip) : (s.modChip k f).chip k = (f (s.chip k)) := getD_put_same _ _ _ _
theorem State.modChip_chip_other (k : Nat) (f : Chip → Chip) (j : Nat) (h : j ≠ k) : (s.modChip k f).chip j = s.chip j :=
  getD_put_other _ h _ _

@[simp] theorem State.modZone_ctxs (k : Nat) (f : Zone → Zone) : (s.modZone k f).ctxs = s.ctxs := rfl
@[simp] theorem State.modZone_cores (k : Nat) (f : Zone → Zone) : (s.modZone k f).cores = s.cores := rfl
@[simp] theorem State.modZone_tiles (k : Nat) (f : Zone → Zone) : (s.modZone k f).tiles = s.tiles := rfl
@[simp] theorem State.modZone_chips (k : Nat) (f : Zone → Zone) : (s.modZone k f).chips = s.chips := rfl
@[simp] theorem State.modZone_quars (k : Nat) (f : Zone → Zone) : (s.modZone k f).quars = s.quars := rfl
@[simp] theorem State.modZone_spaces (k : Nat) (f : Zone → Zone) : (s.modZone k f).spaces = s.spaces := rfl
@[simp] theorem State.modZone_mem (k : Nat) (f : Zone → Zone) : (s.modZone k f).mem = s.mem := rfl
@[simp] theorem State.modZone_dark (k : Nat) (f : Zone → Zone) : (s.modZone k f).dark = s.dark := rfl
@[simp] theorem State.modZone_fab (k : Nat) (f : Zone → Zone) : (s.modZone k f).fab = s.fab := rfl
@[simp] theorem State.modZone_qasid (k : Nat) (f : Zone → Zone) : (s.modZone k f).qasid = s.qasid := rfl
@[simp] theorem State.modZone_hdmcfg (k : Nat) (f : Zone → Zone) : (s.modZone k f).hdmcfg = s.hdmcfg := rfl
@[simp] theorem State.modZone_peers (k : Nat) (f : Zone → Zone) : (s.modZone k f).peers = s.peers := rfl
@[simp] theorem State.modZone_gangs (k : Nat) (f : Zone → Zone) : (s.modZone k f).gangs = s.gangs := rfl
@[simp] theorem State.modZone_gangNo (k : Nat) (f : Zone → Zone) : (s.modZone k f).gangNo = s.gangNo := rfl
@[simp] theorem State.modZone_flights (k : Nat) (f : Zone → Zone) : (s.modZone k f).flights = s.flights := rfl
@[simp] theorem State.modZone_delivs (k : Nat) (f : Zone → Zone) : (s.modZone k f).delivs = s.delivs := rfl
@[simp] theorem State.modZone_kids (k : Nat) (f : Zone → Zone) : (s.modZone k f).kids = s.kids := rfl
@[simp] theorem State.modZone_trees (k : Nat) (f : Zone → Zone) : (s.modZone k f).trees = s.trees := rfl
@[simp] theorem State.modZone_rjobs (k : Nat) (f : Zone → Zone) : (s.modZone k f).rjobs = s.rjobs := rfl
@[simp] theorem State.modZone_heads (k : Nat) (f : Zone → Zone) : (s.modZone k f).heads = s.heads := rfl
@[simp] theorem State.modZone_listed (k : Nat) (f : Zone → Zone) : (s.modZone k f).listed = s.listed := rfl
@[simp] theorem State.modZone_jseq (k : Nat) (f : Zone → Zone) : (s.modZone k f).jseq = s.jseq := rfl
@[simp] theorem State.modZone_past (k : Nat) (f : Zone → Zone) : (s.modZone k f).past = s.past := rfl
@[simp] theorem State.modZone_packets (k : Nat) (f : Zone → Zone) : (s.modZone k f).packets = s.packets := rfl
@[simp] theorem State.modZone_mons (k : Nat) (f : Zone → Zone) : (s.modZone k f).mons = s.mons := rfl
@[simp] theorem State.modZone_waves (k : Nat) (f : Zone → Zone) : (s.modZone k f).waves = s.waves := rfl
@[simp] theorem State.modZone_colT (k : Nat) (f : Zone → Zone) : (s.modZone k f).colT = s.colT := rfl
@[simp] theorem State.modZone_saved (k : Nat) (f : Zone → Zone) : (s.modZone k f).saved = s.saved := rfl
@[simp] theorem State.modZone_pres (k : Nat) (f : Zone → Zone) : (s.modZone k f).pres = s.pres := rfl
@[simp] theorem State.modZone_norb (k : Nat) (f : Zone → Zone) : (s.modZone k f).norb = s.norb := rfl
@[simp] theorem State.modZone_host (k : Nat) (f : Zone → Zone) : (s.modZone k f).host = s.host := rfl
@[simp] theorem State.modZone_agenda (k : Nat) (f : Zone → Zone) : (s.modZone k f).agenda = s.agenda := rfl
@[simp] theorem State.modZone_cur (k : Nat) (f : Zone → Zone) : (s.modZone k f).cur = s.cur := rfl
@[simp] theorem State.modZone_seq (k : Nat) (f : Zone → Zone) : (s.modZone k f).seq = s.seq := rfl
@[simp] theorem State.modZone_areas (k : Nat) (f : Zone → Zone) : (s.modZone k f).areas = s.areas := rfl
@[simp] theorem State.modZone_arms (k : Nat) (f : Zone → Zone) : (s.modZone k f).arms = s.arms := rfl
@[simp] theorem State.modZone_dump (k : Nat) (f : Zone → Zone) : (s.modZone k f).dump = s.dump := rfl
@[simp] theorem State.modZone_ctx (k : Nat) (f : Zone → Zone) (j : Nat) : (s.modZone k f).ctx j = s.ctx j := rfl
@[simp] theorem State.modZone_core (k : Nat) (f : Zone → Zone) (j : Nat) : (s.modZone k f).core j = s.core j := rfl
@[simp] theorem State.modZone_tile (k : Nat) (f : Zone → Zone) (j : Nat) : (s.modZone k f).tile j = s.tile j := rfl
@[simp] theorem State.modZone_chip (k : Nat) (f : Zone → Zone) (j : Nat) : (s.modZone k f).chip j = s.chip j := rfl
@[simp] theorem State.modZone_quarry (k : Nat) (f : Zone → Zone) (j : Nat) : (s.modZone k f).quarry j = s.quarry j := rfl
@[simp] theorem State.modZone_space (k : Nat) (f : Zone → Zone) (j : Nat) : (s.modZone k f).space j = s.space j := rfl
@[simp] theorem State.modZone_zone_same (k : Nat) (f : Zone → Zone) : (s.modZone k f).zone k = (f (s.zone k)) := getD_put_same _ _ _ _
theorem State.modZone_zone_other (k : Nat) (f : Zone → Zone) (j : Nat) (h : j ≠ k) : (s.modZone k f).zone j = s.zone j :=
  getD_put_other _ h _ _

@[simp] theorem State.modQuarry_ctxs (k : Nat) (f : Quarry → Quarry) : (s.modQuarry k f).ctxs = s.ctxs := rfl
@[simp] theorem State.modQuarry_cores (k : Nat) (f : Quarry → Quarry) : (s.modQuarry k f).cores = s.cores := rfl
@[simp] theorem State.modQuarry_tiles (k : Nat) (f : Quarry → Quarry) : (s.modQuarry k f).tiles = s.tiles := rfl
@[simp] theorem State.modQuarry_chips (k : Nat) (f : Quarry → Quarry) : (s.modQuarry k f).chips = s.chips := rfl
@[simp] theorem State.modQuarry_zones (k : Nat) (f : Quarry → Quarry) : (s.modQuarry k f).zones = s.zones := rfl
@[simp] theorem State.modQuarry_spaces (k : Nat) (f : Quarry → Quarry) : (s.modQuarry k f).spaces = s.spaces := rfl
@[simp] theorem State.modQuarry_mem (k : Nat) (f : Quarry → Quarry) : (s.modQuarry k f).mem = s.mem := rfl
@[simp] theorem State.modQuarry_dark (k : Nat) (f : Quarry → Quarry) : (s.modQuarry k f).dark = s.dark := rfl
@[simp] theorem State.modQuarry_fab (k : Nat) (f : Quarry → Quarry) : (s.modQuarry k f).fab = s.fab := rfl
@[simp] theorem State.modQuarry_qasid (k : Nat) (f : Quarry → Quarry) : (s.modQuarry k f).qasid = s.qasid := rfl
@[simp] theorem State.modQuarry_hdmcfg (k : Nat) (f : Quarry → Quarry) : (s.modQuarry k f).hdmcfg = s.hdmcfg := rfl
@[simp] theorem State.modQuarry_peers (k : Nat) (f : Quarry → Quarry) : (s.modQuarry k f).peers = s.peers := rfl
@[simp] theorem State.modQuarry_gangs (k : Nat) (f : Quarry → Quarry) : (s.modQuarry k f).gangs = s.gangs := rfl
@[simp] theorem State.modQuarry_gangNo (k : Nat) (f : Quarry → Quarry) : (s.modQuarry k f).gangNo = s.gangNo := rfl
@[simp] theorem State.modQuarry_flights (k : Nat) (f : Quarry → Quarry) : (s.modQuarry k f).flights = s.flights := rfl
@[simp] theorem State.modQuarry_delivs (k : Nat) (f : Quarry → Quarry) : (s.modQuarry k f).delivs = s.delivs := rfl
@[simp] theorem State.modQuarry_kids (k : Nat) (f : Quarry → Quarry) : (s.modQuarry k f).kids = s.kids := rfl
@[simp] theorem State.modQuarry_trees (k : Nat) (f : Quarry → Quarry) : (s.modQuarry k f).trees = s.trees := rfl
@[simp] theorem State.modQuarry_rjobs (k : Nat) (f : Quarry → Quarry) : (s.modQuarry k f).rjobs = s.rjobs := rfl
@[simp] theorem State.modQuarry_heads (k : Nat) (f : Quarry → Quarry) : (s.modQuarry k f).heads = s.heads := rfl
@[simp] theorem State.modQuarry_listed (k : Nat) (f : Quarry → Quarry) : (s.modQuarry k f).listed = s.listed := rfl
@[simp] theorem State.modQuarry_jseq (k : Nat) (f : Quarry → Quarry) : (s.modQuarry k f).jseq = s.jseq := rfl
@[simp] theorem State.modQuarry_past (k : Nat) (f : Quarry → Quarry) : (s.modQuarry k f).past = s.past := rfl
@[simp] theorem State.modQuarry_packets (k : Nat) (f : Quarry → Quarry) : (s.modQuarry k f).packets = s.packets := rfl
@[simp] theorem State.modQuarry_mons (k : Nat) (f : Quarry → Quarry) : (s.modQuarry k f).mons = s.mons := rfl
@[simp] theorem State.modQuarry_waves (k : Nat) (f : Quarry → Quarry) : (s.modQuarry k f).waves = s.waves := rfl
@[simp] theorem State.modQuarry_colT (k : Nat) (f : Quarry → Quarry) : (s.modQuarry k f).colT = s.colT := rfl
@[simp] theorem State.modQuarry_saved (k : Nat) (f : Quarry → Quarry) : (s.modQuarry k f).saved = s.saved := rfl
@[simp] theorem State.modQuarry_pres (k : Nat) (f : Quarry → Quarry) : (s.modQuarry k f).pres = s.pres := rfl
@[simp] theorem State.modQuarry_norb (k : Nat) (f : Quarry → Quarry) : (s.modQuarry k f).norb = s.norb := rfl
@[simp] theorem State.modQuarry_host (k : Nat) (f : Quarry → Quarry) : (s.modQuarry k f).host = s.host := rfl
@[simp] theorem State.modQuarry_agenda (k : Nat) (f : Quarry → Quarry) : (s.modQuarry k f).agenda = s.agenda := rfl
@[simp] theorem State.modQuarry_cur (k : Nat) (f : Quarry → Quarry) : (s.modQuarry k f).cur = s.cur := rfl
@[simp] theorem State.modQuarry_seq (k : Nat) (f : Quarry → Quarry) : (s.modQuarry k f).seq = s.seq := rfl
@[simp] theorem State.modQuarry_areas (k : Nat) (f : Quarry → Quarry) : (s.modQuarry k f).areas = s.areas := rfl
@[simp] theorem State.modQuarry_arms (k : Nat) (f : Quarry → Quarry) : (s.modQuarry k f).arms = s.arms := rfl
@[simp] theorem State.modQuarry_dump (k : Nat) (f : Quarry → Quarry) : (s.modQuarry k f).dump = s.dump := rfl
@[simp] theorem State.modQuarry_ctx (k : Nat) (f : Quarry → Quarry) (j : Nat) : (s.modQuarry k f).ctx j = s.ctx j := rfl
@[simp] theorem State.modQuarry_core (k : Nat) (f : Quarry → Quarry) (j : Nat) : (s.modQuarry k f).core j = s.core j := rfl
@[simp] theorem State.modQuarry_tile (k : Nat) (f : Quarry → Quarry) (j : Nat) : (s.modQuarry k f).tile j = s.tile j := rfl
@[simp] theorem State.modQuarry_chip (k : Nat) (f : Quarry → Quarry) (j : Nat) : (s.modQuarry k f).chip j = s.chip j := rfl
@[simp] theorem State.modQuarry_zone (k : Nat) (f : Quarry → Quarry) (j : Nat) : (s.modQuarry k f).zone j = s.zone j := rfl
@[simp] theorem State.modQuarry_space (k : Nat) (f : Quarry → Quarry) (j : Nat) : (s.modQuarry k f).space j = s.space j := rfl
@[simp] theorem State.modQuarry_quarry_same (k : Nat) (f : Quarry → Quarry) : (s.modQuarry k f).quarry k = (f (s.quarry k)) := getD_put_same _ _ _ _
theorem State.modQuarry_quarry_other (k : Nat) (f : Quarry → Quarry) (j : Nat) (h : j ≠ k) : (s.modQuarry k f).quarry j = s.quarry j :=
  getD_put_other _ h _ _

@[simp] theorem State.modSpace_ctxs (k : Nat) (f : Space → Space) : (s.modSpace k f).ctxs = s.ctxs := rfl
@[simp] theorem State.modSpace_cores (k : Nat) (f : Space → Space) : (s.modSpace k f).cores = s.cores := rfl
@[simp] theorem State.modSpace_tiles (k : Nat) (f : Space → Space) : (s.modSpace k f).tiles = s.tiles := rfl
@[simp] theorem State.modSpace_chips (k : Nat) (f : Space → Space) : (s.modSpace k f).chips = s.chips := rfl
@[simp] theorem State.modSpace_zones (k : Nat) (f : Space → Space) : (s.modSpace k f).zones = s.zones := rfl
@[simp] theorem State.modSpace_quars (k : Nat) (f : Space → Space) : (s.modSpace k f).quars = s.quars := rfl
@[simp] theorem State.modSpace_mem (k : Nat) (f : Space → Space) : (s.modSpace k f).mem = s.mem := rfl
@[simp] theorem State.modSpace_dark (k : Nat) (f : Space → Space) : (s.modSpace k f).dark = s.dark := rfl
@[simp] theorem State.modSpace_fab (k : Nat) (f : Space → Space) : (s.modSpace k f).fab = s.fab := rfl
@[simp] theorem State.modSpace_qasid (k : Nat) (f : Space → Space) : (s.modSpace k f).qasid = s.qasid := rfl
@[simp] theorem State.modSpace_hdmcfg (k : Nat) (f : Space → Space) : (s.modSpace k f).hdmcfg = s.hdmcfg := rfl
@[simp] theorem State.modSpace_peers (k : Nat) (f : Space → Space) : (s.modSpace k f).peers = s.peers := rfl
@[simp] theorem State.modSpace_gangs (k : Nat) (f : Space → Space) : (s.modSpace k f).gangs = s.gangs := rfl
@[simp] theorem State.modSpace_gangNo (k : Nat) (f : Space → Space) : (s.modSpace k f).gangNo = s.gangNo := rfl
@[simp] theorem State.modSpace_flights (k : Nat) (f : Space → Space) : (s.modSpace k f).flights = s.flights := rfl
@[simp] theorem State.modSpace_delivs (k : Nat) (f : Space → Space) : (s.modSpace k f).delivs = s.delivs := rfl
@[simp] theorem State.modSpace_kids (k : Nat) (f : Space → Space) : (s.modSpace k f).kids = s.kids := rfl
@[simp] theorem State.modSpace_trees (k : Nat) (f : Space → Space) : (s.modSpace k f).trees = s.trees := rfl
@[simp] theorem State.modSpace_rjobs (k : Nat) (f : Space → Space) : (s.modSpace k f).rjobs = s.rjobs := rfl
@[simp] theorem State.modSpace_heads (k : Nat) (f : Space → Space) : (s.modSpace k f).heads = s.heads := rfl
@[simp] theorem State.modSpace_listed (k : Nat) (f : Space → Space) : (s.modSpace k f).listed = s.listed := rfl
@[simp] theorem State.modSpace_jseq (k : Nat) (f : Space → Space) : (s.modSpace k f).jseq = s.jseq := rfl
@[simp] theorem State.modSpace_past (k : Nat) (f : Space → Space) : (s.modSpace k f).past = s.past := rfl
@[simp] theorem State.modSpace_packets (k : Nat) (f : Space → Space) : (s.modSpace k f).packets = s.packets := rfl
@[simp] theorem State.modSpace_mons (k : Nat) (f : Space → Space) : (s.modSpace k f).mons = s.mons := rfl
@[simp] theorem State.modSpace_waves (k : Nat) (f : Space → Space) : (s.modSpace k f).waves = s.waves := rfl
@[simp] theorem State.modSpace_colT (k : Nat) (f : Space → Space) : (s.modSpace k f).colT = s.colT := rfl
@[simp] theorem State.modSpace_saved (k : Nat) (f : Space → Space) : (s.modSpace k f).saved = s.saved := rfl
@[simp] theorem State.modSpace_pres (k : Nat) (f : Space → Space) : (s.modSpace k f).pres = s.pres := rfl
@[simp] theorem State.modSpace_norb (k : Nat) (f : Space → Space) : (s.modSpace k f).norb = s.norb := rfl
@[simp] theorem State.modSpace_host (k : Nat) (f : Space → Space) : (s.modSpace k f).host = s.host := rfl
@[simp] theorem State.modSpace_agenda (k : Nat) (f : Space → Space) : (s.modSpace k f).agenda = s.agenda := rfl
@[simp] theorem State.modSpace_cur (k : Nat) (f : Space → Space) : (s.modSpace k f).cur = s.cur := rfl
@[simp] theorem State.modSpace_seq (k : Nat) (f : Space → Space) : (s.modSpace k f).seq = s.seq := rfl
@[simp] theorem State.modSpace_areas (k : Nat) (f : Space → Space) : (s.modSpace k f).areas = s.areas := rfl
@[simp] theorem State.modSpace_arms (k : Nat) (f : Space → Space) : (s.modSpace k f).arms = s.arms := rfl
@[simp] theorem State.modSpace_dump (k : Nat) (f : Space → Space) : (s.modSpace k f).dump = s.dump := rfl
@[simp] theorem State.modSpace_ctx (k : Nat) (f : Space → Space) (j : Nat) : (s.modSpace k f).ctx j = s.ctx j := rfl
@[simp] theorem State.modSpace_core (k : Nat) (f : Space → Space) (j : Nat) : (s.modSpace k f).core j = s.core j := rfl
@[simp] theorem State.modSpace_tile (k : Nat) (f : Space → Space) (j : Nat) : (s.modSpace k f).tile j = s.tile j := rfl
@[simp] theorem State.modSpace_chip (k : Nat) (f : Space → Space) (j : Nat) : (s.modSpace k f).chip j = s.chip j := rfl
@[simp] theorem State.modSpace_zone (k : Nat) (f : Space → Space) (j : Nat) : (s.modSpace k f).zone j = s.zone j := rfl
@[simp] theorem State.modSpace_quarry (k : Nat) (f : Space → Space) (j : Nat) : (s.modSpace k f).quarry j = s.quarry j := rfl
@[simp] theorem State.modSpace_space_same (k : Nat) (f : Space → Space) : (s.modSpace k f).space k = (f (s.space k)) := getD_put_same _ _ _ _
theorem State.modSpace_space_other (k : Nat) (f : Space → Space) (j : Nat) (h : j ≠ k) : (s.modSpace k f).space j = s.space j :=
  getD_put_other _ h _ _

@[simp] theorem State.modMe_me (f : Ctx → Ctx) : (s.modMe f).me = f s.me := getD_put_same _ _ _ _

theorem State.modMe_eq (f : Ctx → Ctx) : s.modMe f = s.setCtx s.cur.id (f s.me) := rfl

@[simp] theorem State.setCtx_setCtx (id : Nat) (c d : Ctx) : (s.setCtx id c).setCtx id d = s.setCtx id d := by
  simp [State.setCtx]

end Sys2Proof.Machine
end

