-- ==== Sys2Proof/Laws/Memory.lean ====
section
/-! SUPPORT. What the operations on memory and caches can do: every one keeps every memory in canonical form (Memory.wf), and
none of them touches a context. -/

namespace Sys2Proof.Machine
namespace State

variable {s : State}

/-- The bytes of a tile's banks are canonical in a state whose memories are. -/
theorem memOk.sram (h : s.memOk) (k : Nat) : Memory.wf (s.tile k).sram = true := by
  unfold tile getD
  cases hf : find k s.tiles with
  | none => rfl
  | some t => exact h.2 (k, t) (find_mem hf)

/-- A state with the same memory and the same tiles. -/
theorem memOk.same {t : State} (h : s.memOk) (hm : t.mem = s.mem) (ht : t.tiles = s.tiles) : t.memOk := by
  unfold memOk at *
  rwa [hm, ht]

theorem memOk.setTile (h : s.memOk) (k : Nat) {t : Tile} (ht : Memory.wf t.sram = true) : (s.setTile k t).memOk := by
  refine ⟨h.1, fun e he => ?_⟩
  rcases mem_put he with rfl | he
  · exact ht
  · exact h.2 e he

theorem memOk.modTile (h : s.memOk) (k : Nat) {f : Tile → Tile}
    (hf : ∀ t, Memory.wf t.sram = true → Memory.wf (f t).sram = true) : (s.modTile k f).memOk :=
  h.setTile k (hf _ (h.sram k))

theorem memOk.modCtx (h : s.memOk) (id : Nat) (f : Ctx → Ctx) : (s.modCtx id f).memOk := h
theorem memOk.modCore (h : s.memOk) (k : Nat) (f : Core → Core) : (s.modCore k f).memOk := h
theorem memOk.modChip (h : s.memOk) (k : Nat) (f : Chip → Chip) : (s.modChip k f).memOk := h
theorem memOk.noteWrite (h : s.memOk) (a : Home) (l : Nat) : (s.noteWrite a l).memOk := h

theorem memOk.gathered (h : s.memOk) (p : Mon → Partial → Bool) : (s.gathered p).memOk := h
theorem memOk.combineIn (h : s.memOk) (a : Home) (l : Nat) : (s.combineIn a l).memOk := h
theorem memOk.recallAt (h : s.memOk) (a : Home) (l : Nat) : (s.recallAt a l).memOk := h

theorem memOk.packet (h : s.memOk) : s.packet.memOk := h

theorem memOk.homeStore (h : s.memOk) (pl : Nat) (d : BitVec 512) (k : BitVec 64) : (s.homeStore pl d k).memOk := by
  unfold State.homeStore
  split
  · exact h
  · dsimp only
    split
    · exact ⟨wf_storeMasked _ h.1 _ _ _, h.2⟩
    · exact ⟨wf_storeLE _ h.1 _ _, h.2⟩

theorem memOk.rawStore (h : s.memOk) (pa n v : Nat) : (s.rawStore pa n v).memOk := ⟨wf_storeLE _ h.1 _ _, h.2⟩

theorem memOk.setL2 (h : s.memOk) (tid pl : Nat) (l : CLine) : (s.setL2 tid pl l).memOk := h.modTile _ fun _ ht => ht
theorem memOk.setL1 (h : s.memOk) (core pl : Nat) (l : CLine) : (s.setL1 core pl l).memOk := h

theorem memOk.choose (h : s.memOk) (n : Nat) : (s.choose n).2.memOk := h

theorem memOk.l2Clean (h : s.memOk) (tid pl : Nat) : (s.l2Clean tid pl).memOk := by
  unfold State.l2Clean
  split
  · exact (h.setL2 _ _ _).homeStore _ _ _
  · exact h

theorem memOk.l2Evict (h : s.memOk) (tid pl : Nat) : (s.l2Evict tid pl).memOk :=
  ((h.combineIn (.l2 tid) pl).l2Clean tid pl).modTile _ fun _ ht => ht

theorem memOk.pickOf (h : s.memOk) (l : List Nat) : (s.pickOf l).2.memOk := by
  unfold State.pickOf
  split <;> exact h

theorem memOk.roomIn (h : s.memOk) (tid b : Nat) : (s.roomIn tid b).memOk := by
  unfold State.roomIn
  have hp := h.pickOf (s.linesIn tid b)
  split
  · exact h
  · split <;> rename_i e <;> rw [e] at hp
    · exact hp.l2Evict _ _
    · exact hp

theorem memOk.l2Victim (h : s.memOk) (tid pl : Nat) : (s.l2Victim tid pl).memOk := by
  unfold State.l2Victim
  have hp := h.pickOf (s.poolBanks tid)
  split
  · exact h
  · split
    · exact h.l2Evict _ _
    · split <;> rename_i e <;> rw [e] at hp
      · exact hp.l2Evict _ _
      · exact (hp.roomIn _ _).setL2 _ _ _

theorem memOk.pickBank (h : s.memOk) (core : Nat) : (s.pickBank core).2.memOk := by
  unfold State.pickBank
  have hp := h.pickOf (s.allocBanks core)
  split <;> rename_i t e <;> rw [e] at hp
  · exact hp
  · split
    · exact hp
    · rename_i b _
      have hq := memOk.pickOf hp (t.linesIn (idTid core) b)
      split <;> rename_i e2 <;> rw [e2] at hq
      · exact hq.l2Victim _ _
      · exact hq

theorem memOk.l2Fill (h : s.memOk) (core pl : Nat) : (s.l2Fill core pl).2.memOk := by
  unfold State.l2Fill
  dsimp only
  replace h := (h.recallAt (.l2 (idTid core)) pl).combineIn (.l2 (idTid core)) pl
  generalize (s.recallAt (.l2 (idTid core)) pl).combineIn (.l2 (idTid core)) pl = u at h ⊢
  cases find pl (u.tile (idTid core)).l2 with
  | some l =>
    refine memOk.setL2 ?_ _ _ _
    split
    · exact h
    · exact (h.recallAt .quarry pl).packet
  | none =>
    have hp := (h.recallAt .quarry pl).packet.pickBank core
    cases hb : (u.recallAt .quarry pl).packet.pickBank core with
    | mk o t =>
      rw [hb] at hp
      cases o with
      | none => exact hp
      | some b => exact hp.setL2 _ _ _

theorem memOk.l2Store (h : s.memOk) (tid : Nat) (core : Option Nat) (pl : Nat) (d : BitVec 512) (k : BitVec 64) :
    (s.l2Store tid core pl d k).memOk := by
  unfold State.l2Store
  split
  · exact h
  · dsimp only
    replace h := h.combineIn (.l2 tid) pl
    generalize s.combineIn (.l2 tid) pl = s at h ⊢
    split
    · exact (h.noteWrite _ _).setL2 _ _ _
    · cases core with
      | none => exact (h.noteWrite _ _).homeStore _ _ _
      | some c =>
        have hp := (h.noteWrite (.l2 tid) pl).pickBank c
        cases hb : (s.noteWrite (.l2 tid) pl).pickBank c with
        | mk o t =>
          rw [hb] at hp
          cases o with
          | none => simpa [hb] using hp.homeStore _ _ _
          | some b => simpa [hb] using hp.setL2 _ _ _

theorem memOk.l1Clean (h : s.memOk) (core pl : Nat) : (s.l1Clean core pl).memOk := by
  unfold State.l1Clean
  split
  · exact (h.setL1 _ _ _).l2Store _ _ _ _ _
  · exact h

theorem memOk.l1Evict (h : s.memOk) (core pl : Nat) : (s.l1Evict core pl).memOk :=
  ((h.combineIn (.l1 core) pl).l1Clean core pl).modCore _ _

theorem memOk.l1Room (h : s.memOk) (core pl : Nat) : (s.l1Room core pl).memOk := by
  unfold State.l1Room
  have hp := h.pickOf ((s.core core).l1d.map (·.1))
  dsimp only
  split
  · exact h
  · split <;> rename_i e <;> rw [e] at hp
    · exact hp.l1Evict _ _
    · exact hp

theorem memOk.l1Line (h : s.memOk) (core pl : Nat) (k : BitVec 64) : (s.l1Line core pl k).2.memOk := by
  unfold State.l1Line
  dsimp only
  split
  · exact h
  · exact (((h.combineIn (.l1 core) pl).l1Room core pl).l2Fill core pl).setL1 _ _ _

theorem memOk.l1Store (h : s.memOk) (core pl : Nat) (d : BitVec 512) (k : BitVec 64) : (s.l1Store core pl d k).memOk :=
  (((h.combineIn (.l1 core) pl).l1Room core pl).setL1 core pl _).noteWrite _ _

/-- A fold of steps that keep the memories canonical keeps them. -/
theorem memOk.foldl {α : Type} {f : State → α → State} (hf : ∀ t a, t.memOk → (f t a).memOk) (l : List α) (h : s.memOk) :
    (l.foldl f s).memOk := by
  induction l generalizing s with
  | nil => exact h
  | cons a r ih => exact ih (hf _ _ h)

theorem memOk.release (h : s.memOk) (core : Nat) (sc : Scope) : (s.release core sc).memOk := by
  have step : ∀ (p : Nat → Bool) (t : State) (a : Nat), t.memOk →
      (if p a then t.l2Clean (idTid core) a else t).memOk := fun p t a ht => by
    split
    · exact ht.l2Clean _ _
    · exact ht
  have back : ∀ (t : State) (a : Nat), t.memOk → (t.l1Clean core a).memOk := fun _ _ ht => ht.l1Clean _ _
  cases sc with
  | co => exact h
  | ti => exact memOk.foldl (step (pastL2 .ti)) _ (memOk.foldl back _ (h.gathered _))
  | mo => exact memOk.foldl (step (pastL2 .mo)) _ (memOk.foldl back _ (h.gathered _))
  | sy => exact memOk.foldl (step (pastL2 .sy)) _ (memOk.foldl back _ (h.gathered _))

theorem memOk.acquire (h : s.memOk) (core : Nat) (sc : Scope) : (s.acquire core sc).memOk := by
  cases sc with
  | co => exact h
  | ti => exact (h.modCore _ _).modTile _ fun _ ht => ht
  | mo => exact (h.modCore _ _).modTile _ fun _ ht => ht
  | sy => exact (h.modCore _ _).modTile _ fun _ ht => ht

theorem memOk.pushHome (h : s.memOk) (core pl : Nat) : (s.pushHome core pl).memOk :=
  ((h.recallAt .quarry pl).l1Evict core pl).l2Evict _ _

theorem memOk.freshen (h : s.memOk) (core pl : Nat) : (s.freshen core pl).memOk := by
  unfold State.freshen
  split
  · exact h
  · exact (h.modCore _ _).modTile _ fun _ ht => ht

theorem memOk.noteSeen (h : s.memOk) (core pl : Nat) (k : BitVec 64) : (s.noteSeen core pl k).memOk := by
  unfold State.noteSeen
  split <;> exact h

theorem memOk.l1Load (h : s.memOk) (core pa n : Nat) : (s.l1Load core pa n).2.memOk :=
  memOk.l1Line (s := ((s.freshen core (pa / 64)).noteSeen core (pa / 64) (maskAt (pa % 64) n)).loaded)
    (((h.freshen core (pa / 64)).noteSeen _ _ _).same rfl rfl) _ _ _

theorem memOk.lineBack (h : s.memOk) (core pl : Nat) (sc : Scope) (drop : Bool) : (s.lineBack core pl sc drop).memOk := by
  cases sc with
  | co => exact h
  | ti | mo | sy =>
    unfold State.lineBack
    cases pastL2 _ pl <;> cases drop
    all_goals simp only [Bool.false_eq_true, if_false, if_true]
    all_goals replace h := (h.combineIn (.l1 core) pl).l1Clean core pl
    · exact h
    · exact h
    · exact (h.combineIn _ _).l2Clean _ _
    · refine memOk.modTile (memOk.modCore ((h.combineIn _ _).l2Clean _ _) _ _) _ ?_
      exact fun _ ht => ht

theorem memOk.reveal (h : s.memOk) (p : Nat → Bool) (sc : Scope) : (s.reveal p sc).memOk :=
  memOk.foldl (fun _ _ ht => ht.lineBack _ _ _ _) _ h

theorem memOk.l1Write (h : s.memOk) (core pa n v : Nat) : (s.l1Write core pa n v).memOk := h.l1Store _ _ _ _

theorem memOk.bankOn (h : s.memOk) (tid off : Nat) : (s.bankOn tid off).memOk := by
  unfold State.bankOn
  dsimp only
  split
  · exact h
  · exact h.modTile _ fun _ ht => ht

theorem memOk.bankStore (h : s.memOk) (tid off n v : Nat) : (s.bankStore tid off n v).memOk :=
  (h.modTile tid fun t ht => by dsimp only; split <;> exact wf_storeLE _ ht _ _).noteWrite _ _

/-- Clearing a bank keeps the bytes of its tile canonical. -/
theorem wf_zeroBank {t : Tile} (h : Memory.wf t.sram = true) (b : Nat) : Memory.wf (t.zeroBank b).sram = true :=
  wf_filter _ h

theorem memOk.l2Write (h : s.memOk) (tid pa n v : Nat) : (s.l2Write tid pa n v).memOk := h.l2Store _ _ _ _ _

theorem memOk.l2Packet (h : s.memOk) (tid pa n : Nat) : (s.l2Packet tid pa n).memOk := by
  unfold State.l2Packet
  dsimp only
  replace h := (h.recallAt (.l2 tid) (pa / 64)).combineIn (.l2 tid) (pa / 64)
  generalize (s.recallAt (.l2 tid) (pa / 64)).combineIn (.l2 tid) (pa / 64) = u at h ⊢
  split
  · exact h
  · exact (h.recallAt .quarry (pa / 64)).packet

theorem memOk.lineStore (h : s.memOk) (a : Agent) (pa n v : Nat) : (s.lineStore a pa n v).memOk := by
  unfold State.lineStore
  split
  · exact h.l1Write _ _ _ _
  · exact h.l2Write _ _ _ _

theorem memOk.lineLoad (h : s.memOk) (a : Agent) (pa n : Nat) : (s.lineLoad a pa n).2.memOk := by
  unfold State.lineLoad
  split
  · exact h.l1Load _ _ _
  · exact h.l2Packet _ _ _

theorem memOk.memStore (h : s.memOk) (a : Agent) (pa n v : Nat) : (s.memStore a pa n v).memOk := by
  unfold State.memStore
  split
  · exact h.lineStore _ _ _ _
  · exact (h.lineStore _ _ _ _).lineStore _ _ _ _

theorem memOk.memLoad (h : s.memOk) (a : Agent) (pa n : Nat) : (s.memLoad a pa n).2.memOk := by
  unfold State.memLoad
  split
  · exact h.lineLoad _ _ _
  · have h1 := h.lineLoad a pa 64
    generalize s.lineLoad a pa 64 = q at h1 ⊢
    obtain ⟨lo, u⟩ := q
    have h2 := h1.lineLoad a (pa + 64) (n - 64)
    dsimp only at h2 ⊢
    generalize u.lineLoad a (pa + 64) (n - 64) = r at h2 ⊢
    obtain ⟨hi, w⟩ := r
    exact h2

theorem memOk.inject (h : s.memOk) (tid : Nat) (c : BitVec 4) : (s.inject tid c).memOk := h.modTile _ fun _ ht => ht
theorem memOk.uninject (h : s.memOk) (tid : Nat) (c : BitVec 4) : (s.uninject tid c).memOk := h.modTile _ fun _ ht => ht
theorem memOk.dlv (h : s.memOk) (tid : Nat) (c : BitVec 4) : (s.dlv tid c).memOk := h.modTile _ fun _ ht => ht

theorem memOk.modEng (h : s.memOk) (tid : Nat) (f : Eng → Eng) : (s.modEng tid f).memOk := h.modTile _ fun _ ht => ht
theorem memOk.kick (h : s.memOk) (tid unit desc : Nat) : (s.kick tid unit desc).memOk := h.modEng _ _
theorem memOk.modChan (h : s.memOk) (tid ch : Nat) (f : Channel → Channel) : (s.modChan tid ch f).memOk := h.modEng _ _

theorem memOk.queueWin (h : s.memOk) (tid n : Nat) : (s.queueWin tid n).memOk := by
  unfold State.queueWin
  dsimp only
  split
  · exact h
  · split
    · exact h
    · exact (h.modEng _ _).modChan _ _ _

theorem memOk.touchWin (h : s.memOk) (sub : Nat) (colour : BitVec 4) (far : Bool) (tid n : Nat) :
    (s.touchWin sub colour far tid n).memOk := by
  unfold State.touchWin
  dsimp only
  split
  · exact h
  · exact ((h.modEng _ _).kick _ _ _).queueWin _ _

theorem memOk.touchBytes (h : s.memOk) (a : Agent) (tid off n : Nat) : (s.touchBytes a tid off n).memOk := by
  unfold State.touchBytes
  split
  exact memOk.foldl (f := fun s w => s.touchWin _ _ _ tid w) (fun _ _ ht => ht.touchWin _ _ _ _ _) _ h

/-! ### Accesses that perform later than they issue -/

theorem memOk.accTouch (h : s.memOk) (id n : Nat) (e : BankAcc) : (s.accTouch id n e).memOk := by
  unfold State.accTouch
  dsimp only
  split
  · exact h
  · exact (h.release _ _).touchBytes _ _ _ _

theorem memOk.accOrder (h : s.memOk) (e : BankAcc) : (s.accOrder e).memOk := by
  unfold State.accOrder
  dsimp only
  have h1 : (if s.me.seen.any fun k => decide (k.2 ≤ e.dep) then s.reveal (fun k => decide (k ≤ e.dep)) .sy else s).memOk := by
    split
    · exact h.reveal _ _
    · exact h
  generalize (if s.me.seen.any fun k => decide (k.2 ≤ e.dep) then s.reveal (fun k => decide (k ≤ e.dep)) .sy else s) = t at *
  have h2 : (if e.rel then t.release t.myCore e.sc else t).memOk := by
    split
    · exact h1.release _ _
    · exact h1
  generalize (if e.rel then t.release t.myCore e.sc else t) = u at *
  have h3 : (if e.acq then u.acquire u.myCore e.sc else u).memOk := by
    split
    · exact h2.acquire _ _
    · exact h2
  exact h3.same rfl rfl

theorem memOk.accValue (h : s.memOk) (e : BankAcc) (v : Nat) : (s.accValue e v).memOk := by
  unfold State.accValue
  dsimp only
  split
  · exact (h.reveal _ _).same rfl rfl
  · exact h.same rfl rfl

theorem memOk.performAcc (h : s.memOk) (e : BankAcc) : (s.performAcc e).memOk := by
  unfold State.performAcc
  dsimp only
  have h1 : (if e.tid = s.myTid then s else (s.uninject s.myTid e.colour).dlv e.tid e.colour).memOk := by
    split
    · exact h
    · exact (h.uninject _ _).dlv _ _
  generalize (if e.tid = s.myTid then s else (s.uninject s.myTid e.colour).dlv e.tid e.colour) = t at *
  have h2 := h1.accOrder e
  generalize t.accOrder e = u at *
  split
  · exact h2.memStore _ _ _ _
  · exact (h2.memLoad _ _ _).accValue _ _
  · split
    · exact h2
    · exact h2.bankStore _ _ _ _
    · exact (h2.bankOn _ _).accValue _ _

theorem memOk.serveAcc (h : s.memOk) (id n : Nat) : (s.serveAcc id n).memOk := by
  unfold State.serveAcc
  split
  · exact h
  · dsimp only
    split
    · exact h.accTouch _ _ _
    · refine memOk.foldl (fun t e ht => ?_) _ ((h.accTouch _ _ _).same rfl rfl)
      split
      · exact (ht.performAcc e).release _ _
      · exact ht.performAcc e

theorem memOk.drainAccs (h : s.memOk) (id : Nat) : (s.drainAccs id).memOk := by
  have step : ∀ (l : List Nat) (p : State × Nat), p.1.memOk →
      (l.foldl (fun (p : State × Nat) _ =>
        let t := p.1.serveAcc id p.2
        (t, if (t.ctx id).accs.length < (p.1.ctx id).accs.length then p.2 else p.2 + 1)) p).1.memOk := by
    intro l
    induction l with
    | nil => exact fun _ hp => hp
    | cons a r ih => exact fun _ hp => ih _ (hp.serveAcc _ _)
  exact step _ _ h

/-- The memories of the state after reset are in canonical form. -/
theorem reset_memOk : reset.memOk := ⟨rfl, fun _ h => nomatch h⟩

/-! ### Contexts stay -/

@[simp] theorem noteWrite_ctxs (a : Home) (l : Nat) : (s.noteWrite a l).ctxs = s.ctxs := rfl
@[simp] theorem gathered_mem (p : Mon → Partial → Bool) : (s.gathered p).mem = s.mem := rfl
@[simp] theorem gathered_tiles (p : Mon → Partial → Bool) : (s.gathered p).tiles = s.tiles := rfl
@[simp] theorem gathered_cores (p : Mon → Partial → Bool) : (s.gathered p).cores = s.cores := rfl
@[simp] theorem combineIn_mem (a : Home) (l : Nat) : (s.combineIn a l).mem = s.mem := rfl
@[simp] theorem combineIn_tiles (a : Home) (l : Nat) : (s.combineIn a l).tiles = s.tiles := rfl
@[simp] theorem combineIn_cores (a : Home) (l : Nat) : (s.combineIn a l).cores = s.cores := rfl
@[simp] theorem recallAt_mem (a : Home) (l : Nat) : (s.recallAt a l).mem = s.mem := rfl
@[simp] theorem recallAt_tiles (a : Home) (l : Nat) : (s.recallAt a l).tiles = s.tiles := rfl
@[simp] theorem recallAt_cores (a : Home) (l : Nat) : (s.recallAt a l).cores = s.cores := rfl
/-- Combining partials changes only what monitors have seen. -/
theorem gathered_eq (p : Mon → Partial → Bool) : s.gathered p = { s with mons := (s.gathered p).mons } := rfl
@[simp] theorem gathered_ctxs (p : Mon → Partial → Bool) : (s.gathered p).ctxs = s.ctxs := rfl
@[simp] theorem combineIn_ctxs (a : Home) (l : Nat) : (s.combineIn a l).ctxs = s.ctxs := rfl
@[simp] theorem recallAt_ctxs (a : Home) (l : Nat) : (s.recallAt a l).ctxs = s.ctxs := rfl
@[simp] theorem rawStore_ctxs (pa n v : Nat) : (s.rawStore pa n v).ctxs = s.ctxs := rfl
@[simp] theorem rawStore_tiles (pa n v : Nat) : (s.rawStore pa n v).tiles = s.tiles := rfl
@[simp] theorem rawStore_mem (pa n v : Nat) : (s.rawStore pa n v).mem = storeLE s.mem pa n v := rfl
@[simp] theorem bankStore_ctxs (tid off n v : Nat) : (s.bankStore tid off n v).ctxs = s.ctxs := rfl
@[simp] theorem bankStore_mem (tid off n v : Nat) : (s.bankStore tid off n v).mem = s.mem := rfl
@[simp] theorem setL1_ctxs (core pl : Nat) (l : CLine) : (s.setL1 core pl l).ctxs = s.ctxs := rfl
@[simp] theorem setL2_ctxs (tid pl : Nat) (l : CLine) : (s.setL2 tid pl l).ctxs = s.ctxs := rfl

@[simp] theorem homeStore_ctxs (pl : Nat) (d : BitVec 512) (k : BitVec 64) : (s.homeStore pl d k).ctxs = s.ctxs := by
  unfold State.homeStore
  split
  · rfl
  · dsimp only
    split <;> rfl

@[simp] theorem l2Clean_ctxs (tid pl : Nat) : (s.l2Clean tid pl).ctxs = s.ctxs := by
  unfold State.l2Clean
  split <;> simp

@[simp] theorem l2Evict_ctxs (tid pl : Nat) : (s.l2Evict tid pl).ctxs = s.ctxs := by simp [State.l2Evict]

@[simp] theorem pickOf_ctxs (l : List Nat) : (s.pickOf l).2.ctxs = s.ctxs := by
  unfold State.pickOf
  split <;> rfl

@[simp] theorem roomIn_ctxs (tid b : Nat) : (s.roomIn tid b).ctxs = s.ctxs := by
  unfold State.roomIn
  have hp := pickOf_ctxs (s := s) (s.linesIn tid b)
  split
  · rfl
  · split <;> rename_i e <;> rw [e] at hp <;> simpa using hp

@[simp] theorem l2Victim_ctxs (tid pl : Nat) : (s.l2Victim tid pl).ctxs = s.ctxs := by
  unfold State.l2Victim
  have hp := pickOf_ctxs (s := s) (s.poolBanks tid)
  split
  · rfl
  · split
    · simp
    · split <;> rename_i e <;> rw [e] at hp <;> simpa using hp

@[simp] theorem pickBank_ctxs (core : Nat) : (s.pickBank core).2.ctxs = s.ctxs := by
  unfold State.pickBank
  have hp := pickOf_ctxs (s := s) (s.allocBanks core)
  split <;> rename_i t e <;> rw [e] at hp
  · exact hp
  · split
    · exact hp
    · rename_i b _
      have hq := pickOf_ctxs (s := t) (t.linesIn (idTid core) b)
      split <;> rename_i e2 <;> rw [e2] at hq
      · rw [l2Victim_ctxs]; exact hq.trans hp
      · exact hq.trans hp

@[simp] theorem l2Store_ctxs (tid : Nat) (core : Option Nat) (pl : Nat) (d : BitVec 512) (k : BitVec 64) :
    (s.l2Store tid core pl d k).ctxs = s.ctxs := by
  unfold State.l2Store
  split
  · rfl
  · dsimp only
    split
    · rfl
    · cases core with
      | none => simp
      | some c =>
        have hp := pickBank_ctxs (s := (s.combineIn (.l2 tid) pl).noteWrite (.l2 tid) pl) c
        cases hb : ((s.combineIn (.l2 tid) pl).noteWrite (.l2 tid) pl).pickBank c with
        | mk o t =>
          rw [hb] at hp
          cases o <;> simpa [hb] using hp

@[simp] theorem l1Clean_ctxs (core pl : Nat) : (s.l1Clean core pl).ctxs = s.ctxs := by
  unfold State.l1Clean
  split <;> simp

@[simp] theorem l1Evict_ctxs (core pl : Nat) : (s.l1Evict core pl).ctxs = s.ctxs := by simp [State.l1Evict]
@[simp] theorem pushHome_ctxs (core pl : Nat) : (s.pushHome core pl).ctxs = s.ctxs := by simp [State.pushHome]

/-- A fold of steps that keep the contexts keeps them. -/
theorem foldl_ctxs {α : Type} {f : State → α → State} (hf : ∀ t a, (f t a).ctxs = t.ctxs) (l : List α) :
    (l.foldl f s).ctxs = s.ctxs := by
  induction l generalizing s with
  | nil => rfl
  | cons a r ih => rw [List.foldl_cons, ih, hf]

@[simp] theorem release_ctxs (core : Nat) (sc : Scope) : (s.release core sc).ctxs = s.ctxs := by
  cases sc with
  | co => rfl
  | _ =>
    unfold State.release
    dsimp only
    rw [foldl_ctxs fun t a => by split <;> simp, foldl_ctxs fun t a => by simp, gathered_ctxs]

@[simp] theorem acquire_ctxs (core : Nat) (sc : Scope) : (s.acquire core sc).ctxs = s.ctxs := by
  cases sc <;> rfl

end State
end Sys2Proof.Machine
end

