-- ==== Sys2Proof/Laws/Meaning.lean ====
section
/-! SUPPORT. How a meaning ends, what the registers read when nothing is on its way, and what completing, transferring and
raising leave as it was. -/

namespace Sys2Proof.Machine
namespace State

variable (s : State)

/-! ### How a meaning ends -/

@[simp] theorem run_ok (t : State) : s.run (.ok t) = .next t.complete := rfl
@[simp] theorem run_flt (f : Flt) : s.run (.error (.flt f)) = .next (s.raise f) := rfl
@[simp] theorem run_wait (w : Wait) (t : State) : s.run (.error (.wait w t)) = .next (t.park w) := rfl
@[simp] theorem finish_done (t : State) : s.finish (.ok (.done t)) = .next t.complete := rfl
@[simp] theorem finish_jump (t : State) (pc : Word) : s.finish (.ok (.jump t pc)) = .next (t.xfer pc) := rfl
@[simp] theorem finish_keep (t : State) : s.finish (.ok (.keep t)) = .next t := rfl
@[simp] theorem finish_flt (f : Flt) : s.finish (.error (.flt f)) = .next (s.raise f) := rfl
@[simp] theorem finish_wait (w : Wait) (t : State) : s.finish (.error (.wait w t)) = .next (t.park w) := rfl

/-- A meaning always answers a next state. -/
theorem finish_next (a : Act) : ∃ t, s.finish a = .next t := by
  unfold State.finish
  split <;> exact ⟨_, rfl⟩

theorem run_next (a : M State) : ∃ t, s.run a = .next t := s.finish_next _

@[simp] theorem slotFault_eq (c : Code) (pos : Nat) (lw : Bool) :
    s.slotFault c pos lw = .next (s.raise { code := c, info := s.encInfo pos lw }) := rfl

/-! ### Computations that may stop -/

@[simp] theorem ok_bind {α β : Type} (a : α) (f : α → M β) : ((.ok a : M α) >>= f) = f a := rfl
@[simp] theorem error_bind {α β : Type} (e : Stop) (f : α → M β) : ((.error e : M α) >>= f) = .error e := rfl
@[simp] theorem failIf_true (c : Code) (w : Word) : failIf true c w = .error (.flt { code := c, info := w }) := rfl
@[simp] theorem failIf_false (c : Code) (w : Word) : failIf false c w = .ok () := rfl
@[simp] theorem fail_eq {α : Type} (c : Code) (w : Word) : (fail c w : M α) = .error (.flt { code := c, info := w }) := rfl

/-! ### Registers when nothing is on its way (R78, R79) -/

variable {s}

theorem settled.src (h : s.settled) : s.src = s.me := by simp [State.src, h.1]

theorem settled.rx (h : s.settled) (r : XReg) (k : Nat) : s.rx r k = s.xval r := by
  unfold State.rx State.xval
  rw [h.src, h.2]
  rfl

theorem settled.rp (h : s.settled) (r : PReg) (k : Nat) : s.rp r k = s.pval r := by
  unfold State.rp State.pval
  rw [h.src, h.2]
  rfl

theorem settled.rv (h : s.settled) (r : VReg) (k : Nat) : s.rv r k = s.vval r := by
  unfold State.rv State.vval
  rw [h.src, h.2]
  rfl

theorem settled.rk (h : s.settled) (r : PReg) (k : Nat) : s.rk r k = s.kval r := by
  unfold State.rk State.kval
  rw [h.src, h.2]
  rfl

theorem settled.rh (h : s.settled) (r : PReg) : s.rh r = s.me.h.get r := by
  unfold State.rh
  rw [h.src, h.2]
  rfl

variable (s)

/-! ### The executing context is all that a register write, a completion, a transfer or a wait changes -/

/-- An update of the executing context touches nothing else. -/
theorem modMe_onlyMe (f : Ctx → Ctx) : s.onlyMe (s.modMe f) := by
  unfold State.onlyMe
  rw [State.modMe_me]
  rfl

/-- A state that differs in the executing context and the cursor. -/
theorem onlyMe.of {t : State} {c : Ctx} (hc : t.ctxs = put s.cur.id c s.ctxs) (hid : t.cur.id = s.cur.id)
    (ht : t = { s with ctxs := t.ctxs, cur := t.cur }) : s.onlyMe t := by
  have hme : t.me = c := by simp [State.me, State.ctx, hc, hid]
  unfold State.onlyMe
  rw [hme, ht, hc]
  rfl

theorem wr_eq (w : RegWrite) :
    s.wr w = s.modMe fun c => s.depends w ({ c with pend := supersede w c.pend }.put w) := rfl

/-- A result of a register that reads as a constant, or one on its way: either leaves all but the executing context. -/
theorem addLate_onlyCtxs (f : Option Flt) : s.addLate f = { s with ctxs := (s.addLate f).ctxs } := by
  cases f <;> rfl
theorem wlong_onlyCtxs (w : RegWrite) (f : Option Flt) : s.wlong w f = { s with ctxs := (s.wlong w f).ctxs } := by
  unfold State.wlong
  split
  · exact s.addLate_onlyCtxs f
  · rfl
theorem wlat_onlyCtxs (l : Nat) (w : RegWrite) : s.wlat l w = { s with ctxs := (s.wlat l w).ctxs } := by
  unfold State.wlat
  split <;> rfl
theorem watom_onlyCtxs (w : RegWrite) (f : Option Flt) : s.watom w f = { s with ctxs := (s.watom w f).ctxs } := by
  unfold State.watom
  split <;> rfl

@[simp] theorem wr_cur (w : RegWrite) : (s.wr w).cur = s.cur := rfl
@[simp] theorem wx_cur (d : XReg) (v : Word) : (s.wx d v).cur = s.cur := rfl
@[simp] theorem wx_mem (d : XReg) (v : Word) : (s.wx d v).mem = s.mem := rfl
@[simp] theorem wx_tiles (d : XReg) (v : Word) : (s.wx d v).tiles = s.tiles := rfl
@[simp] theorem wx_cores (d : XReg) (v : Word) : (s.wx d v).cores = s.cores := rfl
@[simp] theorem wlong_mem (w : RegWrite) (f : Option Flt) : (s.wlong w f).mem = s.mem := by rw [wlong_onlyCtxs]
@[simp] theorem wlong_tiles (w : RegWrite) (f : Option Flt) : (s.wlong w f).tiles = s.tiles := by rw [wlong_onlyCtxs]
@[simp] theorem wlat_mem (l : Nat) (w : RegWrite) : (s.wlat l w).mem = s.mem := by rw [wlat_onlyCtxs]
@[simp] theorem wlat_tiles (l : Nat) (w : RegWrite) : (s.wlat l w).tiles = s.tiles := by rw [wlat_onlyCtxs]

@[simp] theorem complete_mem : s.complete.mem = s.mem := by unfold State.complete; dsimp only; split <;> rfl
@[simp] theorem complete_tiles : s.complete.tiles = s.tiles := by unfold State.complete; dsimp only; split <;> rfl
@[simp] theorem complete_cores : s.complete.cores = s.cores := by unfold State.complete; dsimp only; split <;> rfl
@[simp] theorem complete_done : s.complete.cur.done = true := by unfold State.complete; dsimp only; split <;> rfl

/-- A completed instruction changed its context and the cursor only. -/
theorem complete_onlyMe : s.onlyMe s.complete := by
  unfold State.complete
  dsimp only
  split
  · exact onlyMe.of s rfl rfl rfl
  · exact onlyMe.of s rfl rfl rfl

theorem xfer_onlyMe (t : Word) : s.onlyMe (s.xfer t) := onlyMe.of s rfl rfl rfl
theorem goto_onlyMe (a : Word) : s.onlyMe (s.goto a) := onlyMe.of s rfl rfl rfl
theorem park_onlyMe (w : Wait) : s.onlyMe (s.park w) := s.modMe_onlyMe _

variable {s}

theorem memOk.modMe (h : s.memOk) (f : Ctx → Ctx) : (s.modMe f).memOk := h
theorem memOk.complete (h : s.memOk) : s.complete.memOk := h.same s.complete_mem s.complete_tiles
theorem memOk.xfer (h : s.memOk) (t : Word) : (s.xfer t).memOk := h
theorem memOk.park (h : s.memOk) (w : Wait) : (s.park w).memOk := h

theorem memOk.postFault (h : s.memOk) (ci : Nat) (m : Msg) : (s.postFault ci m).memOk := h

theorem memOk.sendFault (h : s.memOk) (ci : Nat) (f : Flt) (o : FaultSrc) (late pager : Bool) (pc w5 w7 : Word) :
    (s.sendFault ci f o late pager pc w5 w7).memOk := h

theorem memOk.sendCarry (h : s.memOk) (ci : Nat) (f : Flt) (o : FaultSrc) (l : Vector Word 8) :
    (s.sendCarry ci f o l).memOk := by
  unfold State.sendCarry
  dsimp only
  split
  · exact h
  · exact (memOk.rawStore (s := s.modChip _ _) h _ _ _).sendFault _ _ _ _ _ _ _ _

theorem memOk.halted (h : s.memOk) (id : Nat) (f : Flt) (late : Bool) (prod : Word) : (s.halted id f late prod).memOk := h

theorem memOk.writeImage (h : s.memOk) (pa id : Nat) (c : Ctx) : (s.writeImage pa id c).memOk :=
  memOk.foldl (fun _ _ ht => ht.rawStore _ _ _) _ h

theorem memOk.withSaved (h : s.memOk) (l : List (Nat × SavedUnit)) : { s with saved := l }.memOk := ⟨h.1, h.2⟩
theorem memOk.noteListed (h : s.memOk) (fut node : Nat) (k : Listed) : (s.noteListed fut node k).memOk := ⟨h.1, h.2⟩
theorem memOk.setCtx (h : s.memOk) (id : Nat) (c : Ctx) : (s.setCtx id c).memOk := ⟨h.1, h.2⟩

theorem memOk.saveCtx (h : s.memOk) (pa id : Nat) (c : Ctx) : (s.saveCtx pa id c).memOk := by
  unfold State.saveCtx
  dsimp only
  exact ((h.release _ _).writeImage _ _ _).withSaved _

theorem memOk.toPager (h : s.memOk) (id slot : Nat) (f : Flt) : (s.toPager id slot f).memOk := by
  have key : ∀ (t : State) (c : Ctx) (a b w1 w2 w3 ci : Nat) (d : Word) (k : Listed) (g : Tile → Tile) (o : State → FaultSrc) (pc w5 : Word),
      t.memOk → (∀ u, (g u).sram = u.sram) →
      (let u := (((((t.saveCtx a id c).rawStore b 32 w1).rawStore (b + 0x20) 16 w2).noteListed b (b + 0x20) k).rawStore (b + 0x40) 64 w3
          |>.modTile (idTid id) g).setCtx id {}
       u.sendFault ci f (o u) false true pc w5 0).memOk := fun t c a b w1 w2 w3 ci d k g o pc w5 ht hg =>
    memOk.sendFault (memOk.setCtx (memOk.modTile (((((ht.saveCtx _ _ _).rawStore _ _ _).rawStore _ _ _).noteListed _ _ _).rawStore _ _ _) _
      fun u hu => (hg u).symm ▸ hu) _ _) _ _ _ _ _ _ _ _
  have hd := h.drainAccs id
  unfold State.toPager
  dsimp only
  generalize s.drainAccs id = t at hd ⊢
  exact key t _ _ _ _ _ _ _ 0 _ _ (fun u => { u.ctxSrc id with asid := (t.ctx id).asid }) _ _ hd fun _ => rfl

/-- Taking a fault keeps the memories canonical. -/
theorem memOk.raiseAt (h : s.memOk) (id : Nat) (f : Flt) : (s.raiseAt id f).memOk := by
  unfold State.raiseAt
  split
  · exact h.toPager _ _ _
  · exact h.halted _ _ _ _

theorem memOk.raise (h : s.memOk) (f : Flt) : (s.raise f).memOk := memOk.raiseAt (s := s.modMe _) h _ _

theorem memOk.raiseLate (h : s.memOk) (id : Nat) (l : Late) : (s.raiseLate id l).memOk := h

/-- A meaning keeps the memories canonical when what it computes does. -/
theorem memOk.finish (h : s.memOk) {a : Act} {t : State}
    (ha : ∀ r, a = .ok r → match r with | .done u | .keep u | .jump u _ => u.memOk)
    (hw : ∀ w u, a = .error (.wait w u) → u.memOk) (ht : s.finish a = .next t) : t.memOk := by
  unfold State.finish at ht
  split at ht <;> injection ht with ht <;> subst ht
  · exact (ha _ rfl).complete
  · exact ha _ rfl
  · exact ha _ rfl
  · exact h.raise _
  · exact memOk.park (hw _ _ rfl) _
  · exact h

theorem memOk.run (h : s.memOk) {a : M State} {t : State} (ha : ∀ u, a = .ok u → u.memOk)
    (hw : ∀ w u, a = .error (.wait w u) → u.memOk) (ht : s.run a = .next t) : t.memOk := by
  refine memOk.finish h ?_ ?_ ht
  · intro r hr
    cases a with
    | ok u => injection hr with hr; subst hr; exact ha u rfl
    | error e => cases hr
  · intro w u hr
    cases a with
    | ok v => cases hr
    | error e => injection hr with hr; subst hr; exact hw w u rfl

end State
end Sys2Proof.Machine
end

