-- ==== Sys2Proof/Tests/Slice0.lean ====
section
/-! SUPPORT. Tests of the model on words, values and outcomes that spec/ writes out, and witnesses that the hypotheses of
the statements can be met. -/

open Sys2Proof Sys2Proof.Machine

section

-- The evaluations run one after the other: side by side they would need more threads than the check has memory for.
set_option Elab.async false

/-! ### Decoding: the worked encodings of spec/ -/

/-- 05, worked encoding: `add.i32.sat x3, x1, x2`. -/
theorem test_word_add : decodeTableWord 96 0x2000_0608_4010_0800_0000_0000 = some (.add 3 1 2 .i32 true) := by decide +kernel
/-- 04, worked encoding: `bc.lt.likely x1, x2, back`; HINT stands in the header. -/
theorem test_word_bc : (decodeSlot 0x1108_0211_003F_FFFF_FFFF_FFFF).toOption =
    some { hdr := { sw := false, gap := 0, hint := .likely, pg := 0, pn := false },
           op := .bc 1 2 .lt { slot := 0, ldisp := -1 } } := by decide +kernel
/-- 08, worked encoding: `rpush.acq.ti x9, [x20]`. -/
theorem test_word_rpush : decodeTableWord 96 0x4900_12A0_00A0_0000_0000_0000 =
    some (.rpushClaim 9 { base := 20, idx := 0, sh := 0, disp := 0 } .ti false) := by decide +kernel
/-- 09, worked encoding: `fence.mo`, with all four sets. -/
theorem test_word_fence : decodeTableWord 96 0x4700_1E00_0100_0000_0000_0000 =
    some (.fence true true true true false .mo) := by decide +kernel
/-- 10, worked encoding: `amo.add.w.acq.mo x4, x5, [x6+8]`. -/
theorem test_word_amo : decodeTableWord 96 0x5000_0830_A922_0000_0000_0008 =
    some (.amo 4 5 { base := 6, disp := 8 } .add 2 .mo .acq) := by decide +kernel
/-- 11, worked encoding: `fwait x8, x9, [x10]`. -/
theorem test_word_fwait : decodeTableWord 96 0x5900_1051_2100_0000_0000_0000 =
    some (.fwait 8 9 { base := 10, disp := 0 }) := by decide +kernel
/-- 12, worked encoding: `tsend x9, x20`. -/
theorem test_word_tsend : decodeTableWord 96 0x6000_12A0_0000_0000_0000_0000 = some (.tsend 9 20) := by decide +kernel
/-- 06, worked encoding: `vfadd v3, v1, v2, ft1, k2`. -/
theorem test_word_vfadd : decodeTableWord 96 0x8000_0C22_0208_0000_0000_0000 =
    some (.vfadd 3 1 (.vec 2) 2 1 .rne false) := by decide +kernel
/-- 07, worked encoding: `ftgen.noinf ft9, 4`. -/
theorem test_word_ftgen : decodeTableWord 96 0xA200_0000_0800_0000_0000_0089 =
    some (.ftgen 9 4 false true false false) := by decide +kernel
/-- 13, worked encoding: `mjob.mma x9, p2, x20`. -/
theorem test_word_mjob : decodeTableWord 96 0xB000_12A0_0102_0000_0000_0000 = some (.mjob 9 20 2 .mma) := by decide +kernel
/-- 14, worked encoding: `hld x9, p2, h3, x20, x21`. -/
theorem test_word_hld : decodeTableWord 96 0xC200_12A2_A100_0000_0000_0003 = some (.hld 9 20 21 2 3) := by decide +kernel
/-- 15, worked encoding: `cpy x9, p2, x20, 2`. -/
theorem test_word_cpy : decodeTableWord 96 0xD000_12A0_0100_0000_0000_0002 = some (.cpy 9 20 2 2) := by decide +kernel
/-- 16, worked encoding: `chgo x9, x20`. -/
theorem test_word_chgo : decodeTableWord 96 0xE000_12A0_0000_0000_0000_0000 = some (.chgo 9 20) := by decide +kernel
/-- 17, worked encoding: `arcset x9, x20, 3`. -/
theorem test_word_arcset : decodeTableWord 96 0xE500_12A0_0000_0000_0000_0003 = some (.arcset 9 20 3) := by decide +kernel
/-- 18, worked encoding: `tkreq x9, x20`. -/
theorem test_word_tkreq : decodeTableWord 96 0xE800_12A0_0000_0000_0000_0000 = some (.tkreq 9 20) := by decide +kernel
/-- 19, worked encodings: `tlbinv.va x1, 7` and `asidset.bind x9, x20, 7`. -/
theorem test_word_tlbinv : decodeTableWord 96 0xF500_0008_0000_0000_0000_0007 = some (.tlbinvVa 1 7) ∧
    decodeTableWord 96 0xF900_12A0_0000_0000_0000_0007 = some (.asidsetBind 9 20 7) := by decide +kernel
/-- 20, worked encoding: `sget x9, 0x0010`. -/
theorem test_word_sget : decodeTableWord 96 0xF000_1200_0080_0000_0000_0000 = some (.sget 9 0x10) := by decide +kernel
/-- The statement of the decoded words holds. -/
theorem test_words : Obligations.DecodeWords := by unfold Obligations.DecodeWords; decide +kernel

/-- The error of an outcome. -/
def errOf {ε α : Type} : Except ε α → Option ε
  | .ok _ => none
  | .error e => some e

/-- R64, R65: an unassigned major, GAP on no field, HINT 3, HINT off the control majors, PG = 0 with PN, and a field that
must be zero. -/
theorem test_refused_words :
    errOf (decodeSlot (0x08 * 2 ^ 88)) = some .opcode ∧
    errOf (decodeSlot (0x10 * 2 ^ 88 + 3 * 2 ^ 83)) = some (.encoding 83) ∧
    errOf (decodeSlot (0x20 * 2 ^ 88 + 2 ^ 83)) = some (.encoding 83) ∧
    errOf (decodeSlot (0x20 * 2 ^ 88 + 2 ^ 79)) = some (.encoding 80) ∧
    errOf (decodeSlot (0x20 * 2 ^ 88 + 1)) = some (.encoding 0) := by decide +kernel

/-! ### Well-formedness: one ill-formed term for each check -/

theorem test_wf_control : (Instr.getid 1 11).wf = false ∧ (Instr.call 0 ⟨0, 0⟩).wf = false ∧ (Instr.callr 1 0).wf = false ∧
    (Instr.getid 1 10).wf = true ∧ (Instr.unassignedMajor 0).wf = false := by decide
theorem test_wf_memory :
    (Instr.ld 1 ⟨2, 0, 0, 0⟩ 3 ⟨.ti, .rel, 0⟩).wf = false ∧ (Instr.st 1 ⟨2, 0, 0, 0⟩ 3 ⟨.ti, .acq, 0⟩).wf = false ∧
    (Instr.ldp 1 ⟨2, 0, 0, 0⟩ ⟨.ti, .plain, 0⟩).wf = false ∧ (Instr.ldp 2 ⟨2, 0, 0, 0⟩ ⟨.ti, .rel, 0⟩).wf = false ∧
    (Instr.stp 1 ⟨2, 0, 0, 0⟩ ⟨.ti, .plain, 0⟩).wf = false ∧ (Instr.stp 2 ⟨2, 0, 0, 0⟩ ⟨.ti, .acq, 0⟩).wf = false ∧
    (Instr.fence false false true true false .mo).wf = false ∧ (Instr.fence true true false false false .mo).wf = false ∧
    (Instr.bankcfg 1 0 .ring true).wf = false ∧ (Instr.rpushClaim 1 ⟨2, 0, 0, 0⟩ .sy false).wf = false ∧
    (Instr.rpushPublish ⟨2, 0, 0, 0⟩ .co).wf = false ∧ (Instr.rpopTake 1 ⟨2, 0, 0, 0⟩ .sy false).wf = false ∧
    (Instr.rpopRelease ⟨2, 0, 0, 0⟩ .co).wf = false := by decide
theorem test_wf_atomics :
    (Instr.cas 1 2 ⟨3, 0⟩ 4 .mo .plain).wf = false ∧ (Instr.cas 2 1 ⟨3, 0⟩ 4 .mo .plain).wf = false ∧
    (Instr.addb 1 2 ⟨3, 0⟩ true .mo .plain).wf = false ∧ (Instr.addb 2 1 ⟨3, 0⟩ true .mo .plain).wf = false ∧
    (Instr.red 1 ⟨3, 0⟩ (.int .swap 3) .mo false).wf = false ∧ (Instr.barv 1 2 (.int .swap) 0).wf = false ∧
    (Instr.fpoll 1 ⟨3, 0⟩ true).wf = false ∧ (Instr.binit 1 2 false 0 0).wf = false ∧ (Instr.btest 1 0).wf = false := by decide
theorem test_wf_vector :
    (Instr.vlds 1 3 0 .i32 ⟨.ti, .plain, 0⟩ false).wf = false ∧ (Instr.vsts 1 3 0 .i32 ⟨.ti, .plain, 0⟩).wf = false ∧
    (Instr.vgath 1 2 3 0 .i16 ⟨.ti, .plain, 0⟩ false).wf = false ∧ (Instr.vscat 1 2 3 0 .n8 ⟨.ti, .plain, 0⟩).wf = false ∧
    (Instr.ftset 7 2).wf = false ∧ (Instr.ftset 8 3).wf = false ∧ (Instr.ftget 1 0).wf = false ∧
    (Instr.ftgen 7 1 false false false false).wf = false ∧ (Instr.ftgen 8 0 false false false false).wf = false ∧
    (Instr.ftgen 8 1 false true true false).wf = false := by decide
theorem test_wf_engines :
    (Instr.mjobr 1 3 2 0 .mma).wf = false ∧ (Instr.mcap 1 3 7).wf = false ∧ (Instr.topkrd 1 2).wf = false ∧
    (Instr.hnext 1 2 0 0).wf = false ∧ (Instr.arccnt 1).wf = false ∧ (Instr.tkqry 1).wf = false ∧ (Instr.eqrd 1).wf = false ∧
    (Instr.pgdone 1 3).wf = false ∧ (Instr.preempt 1 2).wf = false ∧ (Instr.resume 1 3).wf = false := by decide
/-- R64 check 4. -/
theorem test_wf_header : (Header.mk false 0 .likely 0 false).wf 0x20 = false ∧ (Header.mk false 0 .none 0 true).wf 0x20 = false ∧
    (Header.mk false 0 .likely 0 false).wf 0x11 = true := by decide

/-! ### One step: the worked examples of spec/, fetched, decoded and executed -/

/-- The word of an instruction under a plain header. -/
def wordOf (i : Instr) : Nat := (encode { sw := false, gap := 0, hint := .none, pg := 0, pn := false } i).getD 0

/-- x1-x6 as the worked examples of 05 have them. -/
def regs05 : Ctx :=
  { x := (((((Vector.replicate 64 (0 : Word)).set 1 0xF0).set 2 0x20).set 4 4).set 5 0x80).set 6 0xFF }

/-- The context after one step that fetches an instruction, with its results arrived; an empty one if the step stops. -/
def ranFrom (s : State) (i : Instr) : Ctx :=
  match step (s.withFetchWord 96 (wordOf i)) with
  | .next t => (t.ctx 0).settle (10 ^ 9) 8
  | _ => {}

/-- The same, from a context of the reset state. -/
def ran (c : Ctx) (i : Instr) : Ctx := ranFrom { State.reset with ctxs := [(0, c)] } i

/-- 05, first table: ADD (R108). -/
theorem test_add : (ran regs05 (.add 3 1 2 .n8 true)).x[3] = 0xFF ∧ (ran regs05 (.add 3 1 2 .i8 true)).x[3] = 0x10 := by
  decide +kernel
/-- 05, first table: MUL and MULH (R108, R109). -/
theorem test_mul : (ran regs05 (.mul 3 1 2 .i8 true)).x[3] = 0xFFFF_FFFF_FFFF_FF80 ∧
    (ran regs05 (.mulh 3 1 2 .i8)).x[3] = 0xFFFF_FFFF_FFFF_FFFE := by decide +kernel
/-- 05, first table: DIV and REM (R110). -/
theorem test_div : (ran regs05 (.div 3 1 0 .n8)).x[3] = 0xFF ∧ (ran regs05 (.div 3 5 6 .i8)).x[3] = 0xFFFF_FFFF_FFFF_FF80 ∧
    (ran regs05 (.rem 3 1 2 .i8)).x[3] = 0xFFFF_FFFF_FFFF_FFF0 := by decide +kernel
/-- 05, first table: SHR, SHA and ROT (R112). -/
theorem test_shifts : (ran regs05 (.shr 3 1 4 .i8)).x[3] = 0x0F ∧ (ran regs05 (.sha 3 1 4 .i8)).x[3] = 0xFFFF_FFFF_FFFF_FFFF ∧
    (ran regs05 (.rot 3 1 4 .n8 true)).x[3] = 0x0F := by decide +kernel
/-- 05, first table: BCNT and EXT (R115, R116). -/
theorem test_bits : (ran regs05 (.bcnt 3 1 .n8 .ctz)).x[3] = 4 ∧ (ran regs05 (.bcnt 3 1 .i8 .cls)).x[3] = 3 ∧
    (ran regs05 (.ext 3 1 true 4 3)).x[3] = 0xFFFF_FFFF_FFFF_FFFF := by decide +kernel
/-- 05, second example: `cmpi.lt p1, x1, 10` with x1 = 7, then `cmp.ne.and p1, x2, x0` with x2 = 5 (R119). -/
theorem test_compare : (ran { x := (Vector.replicate 64 (0 : Word)).set 1 7 } (.cmpi 1 1 .i64 .lt .none 10)).p[1] = true ∧
    (ran { x := (Vector.replicate 64 (0 : Word)).set 2 5, p := (Vector.replicate 8 false).set 1 true }
      (.cmp 1 2 0 .i64 .ne .and)).p[1] = true := by decide +kernel
/-- R101, R45: x0 discards what is written to it, and the PC moves to the next slot. -/
theorem test_x0 : (ran regs05 (.add 0 1 2 .i64 false)).x[0] = 0 ∧ (ran regs05 (.add 0 1 2 .i64 false)).pc = 0x4001 := by
  decide +kernel
/-- R56, R97: a taken branch to the slot 0 of its own line. -/
theorem test_branch : (ran regs05 (.bc 1 2 .ltu ⟨1, 0⟩)).pc = 0x4001 ∧ (ran regs05 (.bc 1 2 .geu ⟨0, 0⟩)).pc = 0x4000 := by
  decide +kernel

/-- 07, worked conversions from ft0: 300.0 to ft4 by RNE and RTZ, -2^-12, 2.5 to ft6. -/
def one (w : Word) : Ctx := { x := (Vector.replicate 64 (0 : Word)).set 1 w }
theorem test_convert :
    (ran (one 0x4396_0000) (.cvt 2 1 (.fmt 4 0) .rne)).x[2] = 0x7F ∧ (ran (one 0x4396_0000) (.cvt 2 1 (.fmt 4 0) .rtz)).x[2] = 0x7E ∧
    (ran (one 0x4368_0000) (.cvt 2 1 (.fmt 4 0) .rne)).x[2] = 0x7E ∧ (ran (one 0xB980_0000) (.cvt 2 1 (.fmt 4 0) .rne)).x[2] = 0 ∧
    (ran (one 0x7FC0_0000) (.cvt 2 1 (.fmt 4 0) .rne)).x[2] = 0x80 ∧ (ran (one 0x4020_0000) (.cvt 2 1 (.fmt 6 0) .rna)).x[2] = 3 ∧
    (ran (one 0x447A_0000) (.cvt 2 1 (.fmt 6 0) .rne)).x[2] = 0x7F := by decide +kernel
/-- 07, the programme of R169: the entry that `ftgen.noinf ft9, 4` builds converts 300.0 to 0x7F. -/
theorem test_ftgen :
    (ran { one 0x4396_0000 with ft := (ran {} (.ftgen 9 4 false true false false)).ft } (.cvt 2 1 (.fmt 9 0) .rne)).x[2] = 0x7F := by
  decide +kernel
/-- 06, worked example: `vfred.add v3, v2, ft1, k1`. -/
theorem test_vfred : (ran { v := (Vector.replicate 32 (0 : VWord)).set 2 0x3F80_3F80_4380, k := (Vector.replicate 8 (0 : KWord)).set 1 0xF }
    (.vfred 3 2 1 1 .rne .add)).v[3] = 0x4380 := by decide +kernel
/-- 06, worked first round of the counter generator: c0, c3, c2, c1 after its four lines. -/
theorem test_icg_line : (0x0000_0001 + 0x0000_0002) % 2 ^ 32 = 0x3 ∧ rotl32 (4 ^^^ 3) 16 = 0x0007_0000 ∧
    rotl32 (2 ^^^ 0x0007_0003) 12 = 0x7000_1000 ∧ rotl32 (0x0007_0000 ^^^ 0x7000_1013) 8 = 0x0710_1370 := by decide +kernel

/-- 10, worked example: cell C after its four contributions holds 01 at byte 20 and the flags word 0x1000_0000_0004, every
other byte is 0, and FACCRD reads it as 1.0. -/
def cellC : Nat :=
  let add (c : Nat) (f w : Nat) : Nat := cellAdd c ((fmtOf false (fixedEntry f)).decode w)
  add (add (add (add 0 0 0x7180_0000) 0 0x3F80_0000) 0 0xF180_0000) 3 0x3370_0000_0000_0000
theorem test_cell : cellC = 2 ^ 160 + 0x1000_0000_0004 * 2 ^ 448 ∧
    cellRead cellC (fmtOf false (fixedEntry 0)) 0 0 = 0x3F80_0000 := by decide +kernel

/-- 01, worked example: the home of PA 0x0000_0123_4567_8000 is q33. -/
theorem test_home : quarryOf 0x0000_0123_4567_8000 = 33 := by decide +kernel

/-! ### Witnesses: states that meet the hypotheses of the statements -/

/-- The outcome is a success that passes a check. -/
def okIs {ε α : Type} (r : Except ε α) (p : α → Bool) : Bool :=
  match r with
  | .ok a => p a
  | .error _ => false

theorem okWith {ε α : Type} {r : Except ε α} {p : α → Bool} (h : okIs r p = true) : ∃ a, r = .ok a ∧ p a = true := by
  cases r with
  | error e => simp [okIs] at h
  | ok a => exact ⟨a, rfl, h⟩

theorem okOf {ε α : Type} {r : Except ε α} (h : okIs r (fun _ => true) = true) : ∃ a, r = .ok a :=
  let ⟨a, h, _⟩ := okWith h
  ⟨a, h⟩

theorem okFst {ε α β : Type} [DecidableEq α] {r : Except ε (α × β)} {a : α} (h : okIs r (fun x => decide (x.1 = a)) = true) :
    ∃ b, r = .ok (a, b) := by
  obtain ⟨x, h, e⟩ := okWith h
  exact ⟨x.2, by simp at e; simp [h, ← e]⟩

/-- The fault of an outcome. -/
def faultOf {α : Type} : M α → Option Flt
  | .error (.flt f) => some f
  | _ => none

theorem faultCode {α : Type} {r : M α} {c : Code} (h : (faultOf r).map (·.code) = some c) :
    ∃ f, r = .error (.flt f) ∧ f.code = c := by
  match r with
  | .error (.flt g) => exact ⟨g, rfl, by simpa [faultOf] using h⟩
  | .error (.wait _ _) => simp [faultOf] at h
  | .error (.late _) => simp [faultOf] at h
  | .ok _ => simp [faultOf] at h

/-- `settled` as a check. -/
def calm (s : State) : Bool := s.cur.src.isNone && s.me.pend.isEmpty

theorem settled_of {s : State} (h : calm s = true) : s.settled := by
  simp [calm] at h
  exact h

/-- A mapping of the 64 KiB at 0, with every right, onto the same physical addresses. -/
def mapEntry : TlbE := { asid := 0, va := 0, size := 2 ^ 16, leaf := 0xFF, pte := 0 }

/-- A line of code whose slot 0 is a legal target. -/
def codeLine0 : BitVec 512 := BitVec.ofNat 512 (fetchLineOf 0)

/-- The privileged context 0 of the supervisor core, READY at 0x4000 with x1, x2, ... as listed; its core maps the lowest
64 KiB and holds the line of 0x4000; bank 0 is SCRATCH and bank 1 a ring of four slots of 64 bytes. -/
def root (xs : List (Fin 64 × Word)) : State :=
  let c : Ctx := { st := .ready, pc := 0x4000, x := xs.foldl (fun v e => v.set e.1.val e.2 e.1.isLt) (Vector.replicate 64 0) }
  { State.reset with
    ctxs := [(0, c)], cores := [(0, { tlb := [mapEntry], l1i := [(0x100, codeLine0)] })],
    tiles := [(0, { tlb := [mapEntry], banks := [(0, { mode := .scratch }), (1, { mode := .ring, ring := { count := 4, freeN := 4 } })] })],
    cur := { id := 0, pc := 0x4000 } }

/-- The same on core 1 of the tile, without privilege. -/
def plain (xs : List (Fin 64 × Word)) : State :=
  let s := root xs
  { s with ctxs := [(2 ^ 13, s.ctx 0)], cores := [(2 ^ 13, s.core 0)], cur := { id := 2 ^ 13, pc := 0x4000 } }

theorem root_priv : (root []).priv = true ∧ (plain []).priv = false := by decide +kernel

/-- Scalar, vector and format statements: nothing but `settled`, a legal entry and a mode. -/
theorem wit_settled : (root []).settled ∧ (plain []).settled := ⟨⟨rfl, rfl⟩, rfl, rfl⟩

/-- ResultWritten and LatencyResult. -/
theorem wit_results : (root []).settled ∧ (root []).cur.done = false ∧ (3 : XReg).val ≠ 0 := ⟨⟨rfl, rfl⟩, rfl, by decide⟩

/-- RegisterFrame, on an addition. -/
theorem wit_registerFrame : ∃ t, aluDests (.add 3 1 2 .i64 false) = some [3] ∧ (root []).cur.done = false ∧
    exec (.add 3 1 2 .i64 false) (root []) = .next t ∧ t.cur.done = true := ⟨_, rfl, rfl, rfl, rfl⟩

/-- Branches and CallsAndTransfers: a legal target, and a condition that holds and one that does not. -/
theorem wit_branches : (∃ s1, (root []).legalHere (relTarget 0x4000 ⟨0, 0⟩) = .ok s1) ∧
    condSpec .eq ((root []).xval 1) ((root []).xval 2) ∧ ¬condSpec .ne ((root []).xval 1) ((root []).xval 2) :=
  ⟨okOf (by decide +kernel), by unfold condSpec; decide +kernel, by unfold condSpec; decide +kernel⟩
/-- ScalarMoves: a member of a gang of its own tile, in region 7. -/
def member : State := { root [] with gangs := [(3, ⟨.replicate 8 0, 0, 0, none, 0, 0, 0, true, [], 1, 0, false⟩)] }.modCtx 0 fun c =>
  { c with gang := some (3, 0), region := some 7 }
theorem wit_scalarMoves : member.me.region = some 7 ∧ member.me.gang = some (3, 0) ∧ (find 3 member.gangs).isSome = true ∧
    tileY member.myTid - tileY 0 < 16 ∧ (root []).me.region = none ∧ (root []).me.gang = none := by decide +kernel
/-- BranchFaults and LoopEnd: slot 1 of the line is no target. -/
theorem wit_branchFaults : ∃ f, (root []).legalHere (relTarget 0x4000 ⟨1, 0⟩) = .error (.flt f) ∧ f.code = .illegalTarget :=
  faultCode (by decide +kernel)
/-- BranchFaults: BCZ and BP, taken and not. -/
theorem wit_branchFaults2 : condSpec .eq ((root []).xval 1) 0 ∧ ¬condSpec .ne ((root []).xval 1) 0 ∧ (root []).pval 0 ≠ false ∧
    (root []).pval 0 = true := ⟨by unfold condSpec; decide +kernel, by unfold condSpec; decide +kernel, by decide +kernel⟩

/-- The same state with targets at the slots of a mask. -/
def rootAt (tgt : Nat) (xs : List (Fin 64 × Word)) : State :=
  (root xs).modCore 0 fun k => { k with l1i := [(0x100, BitVec.ofNat 512 (encodeLine 0 0 0 0 0 tgt 0))] }

/-- Loops, the end at the slot after the loop instruction: the body is no target; it is one and the count is 0 with the slot
after it a target or none; and an end before the body. -/
theorem wit_loops :
    (relTarget 0x4000 ⟨0, 0⟩).toNat < (root []).nextpc.toNat ∧
    (root []).nextpc.toNat ≤ (relTarget 0x4000 ⟨1, 0⟩).toNat ∧
    (∃ f, (root []).legalHere (root []).nextpc = .error (.flt f) ∧ f.code = .illegalTarget) ∧
    (∃ s1, (rootAt 2 []).legalHere (rootAt 2 []).nextpc = .ok s1 ∧
      (faultOf (s1.legalHere (seqPc 0x4001))).isSome = true ∧ (rootAt 2 []).xval 1 = 0) ∧
    (∃ s1, (rootAt 6 []).legalHere (rootAt 6 []).nextpc = .ok s1 ∧ okIs (s1.legalHere (seqPc 0x4001)) (fun _ => true) = true) ∧
    (rootAt 6 [(1, 3)]).xval 1 ≠ 0 := by
  refine ⟨by decide +kernel, by decide +kernel, faultCode (by decide +kernel), ?_, okWith (by decide +kernel), by decide +kernel⟩
  obtain ⟨t, h, p⟩ := okWith (show okIs ((rootAt 2 []).legalHere (rootAt 2 []).nextpc)
    (fun t => (faultOf (t.legalHere (seqPc 0x4001))).isSome) = true by decide +kernel)
  exact ⟨t, h, p, by decide +kernel⟩
/-- LoopEnd: an armed set that ends at the PC, with counts 1 and 2. -/
def looping (n : Word) : State :=
  (root []).modCtx 0 fun c => { c with l0 := { lc := n, ls := 0x4000, le := 0x4000, armed := true } }
/-- The same with set 1 beside set 0, at the second of a pair. -/
def looping2 (m n : Word) : State :=
  { (looping n).modCtx 0 fun c => { c with pc := 0x4001, alone := true, l1 := { lc := m, ls := 0x3FC0, le := 0x4001, armed := true } }
    with cur := { id := 0, pc := 0x4001 } }
theorem wit_loopEnd : (looping 1).cur.fst = false ∧ pairPcs (looping 1) = [0x4000] ∧ (looping 1).me.l1.armed = false ∧
    (looping 1).me.l0.armed = true ∧ (looping 1).me.l0.le = 0x4000 ∧ (looping 1).me.l0.lc = 1 ∧
    (looping 2).me.l0.lc ≠ 1 ∧ (root []).me.l0.armed = false ∧
    (looping2 1 2).cur.fst = false ∧ pairPcs (looping2 1 2) = [0x4000, 0x4001] ∧ (looping2 1 2).me.l1.armed = true ∧
    (looping2 1 2).me.l1.le = 0x4001 ∧ (looping2 1 2).me.l1.lc = 1 ∧ (looping2 2 2).me.l1.lc ≠ 1 := by decide +kernel
/-- LoopEnd and Transfer: the meaning takes each clause: set 1 goes back and leaves set 0; set 1 ends and set 0 goes back; a
transfer out of both bodies disarms them; the first of a pair ends no set. -/
theorem test_loopEnd : (looping2 2 2).complete.me.pc = 0x3FC0 ∧ (looping2 2 2).complete.me.l0.lc = 2 ∧
    (looping2 1 2).complete.me.pc = 0x4000 ∧ (looping2 1 2).complete.me.l0.lc = 1 ∧
    (looping2 1 2).complete.me.l1.armed = false ∧ ((looping2 1 2).xfer 0x8000).me.l0.armed = false ∧
    ((looping2 1 2).xfer 0x3FC0).me.l1.armed = true ∧
    State.me { (looping 1) with cur := { (looping 1).cur with fst := true } }.complete = { (looping 1).me with pc := 0x4001, alone := true } := by
  decide +kernel

/-- Helpers: a free helper, and none; helpers that are live, and none; a context that may end, and one that may not. -/
def parent : State := (root [(1, 0x7FE)]).modCtx 0 fun c => { c with child := 0x7FE }
theorem wit_helpers : (∃ s1, (root []).legalHere 0x4000 = .ok s1 ∧ (calm s1 && s1.freeHelper s1.myCore == some 1) = true) ∧
    (∃ s1, State.legalHere { root [] with ctxs := (List.range 11).map fun c => (ctxOn 0 c, (root []).me) } 0x4000 = .ok s1 ∧
      (calm s1 && s1.freeHelper s1.myCore == none) = true) ∧
    (root []).me.childWord &&& 0x7FE = 0 ∧ parent.me.childWord &&& (parent.xval 1 &&& 0x7FE) ≠ 0 ∧
    (root []).me.late = none ∧ State.haltReady (root []).me = true ∧ State.haltReady parent.me = false ∧
    idCtx (root []).cur.id = 0 ∧ (root []).me.region = none ∧ ctxOn (root []).myCore 1 ≠ (root []).cur.id :=
  ⟨okWith (by decide +kernel), okWith (by decide +kernel), by decide +kernel⟩

/-- TakingAFault: a queue with room on a chiplet that has its supervisor, and one behind which a message waits; a task whose
profile asks for the pager, with a free slot. -/
def pagedRoot : State := ((root []).modSpace 0 fun p => { p with prof := some (BitVec.ofNat 4096 1) }).modTile 0 fun t =>
  { t with pgarea := BitVec.ofNat 64 (2 ^ 13 + 1) }
theorem wit_fault : (root []).faultChip (chipOf (idTid (root []).cur.id)) = 0 ∧ (root []).superTile 0 = some 0 ∧
    ((root []).chip 0).fq.length < 64 ∧ ((root []).chip 0).fwait = [] ∧ Code.trap ≠ .xlateMiss ∧ Code.trap ≠ .xlatePerm ∧
    (root []).pagerFor 0 { code := .xlateMiss, info := 0 } = none ∧
    pagedRoot.pagerFor 0 { code := .xlateMiss, info := 0 } = some 0 ∧
    (let s := (root []).modChip 0 fun c => { c with fwait := [({}, 0)] }
     s.superTile 0 = some 0 ∧ (s.chip 0).fwait ≠ []) := by decide +kernel
/-- R428, R437: the message of a translation fault on the pager path carries PAGER and the slot's address. -/
theorem test_pagerFault : (let t := pagedRoot.raise { code := .xlateMiss, info := 0x123 }
    (t.ctx 0).st = .free ∧ (t.chip 0).fq.map (fun m => (Bit m.w[2] 12, m.w[3], m.w[5])) = [(true, 0x123, 0x2000)]) := by
  decide +kernel

/-! Vector and format statements: legal entries. -/

/-- VectorFloat, VectorOrder, Packing: ft0 and rounding to nearest. -/
theorem wit_float : (∃ f, (root []).floatEntry (0 : FReg).val = .ok f ∧
      (decide (f.cbits ∈ [8, 16, 32, 64]) && decide (1 ≤ f.width) && decide (f.width ≤ f.cbits) && f.blk == 0) = true) ∧
    okIs ((root []).rmOf .rne 48) (fun r => r == 0) = true ∧ okIs ((root []).useEntry 0) (fun f => f.blk == 0) = true :=
  ⟨okWith (by decide +kernel), by decide +kernel⟩
/-- ScalarConvert and VectorConvert: ft0 and ft1, in both orders, with a part that exists and one that does not. -/
theorem wit_convert : okIs ((root []).rmOf .rne 10) (fun _ => true) = true ∧
    okIs ((root []).useEntry 0) (fun f => f.blk == 0 && f.cbits == 32) = true ∧
    okIs ((root []).useEntry 1) (fun f => f.blk == 0 && f.cbits == 16) = true ∧ ¬ 32 / 16 ≤ 1 ∧ 32 / 16 ≤ 2 := by decide +kernel
/-- ScaledConvert: an entry of 32 elements to a scale in ft4, from ft4. -/
def scaledRoot : State := (root []).modCtx 0 fun c =>
  { c with ft := c.ft.set 0 (fixedEntry 4 + BitVec.ofNat 128 (2 * 2 ^ 41 + 4 * 2 ^ 43)) }
theorem wit_scaled : okIs (scaledRoot.useEntry 8) (fun f => f.blk == 32 && f.cbits == 8) = true ∧
    okIs (scaledRoot.useEntry 4) (fun f => f.blk == 0 && f.cbits == 8) = true ∧
    okIs (scaledRoot.rmOf .rne 48) (fun _ => true) = true := by decide +kernel
/-- ScalarConvert and BlockConvert: a reserved mode; a malformed entry; a scaled one; blocks on both sides, and one of 32
elements where a 64-bit side leaves 16. -/
theorem wit_convertFaults :
    (faultOf (((root []).modMe fun c => { c with rm := 6 }).rmOf .dyn 10)).isSome = true ∧
    (faultOf (((root []).modMe fun c => { c with ft := c.ft.set 0 (BitVec.ofNat 128 3) }).useEntry 8)).isSome = true ∧
    okIs (scaledRoot.useEntry 8) (fun f => f.blk != 0 && f.blk ∈ [0, 16, 32, 64] && f.cbits ∈ [8, 16, 32, 64]) = true ∧
    (0 : Fin 8).val < 8 / 8 ∧ 32 ≤ 1024 / 8 ∧ 1024 / 64 < 32 := by decide +kernel

/-! Memory. -/

/-- `unguarded` and `room`, as checks. -/
def noGuard (s : State) (tid : Nat) : Bool :=
  (s.tile tid).eng.wins.isEmpty && s.tiles.all (fun e => e.2.eng.chans.all fun c => c.2.queue.isEmpty) && s.saved.isEmpty
theorem unguarded_of {s : State} {tid : Nat} (h : noGuard s tid = true) : s.unguarded tid := by
  simp only [noGuard, Bool.and_eq_true, List.isEmpty_iff, List.all_eq_true] at h
  exact ⟨h.1.1, h.1.2, fun u hu => by simp [h.2] at hu⟩
theorem room_of {s : State} {core : Nat} {n : Nat} (h : (s.core core).l1d = [] ∧ (s.tile (idTid core)).l2 = []) (hn : n ≤ 512) :
    s.room core n := by
  simp only [State.room, State.linesIn, h.1, h.2, State.l1Lines, State.bankLines]
  exact ⟨by simpa using hn, fun _ => by simp; omega⟩

/-- x1 names byte 0x100 of memory, x2 byte 0x100 of bank 0, x3 bank 1, x4 selector 0x10. -/
def memRoot : State := root [(1, 0x100), (2, 0x1000_0000_0000_0100), (3, 0x1000_0000_0002_0000), (4, 0x3000_0000_0000_0080)]
/-- The operand `[x]`. -/
def opAt (x : XReg) : MemOp := { base := x, idx := 0, sh := 0, disp := 0 }
theorem mem_settled : memRoot.settled := settled_of (by decide +kernel)

/-- MemoryAccesses: an aligned address of memory. -/
theorem wit_memory : memRoot.settled ∧ okIs (memRoot.issueGate .plain) (fun _ => true) = true ∧ memRoot.me.accs = [] ∧
    (∃ s1, memRoot.resolve memRoot.agent .load (memRoot.addrOf (opAt 1)) 8 = .ok (.mem 0x100, s1)) ∧
    (∃ s1, memRoot.resolve memRoot.agent .store (memRoot.addrOf (opAt 1)) 16 = .ok (.mem 0x100, s1)) ∧ 0x100 % 16 = 0 :=
  ⟨mem_settled, by decide +kernel, by decide +kernel, okFst (by decide +kernel), okFst (by decide +kernel), by decide⟩
theorem wit_room : memRoot.room memRoot.myCore 1 ∧ memRoot.room memRoot.myCore 128 :=
  ⟨room_of (by decide +kernel) (by decide), room_of (by decide +kernel) (by decide)⟩
/-- BankAccesses. -/
theorem wit_bank : memRoot.settled ∧ memRoot.unguarded 0 ∧ memRoot.prompt ∧
    (∃ s1, memRoot.resolve memRoot.agent .load (memRoot.addrOf (opAt 2)) 16 = .ok (.bank 0 0x100, s1)) ∧
    (∃ s1, memRoot.resolve memRoot.agent .store (memRoot.addrOf (opAt 2)) 8 = .ok (.bank 0 0x100, s1)) :=
  ⟨mem_settled, unguarded_of (by decide +kernel), by unfold State.prompt; decide +kernel, okFst (by decide +kernel),
    okFst (by decide +kernel)⟩
/-- BankAccesses: a context whose accesses of the private name lag, and a store that waits behind an earlier one. -/
def lagRoot (accs : List BankAcc) : State := memRoot.modCtx 0 fun c => { c with lagP := accs.isEmpty, accs := accs }
def anAcc (st : Option Nat) (off : Nat) : BankAcc :=
  { mesh := false, tid := 0, off := off, n := 8, ea := 0x1000_0000_0000_0100, pc := 0x4000, store := st, grp := 1, lo := 0,
    num := 0, acq := false, old := none }
theorem wit_delayed :
    (lagRoot []).settled ∧ (lagRoot []).delayed ((lagRoot []).bankAcc 0 0x100 8 0x1000_0000_0000_0100 none 0 .plain .co) = true ∧
    (lagRoot [anAcc (some 7) 0x100]).delayed
      ((lagRoot [anAcc (some 7) 0x100]).bankAcc 0 0x100 8 0x1000_0000_0000_0100 (some 1) 0 .plain .co) = true ∧ okIs ((lagRoot []).resolve (lagRoot []).agent .load 0x1000_0000_0000_0100 8) (fun x => decide (x.1 = .bank 0 0x100)) = true :=
  ⟨settled_of (by decide +kernel), by decide +kernel⟩
/-- MemoryLoads, MemoryStores, VectorMemory, OtherAccesses: what follows an access that acquires and has not performed. -/
def behindRoot : State := lagRoot [{ anAcc none 0x100 with acq := true, grp := 8 }]
theorem wit_behind : behindRoot.settled ∧ okIs (behindRoot.issueGate .rel) (fun _ => true) = true ∧
    behindRoot.me.accs.any (behindRoot.memAcc 0x100 8 0x100 none 0 .plain .co).follows = true ∧
    behindRoot.me.accs.any (behindRoot.memAcc 0x100 16 0x100 (some 5) 0 .rel .mo).follows = true ∧
    (∃ e ∈ behindRoot.me.accs, e.before false behindRoot.cur.odep = true) ∧
    (∃ e ∈ behindRoot.me.accs, e.acq = true ∧ e.grp ≠ behindRoot.group) :=
  ⟨settled_of (by decide +kernel), by decide +kernel⟩
/-- BankAccessPerforms: a store that may perform, one that an earlier access holds, one whose bank changed its mode, a load,
and two bytes of one word. -/
theorem wit_performs :
    let e := anAcc (some 7) 0x100
    let s := lagRoot [e, { anAcc none 0x100 with grp := 3 }]
    let b : BankAcc := { e with n := 1, off := 0x101 }
    let m : BankAcc := { e with mem := some 0x100 }
    (s.ctx 0).accs[0]? = some e ∧ State.accGroup (s.ctx 0).accs 0 = [0] ∧ State.accGroup (s.ctx 0).accs 1 = [1] ∧
    s.underGuard 0 0x100 8 = false ∧ (s.tile 0).eng.wins = [] ∧
    okIs (s.bankCheck (s.ctx 0).asid 0 0x100 8 e.ea) (fun _ => true) = true ∧
    ({ anAcc none 0x100 with grp := 3 } : BankAcc).follows e = true ∧
    (faultOf ((s.modTile 0 fun t => { t with banks := [] }).bankCheck (s.ctx 0).asid 0 0x100 8 e.ea)).isSome = true ∧
    (s.ctx 0).pend = [] ∧ (s.ctx 0).late = none ∧
    State.accGroup [{ b with off := 0x100 }, { b with grp := 9 }, b] 0 = [0, 2] ∧ m.rel = false ∧ m.acq = false ∧
    (s.ctx 0).seen = [] ∧ 0x100 % 64 + m.n ≤ 64 := by decide +kernel
/-- R143, R216: two byte stores of one instruction to one word perform in one step. -/
theorem test_oneWord :
    let b : BankAcc := { anAcc (some 7) 0x100 with n := 1 }
    let s := (lagRoot [b, { b with off := 0x101 }, { b with off := 0x104 }]).serveAcc 0 0
    (s.tile 0).sram = [(0x100, 7), (0x101, 7)] ∧ (s.ctx 0).accs.map (·.off) = [0x104] := by decide +kernel
/-- AccessChecks: an address for each check, with the fault that follows, and one that passes on each path. -/
theorem wit_checks :
    let code (ea : Word) (n : Nat) : Option Code := (faultOf (memRoot.resolve memRoot.agent .load ea n)).map (·.code)
    code 0x101 8 = some .misaligned ∧ code 0x5000_0000_0000_0000 8 = some .badPath ∧ code 0x0200_0000_0000_0000 8 = some .badPath ∧
    code 0x1000_0000_0040_0000 8 = some .badPath ∧ code 0x1000_0000_0004_0000 8 = some .bankMode ∧
    code 0x1000_0000_0002_0100 8 = some .bankMode ∧ code 0x1000_0000_0002_00F8 8 = none ∧
    code 0x2000_0000_1C00_0000 8 = some .badPath ∧ code 0x2000_0000_0000_0100 8 = none ∧ code 0x3000_0000_0000_0080 4 = some .badPath ∧
    code 0x3000_0000_0000_0080 8 = none := by decide +kernel
/-- AddressChecks: a bank of another ASID, and a dark tile. -/
theorem wit_checks2 :
    (faultOf (State.resolve { memRoot with dark := [1] } memRoot.agent .load 0x2000_0000_0040_0000 8)).map (·.code) = some .tileDark ∧
    (faultOf ((memRoot.modCtx 0 fun c => { c with asid := 5 }).resolve
      { tid := 0, core := some 0, asid := 5 } .load 0x1000_0000_0000_0100 8)).map (·.code) = some .bankAsid := by decide +kernel
/-- AddressChecks: a tile without and with RD for it; a translation that a TLB holds, one that no table has, one to a peer. -/
def mapped (leaf : Nat) : State := memRoot.modCore 0 fun c =>
  { c with tlb := [{ asid := 0, va := 0, size := 2 ^ 16, leaf := BitVec.ofNat 64 leaf, pte := 0 }] }
theorem wit_checks3 :
    (faultOf (memRoot.resolve memRoot.agent .load 0x2000_0000_0040_0000 8)).map (·.code) = some .tilePerm ∧
    (faultOf ((memRoot.modSpace 0 fun p => { p with prof := some (BitVec.ofNat 4096 ((2 ^ 26 + 2 ^ 13) * 2 ^ 512)) }).resolve
      memRoot.agent .load 0x2000_0000_0040_0000 8)).map (·.code) = some .bankMode ∧
    okIs (memRoot.xlate memRoot.agent 0x100 .load) (fun x => x.1 == 0x100 && x.2.peerOf x.1 == none) = true ∧
    (memRoot.agent.core = some 0 ∧ State.tlbFind (memRoot.core 0).tlb 0 0x10_0000 = none ∧
      State.tlbFind (memRoot.tile 0).tlb 0 0x10_0000 = none ∧ Bit (W (memRoot.rawLoad (memRoot.root 0) 8)) 0 = false) ∧
    (let s := { mapped 0x1E3 with peers := [(0, { reg := 1 })] }
     okIs (s.xlate s.agent 0x4000_0000_0000_0100 .load) (fun x => x.2.peerOf x.1 == some (0, 0x100)) = true) := by decide +kernel
/-- OtherAccesses: the selector of CSTAT, one above 0x8000 and one of no register; a peer whose link is up, and one down. -/
def peerRoot (up : Nat) : State := { mapped 0x1E7 with peers := [(0, { reg := BitVec.ofNat 64 (1 + 2 * up) })] }.modCtx 0 fun c =>
  { c with x := c.x.set 5 0x4000_0000_0000_0100 }
theorem wit_otherAccesses : memRoot.settled ∧ memRoot.me.accs = [] ∧ memRoot.addrOf (opAt 4) = 0x3000_0000_0000_0080 ∧
    (memRoot.sysRead memRoot.cur.id 0x10).isSome = true ∧ memRoot.sysRead memRoot.cur.id 0x7FFF = none ∧
    memRoot.priv = true ∧ (plain []).priv = false ∧
    (∀ k ∈ [AccKind.load, .store], ∀ u ∈ [0, 1], okIs ((peerRoot u).resolve (peerRoot u).agent k ((peerRoot u).addrOf (opAt 5)) 8)
      (fun x => x.1 == .peer 0 0x100 && x.2.peerUp 0 == (u == 1)) = true) :=
  ⟨mem_settled, by decide +kernel⟩
/-- R456, R457: a store to a peer goes out; with its link down the status brings BAD_PATH. -/
theorem test_peerStore : (match exec (.st 1 (opAt 5) 3 { ord := .plain, sc := .co, ch := 0 }) (peerRoot 1) with
      | .next t => (getD {} t.peers 0).sent == [{ off := 0x100, n := 8, value := 0x100 }] && (t.ctx 0).status.map (·.flt) == [none]
      | _ => false) = true ∧
    (match exec (.st 1 (opAt 5) 3 { ord := .plain, sc := .co, ch := 0 }) (peerRoot 0) with
      | .next t => (getD {} t.peers 0).sent == [] && (t.ctx 0).status.map (·.flt.map (·.code)) == [some .badPath]
      | _ => false) = true := by decide +kernel
/-- R414: a page that no table maps raises XLATE_MISS at level 0 with its address and AK. -/
theorem test_miss : faultOf (memRoot.resolve memRoot.agent .store 0x10_0100 8) =
    some { code := .xlateMiss, info := 0x1000_0000_0010_0100 } := by decide +kernel
/-- LineOperations: PREF of an address that faults, of a bank and of memory; CWB and CINV of a bank and of memory, with no
format window over the line. -/
theorem wit_lines :
    okIs (memRoot.resolve memRoot.agent .load (memRoot.addrOf (opAt 0)) 1) (fun _ => true) = true ∧
    (∃ f, (root [(1, 0x5000_0000_0000_0000)]).resolve memRoot.agent .load 0x5000_0000_0000_0000 1 = .error (.flt f) ∧
      f.code = .badPath) ∧
    (∃ s1, memRoot.resolve memRoot.agent .line (memRoot.addrOf (opAt 2)) 1 = .ok (.bank 0 0x100, s1)) ∧
    okIs (memRoot.resolve memRoot.agent .line (memRoot.addrOf (opAt 1)) 1)
      (fun x => decide (x.1 = .mem 0x100) && decide (x.2.fwinAt 0x100 = none)) = true :=
  ⟨by decide +kernel, faultCode (by decide +kernel), okFst (by decide +kernel), by decide +kernel⟩
/-- Fences and the gates of releases. -/
theorem wit_gate : memRoot.relGate = .ok () := by
  obtain ⟨u, h⟩ := okOf (show okIs memRoot.relGate (fun _ => true) = true by decide +kernel)
  exact h
/-- Fences: a load and a store through path 2 on their way, and nothing on its way. -/
theorem wit_fences : memRoot.statusGate = .ok () ∧ memRoot.me.accs = [] ∧
    (∃ e ∈ (lagRoot [anAcc none 0x100]).me.accs, e.store = none) ∧ (∃ e ∈ (lagRoot [anAcc (some 7) 0x100]).me.accs, e.store ≠ none) ∧
    (∃ e ∈ (lagRoot [{ anAcc none 0x100 with mesh := true }]).me.accs, e.mesh = true ∧ e.tid = memRoot.myTid) := by
  obtain ⟨u, h⟩ := okOf (show okIs memRoot.statusGate (fun _ => true) = true by decide +kernel)
  exact ⟨h, by decide +kernel⟩
/-- BankChanges: the result of a BANKCFG that finds its bank as it was, changed already, and a ring with a claim. -/
def cfgCtx : Ctx := { st := .ready, pend := [{ wr := .x 3 0, due := none, flt := none, pc := 0x4000, cfg := some ⟨1, .scratch, false⟩ }] }
theorem wit_bankChanges : (∃ e, cfgCtx.pend = [e] ∧ e.cfg = some ⟨1, .scratch, false⟩ ∧ e.wr = .x 3 0 ∧ e.grp = 0 ∧ e.dead = false ∧
      e.atom = false) ∧ cfgCtx.late = none ∧ memRoot.bankBusy 0 cfgCtx.asid ⟨1, .scratch, false⟩ = none ∧
    ((memRoot.tile 0).bank 1).mode ≠ .scratch ∧ ((memRoot.tile 0).bank 0).mode = .scratch ∧ ((memRoot.tile 0).bank 0).asid = cfgCtx.asid ∧
    ((memRoot.modRing 0 1 fun r => { r with freeN := 3 }).bankBusy 0 cfgCtx.asid ⟨1, .scratch, false⟩).isSome = true :=
  ⟨⟨_, rfl, rfl, rfl, rfl, rfl, rfl⟩, by decide +kernel⟩
/-- BankModes: a bank of another core; a bank of the own core in the same setting and in another; a ring that is not empty. -/
def busyRing : State := memRoot.modRing 0 1 fun r => { r with freeN := 3 }
theorem wit_bankModes : (4 : Fin 32).val / 4 = idCore (plain []).cur.id ∧ (8 : Fin 32).val / 4 ≠ idCore (plain []).cur.id ∧
    (plain []).priv = false ∧ memRoot.priv = true ∧ memRoot.bankWindowed memRoot.myTid 1 = false ∧
    ((memRoot.tile 0).bank 1).mode = .ring ∧ ((memRoot.tile 0).bank 1).asid = memRoot.myAsid ∧
    ((memRoot.tile 0).bank 1).ring.freeN = ((memRoot.tile 0).bank 1).ring.count ∧
    ((busyRing.tile 0).bank 1).ring.freeN ≠ ((busyRing.tile 0).bank 1).ring.count ∧ ((memRoot.tile 0).bank 0).mode ≠ .ring := by
  decide +kernel
/-- RingInstructions: an empty ring to initialise; a ring with free slots, and with none; with a filled slot. -/
def filledRing : State := memRoot.modRing 0 1 fun r =>
  { r with freeN := 0, filled := 3, slots := [(0, { st := .taken }), (1, { st := .filled }), (2, { st := .filled }), (3, { st := .filled })],
           takeI := 1 }
theorem wit_rings :
    ((memRoot.tile memRoot.myTid).bank (Bits 0x201 0 5)).mode = .ring ∧ (memRoot.ring memRoot.myTid 1).empty = true ∧
    okIs (memRoot.ringPlace .load (memRoot.xval 3)) (fun x => decide (x = (0, 1))) = true ∧
    okIs (memRoot.ringBase (memRoot.addrOf (opAt 3))) (fun x => decide (x = (0, 1))) = true ∧ memRoot.me.answer = .none ∧
    (memRoot.ring 0 1).freeN ≠ 0 ∧ (memRoot.ring 0 1).claims = [] ∧ (memRoot.ring 0 1).filled = 0 ∧
    (filledRing.ring 0 1).freeN = 0 ∧ (filledRing.ring 0 1).filled ≠ 0 ∧ (filledRing.ring 0 1).takes = [] ∧
    filledRing.takeFault 0 1 filledRing.myAsid = none ∧
    okIs (filledRing.ringSlotAt (filledRing.addrOf (opAt 3)) .taken) (fun x => decide (x = (0, 1, 0))) = true ∧
    okIs ((memRoot.modRing 0 1 fun r => { r with slots := [(0, { st := .claimed })], freeN := 3, claimI := 1 }).ringSlotAt
      (memRoot.addrOf (opAt 3)) .claimed) (fun x => decide (x = (0, 1, 0))) = true := by decide +kernel
/-- RingInstructions: the faults of RINIT, of a ring address and of a slot; a request behind another; a slot of another NFM;
a request that was answered. -/
theorem wit_ringFaults :
    (let k := (memRoot.tile 0).bank 1
     k.mode = .ring ∧ k.asid = memRoot.myAsid ∧ k.asid ≠ 5 ∧ 5 < Bits 0x4C1 5 3 ∧ k.ring.empty = true) ∧
    ((memRoot.tile 0).bank 0).mode ≠ .ring ∧ (filledRing.ring 0 1).empty = false ∧
    (faultOf (memRoot.ringBase (memRoot.addrOf (opAt 1)))).isSome = true ∧
    (faultOf (memRoot.ringSlotAt (memRoot.addrOf (opAt 3)) .claimed)).isSome = true ∧
    (faultOf (memRoot.ringSlotAt (memRoot.addrOf (opAt 3)) .taken)).isSome = true ∧
    (let s := memRoot.modRing 0 1 fun r => { r with claims := [.claim 1 0] }
     (s.ring 0 1).freeN ≠ 0 ∧ (s.ring 0 1).claims ≠ []) ∧
    (let s := filledRing.modRing 0 1 fun r => { r with takes := [.take 1 0] }
     (s.ring 0 1).filled ≠ 0 ∧ (s.ring 0 1).takes ≠ []) ∧
    (let s := filledRing.modRing 0 1 fun r => { r with slots := put 1 { st := .filled, nfm := true } r.slots }
     (s.takeFault 0 1 s.myAsid).isSome = true ∧ (s.ring 0 1).takes = []) ∧
    (memRoot.answer 0 (.val 7)).me.answer = .val 7 := by decide +kernel
/-- RingOrder: a ring of four whose publish and release indices are 0 and 2. -/
def aRing : Ring := { count := 4, slots := [(0, { st := .claimed }), (2, { st := .taken })], relI := 2 }
theorem wit_ringOrder : 2 ≤ aRing.count ∧ (1 ≠ aRing.pubI) ∧ ¬((aRing.slot aRing.pubI).st = .claimed ∧ (aRing.slot aRing.pubI).mark = true) ∧
    0 = aRing.pubI ∧ ¬((aRing.slot 1).st = .claimed ∧ (aRing.slot 1).mark = true) ∧ 1 ≠ aRing.relI ∧ 2 = aRing.relI ∧
    (aRing.slot 2).st = .taken ∧ ¬((aRing.slot 3).st = .taken ∧ (aRing.slot 3).mark = true) := by decide +kernel

/-- VectorBankAccess: i32 elements from byte 0x100 of bank 0. -/
theorem wit_vectorBank : memRoot.settled ∧ memRoot.unguarded memRoot.myTid ∧ ∀ e : Nat, e < 32 →
    let ea := memRoot.xval 2 + W (e * 4)
    Bits ea 60 4 = 1 ∧ Bits ea 22 38 = 0 ∧ ea.toNat % 4 = 0 ∧
    ((memRoot.tile memRoot.myTid).bank (Bits ea 17 5)).mode = .scratch ∧
    ((memRoot.tile memRoot.myTid).bank (Bits ea 17 5)).asid = memRoot.myAsid :=
  ⟨mem_settled, unguarded_of (by decide +kernel), by decide +kernel⟩
/-- VectorMemory: i32 elements from byte 0x100 of memory. -/
theorem wit_vectorMemory : memRoot.settled ∧ memRoot.cur.adep = 0 ∧ memRoot.me.accs = [] ∧
    okIs (memRoot.placeEls .load 4 (memRoot.activeAt 0 32 fun e => memRoot.xval 1 + W (e * 4)))
      (fun x => x.1.all fun y => decide (y.2.2 = .mem (0x100 + 4 * y.1)) && decide ((0x100 + 4 * y.1) % 4 = 0)) = true :=
  ⟨mem_settled, by decide +kernel⟩

/-! Atomics. -/

/-- IntegerAtomics and AtomicHomes: a word at its quarry and one in a bank, without a window fault. -/
theorem wit_atomics : memRoot.settled ∧
    okIs (memRoot.atomSite .rdwr (memRoot.cellOf ⟨1, 0⟩) 8 .mo) (fun x => decide (x.1 = { home := .quarry, addr := 0x100, flt := none })) = true ∧
    okIs (memRoot.atomSite .store (memRoot.cellOf ⟨2, 0⟩) 8 .mo) (fun x => decide (x.1 = { home := .ni 0, addr := 0x100, flt := none })) = true ∧
    okIs (memRoot.atomSite .rdwr (memRoot.cellOf ⟨1, 0⟩) 16 .co) (fun x => decide (x.1 = { home := .l1 0, addr := 0x100, flt := none })) = true :=
  ⟨mem_settled, by decide +kernel⟩
/-- CellAtomics: a cell of 64 bytes, through ft0. -/
theorem wit_cells : okIs (memRoot.useEntry 0) (fun f => f.blk == 0 && okIs (memRoot.drmOf f 61) (fun _ => true)) = true ∧
    okIs (memRoot.atomSite .store (memRoot.cellOf ⟨1, 0⟩) 64 .mo) (fun x => decide (x.1.flt = none)) = true := by decide +kernel
/-- CellArithmetic: an empty cell and the value 1. -/
theorem wit_cellArithmetic : (0 : Nat) < 2 ^ 512 ∧ 0 / 2 ^ 448 % 2 ^ 40 + 1 < 2 ^ 40 ∧ 0 / 2 ^ 494 = 0 ∧ (0 : Int) ≤ 0 + 160 ∧ 1 * 2 ^ 160 < 2 ^ 407 := by
  decide +kernel
/-- MonitorWait: the expected value and another; a monitor that was hit. -/
def monitored : State := { memRoot with mons := [{ id := 0, home := .quarry, line := 4, hit := true }] }.modCtx 0 fun c =>
  { c with st := .parked, wait := .mwait }
theorem wit_monitor : okIs (memRoot.atomSite .load (memRoot.cellOf ⟨1, 0⟩) 8 .mo) (fun x => decide (x.1.flt = none) &&
      let t := x.2.disarm memRoot.cur.id
      (t.siteLoad x.1 .mo 8).1 == (memRoot.xval 0).toNat % 2 ^ 64 && (t.siteLoad x.1 .mo 8).1 != (memRoot.xval 1).toNat % 2 ^ 64 &&
      (t.siteLoad x.1 .mo 8).2.monFree x.1) = true ∧
    (∃ m ∈ monitored.mons, m.id = monitored.cur.u ∧ m.hit = true) ∧ (monitored.ctx monitored.cur.u).wait = .mwait :=
  ⟨by decide +kernel, ⟨_, List.mem_cons_self .., rfl, rfl⟩, by decide +kernel⟩
/-- R224, R225: a RED of 3 adds at its quarry; a monitor of the line sees it when the core's tile releases past its L2. -/
theorem test_redGathers :
    let s := { memRoot with mons := [{ id := 5, home := .quarry, line := 4, hit := false }] }
    let w := s.redStore { home := .quarry, addr := 0x100, flt := none } .mo (some (.add, 8)) 8 (· + 3)
    w.rawLoad 0x100 8 = s.rawLoad 0x100 8 + 3 ∧ (w.release 0 .ti).mons.all (fun m => !m.hit) = true ∧
    (w.release 0 .mo).mons.any (fun m => m.hit) = true := by decide +kernel
/-- ResultsReturn: a result on its way, with a fault and without, dead and not, beside an older one for its register; a
status; and a context that has a late fault already. -/
def awaiting (f : Option Flt) : State := (root []).modCtx 0 fun c =>
  { c with pend := [{ wr := .x 3 7, due := none, flt := f, pc := 0x4000 }], status := [{ pc := 0x4000, flt := f }] }
theorem wit_returns : (awaiting none).cur.v = 0 ∧
    (∃ e, ((awaiting none).ctx 0).pend = [e] ∧ e.due = none ∧ e.flt = none) ∧ ((awaiting none).ctx 0).late = none ∧
    (∃ e, ((awaiting (some { code := .trap, info := 0 })).ctx 0).pend = [e] ∧ e.flt ≠ none) ∧
    (∃ e, ((awaiting none).ctx 0).status = [e]) ∧
    (∃ e, (((awaiting none).modCtx 0 fun c => { c with pend := c.pend.map fun p => { p with dead := true } }).ctx 0).pend = [e] ∧
      e.dead = true ∧ e.flt = none ∧ e.grp = 0 ∧ e.cfg = none) ∧
    (∃ l, (((awaiting (some { code := .trap, info := 0 })).modCtx 0 fun c =>
      { c with late := some { flt := { code := .misaligned, info := 0 }, pc := 0 } }).ctx 0).late = some l) :=
  ⟨by decide +kernel, ⟨_, rfl, rfl, rfl⟩, by decide +kernel, ⟨_, rfl, by simp⟩, ⟨_, rfl⟩,
    ⟨_, rfl, rfl, rfl, rfl, rfl⟩, ⟨_, rfl⟩⟩
/-- R80: of two loads of x3, the later issued returns first; the older one's value is then discarded. -/
theorem test_returnOrder :
    let s := { (awaiting none).modCtx 0 fun c => { c with pend := c.pend ++ [{ wr := .x 3 9, due := none, flt := none, pc := 0x4001 }] }
               with cur := { id := 0, u := 0, v := 1 } }
    (match exec .registerResultWrite s with
     | .next t => match exec .registerResultWrite { t with cur := { id := 0, u := 0, v := 0 } } with
       | .next u => decide ((t.ctx 0).x.get 3 = 9 ∧ (u.ctx 0).x.get 3 = 9 ∧ (u.ctx 0).pend = [])
       | _ => false
     | _ => false) = true := by decide +kernel

/-! Futures and barriers. -/

/-- ArmArrival: a request on its way to an EMPTY future. -/
theorem wit_armArrival :
    let s := { memRoot with agenda := [.arm 0], arms := [0x800] }
    s.norb.halted = false ∧ s.arms[0]? = some 0x800 ∧ futAt s 0x800 0 / 2 ^ 62 = 0 ∧
    futAt { s with mem := storeLE s.mem 0x800 8 (2 ^ 62) } 0x800 0 / 2 ^ 62 ≠ 0 := by decide +kernel
/-- Word 0 that FSET, FWAIT or RGOPEN of x1 finds at 0x100. -/
def wordSeen (s : State) : Option Nat :=
  match s.futSite s.agent .store (s.cellOf ⟨1, 0⟩) with
  | .ok (pa, t) => if pa = 0x100 then some (futAt ((t.release s.myCore .mo).pushHome s.myCore (pa / 64)) pa 0) else none
  | .error _ => none
/-- FutureSet, Regions and EndOfPageFault: futures that are EMPTY, ARMED, RESOLVED and owned. -/
theorem wit_futures : memRoot.settled ∧ memRoot.relGate = .ok () ∧ wordSeen memRoot = some 0 ∧
    wordSeen (memRoot.rawStore 0x100 8 (2 ^ 62)) = some (2 ^ 62) ∧ wordSeen (memRoot.rawStore 0x100 8 (2 ^ 63)) = some (2 ^ 63) ∧
    wordSeen (memRoot.rawStore 0x100 8 (2 ^ 62 + 1)) = some (2 ^ 62 + 1) :=
  ⟨mem_settled, wit_gate, by decide +kernel⟩
/-- FutureWait: record at 0x140, node at 0x180, the future at 0x100. -/
def waitRoot : State := root [(1, 0x100), (5, 0x140), (6, 0x180)]
theorem wit_futureWait : waitRoot.settled ∧ (waitRoot.xval 5).toNat % 64 ≤ 5 ∧ (waitRoot.xval 5).toNat / 2 ^ 60 = 0 ∧
    (waitRoot.xval 6).toNat % 16 = 0 ∧ okIs (waitRoot.futSite waitRoot.agent .store (waitRoot.cellOf ⟨1, 0⟩)) (fun x => x.1 == 0x100 &&
      okIs (x.2.nodeSite (W ((waitRoot.xval 5).toNat / 64 * 64)) 64) (fun y => y.1 == 0x140 &&
        okIs (y.2.nodeSite (waitRoot.xval 6) 16) fun z => z.1 == 0x180 && decide (0x100 + 32 ≤ z.1))) = true ∧
    okIs (waitRoot.futSite waitRoot.agent .load (waitRoot.cellOf ⟨1, 0⟩)) (fun x => x.1 == 0x100) = true :=
  ⟨settled_of (by decide +kernel), by decide +kernel⟩
/-- BarrierInstructions: a gang member at a record of one member and at one of two; free records; the member's answer. -/
def gangRoot (memb : BitVec 88) : State :=
  let s := root [(4, 0), (5, 1), (6, 0)]
  let s := s.setBar 0 3 { memb := memb, use := true }
  let s := s.setCtx (2 ^ 16) { s.me with gang := some (0, 0) }
  { s with cur := { s.cur with id := 2 ^ 16 } }
theorem wit_barriers : (gangRoot 2).settled ∧ 3 / 2048 = idCore (gangRoot 2).cur.id ∧
    (let b := (gangRoot 2).bar (gangRoot 2).myTid 3
     b.use = true ∧ b.asid = (gangRoot 2).myAsid ∧ (gangRoot 2).me.gang.isSome = true ∧ (gangRoot 2).cur.id < 2 ^ 20 ∧
     b.memb.getLsbD (barBit (gangRoot 2).cur.id) = true ∧ b.wt = false ∧ b.fire = false ∧ b.chn = 0 ∧ b.cha = b.chn ∧
     b.arr ||| BitVec.ofNat 88 (2 ^ barBit (gangRoot 2).cur.id) = b.memb ∧ b.arr = 0) ∧
    ((gangRoot 6).bar 0 3).arr ||| BitVec.ofNat 88 (2 ^ barBit (gangRoot 6).cur.id) ≠ ((gangRoot 6).bar 0 3).memb ∧
    ((gangRoot 2).bar 0 4).use = false ∧ (gangRoot 2).me.answer = .none :=
  ⟨settled_of (by decide +kernel), by decide +kernel⟩
/-- BINIT: one member, bit 64 of the member word. -/
theorem wit_binit : let s := gangRoot 2
    let memb := BitVec.ofNat 88 ((s.xval 4).toNat + (s.xval (xnext 4)).toNat * 2 ^ 64)
    Bit (s.xval (xnext (xnext 4))) 27 = false ∧ Bits (s.xval (xnext (xnext 4))) 28 36 = 0 ∧ Bits (s.xval (xnext 4)) 24 40 = 0 ∧
    (∀ c < 8, memb.getLsbD (11 * c) = false) ∧ memb ≠ 0 := by decide +kernel
/-- BARV, BFREE: a record with a value buffer; a record with an arrival. -/
theorem wit_barv : let s := (gangRoot 6).setBar 0 3 { memb := 6, use := true, vb := true }
    let t := (gangRoot 6).setBar 0 3 { memb := 6, arr := 4, use := true }
    (s.bar 0 3).vb = true ∧ (s.bar 0 3).vop = 0 ∧ (t.bar 0 3).arr ≠ 0 ∧ (t.bar 0 3).use = true := by decide +kernel

/-- FutureFaults: a misaligned future, record operands that are malformed, a record and a node outside the mapping, and a full list. -/
theorem wit_futureFaults :
    (let s := root [(1, 0x101)]
     (faultOf (s.futSite s.agent .store (s.cellOf ⟨1, 0⟩))).isSome = true ∧ (faultOf (s.futSite s.agent .load (s.cellOf ⟨1, 0⟩))).isSome = true) ∧
    ¬(0x146 : Nat) % 64 ≤ 5 ∧ (0x188 : Nat) % 16 ≠ 0 ∧
    (faultOf (waitRoot.nodeSite 0x20000 64)).isSome = true ∧ (faultOf (waitRoot.nodeSite 0x20000 16)).isSome = true ∧
    wordSeen (waitRoot.rawStore 0x100 8 (16383 * 2 ^ 48)) = some (16383 * 2 ^ 48) := by decide +kernel
/-- BarrierChecks: a record of another core; records not in use, of another address space, without the context, without a value
buffer and with another operation; a context outside a gang; entries that are scaled or lead to mode 6. -/
def barAt (b : Bar) : State := (gangRoot 6).setBar 0 3 b
theorem wit_barrierChecks : ¬(3 / 2048 = idCore (plain []).cur.id ∨ (plain []).priv = true) ∧ (plain []).settled ∧
    (barAt { use := true, asid := 5 }).settled ∧ ((barAt { use := true, asid := 5 }).bar 0 3).asid ≠ (gangRoot 6).myAsid ∧
    (root []).me.gang.isSome = false ∧ ((barAt { use := true, memb := 4 }).bar 0 3).memb.getLsbD (barBit (2 ^ 16)) = false ∧
    ((barAt { use := true, memb := 6, vb := true, vop := 1 }).bar 0 3).vop ≠ 9 ∧
    (faultOf (scaledRoot.cellEntry 8)).isSome = true ∧
    (let s := (root []).modCtx 0 fun c => { c with rm := 6 }
     okIs (s.cellEntry 0) (fun e => (faultOf (s.drmOf { e with drm := 7 } 14)).isSome)) = true := by
  refine ⟨by decide +kernel, settled_of (by decide +kernel), settled_of (by decide +kernel), by decide +kernel⟩
/-- R252: BINIT of a record with bit 0 for a member, without a buffer, without its parent, and with it. -/
theorem test_binit :
    let s := barAt {}
    let p := s.setBar 0 9 { use := true, chn := 1, root := (7, 8) }
    (s.binit 3 false 0 1 0 0).1 = 3 ∧ (s.binit 3 false 0 0 0 0).1 = 3 ∧ (s.binit 3 true 0 6 0 (2 ^ 27 + 9 * 2 ^ 13)).1 = 4 ∧
    ((p.binit 3 true 0 6 0 (2 ^ 27 + 9 * 2 ^ 13)).1 = 0 ∧
      ((p.binit 3 true 0 6 0 (2 ^ 27 + 9 * 2 ^ 13)).2.map fun b => b.root) = some (7, 8)) ∧
    (let f := (List.range 128).foldl (fun (t : State) n => t.setBar 0 (n + 10) { use := true, vb := true }) s
     (f.binit 3 true 0 6 0 0).1) = 2 := by decide +kernel
/-- BarrierArrivals: the last of two arrivals at a root, at a record with a parent and at one with a child; the other member
waits with a result that it draws. -/
def lastRoot (b : Bar) : State :=
  let s := barAt { b with memb := 6, arr := 4, use := true, vb := true }
  s.setCtx (2 ^ 17) { s.me with st := .parked, wait := .barrier 3, srctr := 7 }
theorem wit_barrierArrivals : (lastRoot {}).settled ∧ okIs (lastRoot {}).relGate (fun _ => true) = true ∧
    (let s := lastRoot { outs := [(2, ((root []).ftAt 0, 5))] }
     ident s.myTid 0 2 = 2 ^ 17 ∧ (s.ctx (2 ^ 17)).wait = .barrier 3 ∧ (s.ctx (2 ^ 17)).answer = .none ∧
     (s.bar 0 3).arr ||| BitVec.ofNat 88 (2 ^ barBit s.cur.id) = (s.bar 0 3).memb ∧
     okIs (s.cellEntry 0) (fun e => okIs (s.drmOf e 14) fun _ => okIs (s.contribution (.ent 0) (s.xval 5)) fun _ => true)) ∧
    ((lastRoot { pv := true }).bar 0 3).pv = true ∧ ((lastRoot { chn := 1, cha := 1 }).bar 0 3).chn = 1 :=
  ⟨settled_of (by decide +kernel), by decide +kernel, by decide +kernel⟩
/-- R248, R253: two values meet at the last arrival; the other member has their sum, and draws for the readout of a cell. -/
theorem test_barvLast : (match exec (.barv 3 5 (.int .add) 3) (lastRoot { vop := amoCode .add, value := 41, outs := [(2, (0, 8))] }) with
    | .next t => decide ((t.ctx (2 ^ 17)).answer = .val 42 ∧ (t.ctx (2 ^ 17)).st = .ready ∧ t.me.answer = .val 42 ∧
        (t.ctx (2 ^ 17)).srctr = 7)
    | _ => false) = true ∧
    (match exec (.barv 3 5 (.cell true 0) 3) (lastRoot { outs := [(2, ((root []).ftAt 0, 5))] }) with
    | .next t => decide ((t.ctx (2 ^ 17)).st = .ready ∧ (t.ctx (2 ^ 17)).srctr = 8)
    | _ => false) = true := by decide +kernel

/-! Tasks, gangs and regions. -/

/-- SendChecks: a header for each check, and one that passes. -/
theorem wit_sendChecks :
    let s := plain []
    let code (h : Word) : Option Code := (faultOf (s.sendChecks h)).map (·.code)
    s.priv = false ∧ code (2 ^ 27) = some .taskMsg ∧ code 112 = some .taskTarget ∧ code 0 = some .taskTarget ∧
    code 1 = some .taskPerm ∧
    code (2 ^ 18 + 2 ^ 13) = some .regionClosed ∧ okIs (s.sendChecks (2 ^ 13)) (fun _ => true) = true ∧
    (root []).priv = true ∧ okIs ((root []).sendChecks 0) (fun _ => true) = true := by decide +kernel
/-- TaskSending: a record at 0x140 whose header names core 1 of the tile. -/
def sendRoot : State := (root [(1, 0x140), (7, 0)]).rawStore 0x148 8 (2 ^ 13)
theorem wit_taskSending : sendRoot.settled ∧ sendRoot.me.answer = .none ∧
    okIs (sendRoot.readRecord (sendRoot.xval 1) [0, 1, 2]) (fun x => x.1[1] == 2 ^ 13 && okIs (sendRoot.sendChecks x.1[1]) (fun _ => true) &&
      x.2.cur.id == sendRoot.cur.id && decide (x.2.ctxs = sendRoot.ctxs)) = true ∧
    okIs ((plain []).sendChecks (W (Bits ((plain []).xval 7) 16 32 * 2 ^ 16 + (plain []).myCore))) (fun _ => true) = true :=
  ⟨settled_of (by decide +kernel), by decide +kernel⟩
/-- SendFaults: records and futures at a misaligned address, a header that names a dark core. -/
theorem wit_sendFaults : (∀ ps ∈ [[0, 1, 2], [0, 1]], (faultOf ((root [(1, 0x141)]).readRecord 0x141 ps)).isSome = true) ∧
    (faultOf ((root []).futSite (root []).agent .store 0x141)).isSome = true ∧
    okIs ((sendRoot.rawStore 0x148 8 112).readRecord (sendRoot.xval 1) [0, 1, 2]) (fun x => x.1[1] == 112) = true ∧
    (faultOf (sendRoot.sendChecks 112)).isSome = true := by decide +kernel
/-- MessageSend: 8 bytes from 0x100 to the ring of bank 1, with free slots and with none. -/
theorem wit_messageSend : okIs (memRoot.msendRing (memRoot.xval 3)) (fun x => decide (x = (0, 1))) = true ∧
    (memRoot.xval 1).toNat % 8 = 0 ∧ okIs (memRoot.readBytes (memRoot.xval 1) 1) (fun _ => true) = true ∧
    (let r := memRoot.release memRoot.myCore .mo
     (r.ring 0 1).freeN ≠ 0 ∧ (r.ring 0 1).claims = [] ∧
     ((r.claimNow 0 1).any fun x => okIs (x.2.readBytes (memRoot.xval 1) 1) fun _ => (x.2.ring 0 1).slotsz == 0) = true) ∧
    ((filledRing.release filledRing.myCore .mo).ring 0 1).freeN = 0 := by decide +kernel
/-- GangLaunch: a record of one tile at TID 1, core 0, two helpers; a malformed one; one that leaves the grid; a dark tile;
a full unit. -/
def launchRoot (w1 : Nat) : State := (root [(1, 0x140)]).rawStore 0x148 8 w1
def launchWord (tid wd : Nat) : Nat := tid + wd * 2 ^ 13 + 2 ^ 21 + 2 * 2 ^ 29
theorem wit_gangLaunch :
    let seen (w1 : Nat) : Bool := okIs ((launchRoot w1).readRecord ((launchRoot w1).xval 1) [0, 1])
      fun x => x.1[1] == W w1 && x.1[2] == 0
    let w := W (launchWord 1 0)
    seen (launchWord 1 0) = true ∧ Bits w 35 29 = 0 ∧ Bits w 21 8 ≠ 0 ∧ Bits w 29 4 = 2 ∧ (launchRoot 0).gangCores w ≠ [] ∧
    (launchRoot 0).live (tidOf (tileX 1 + 0) (tileY 1 + 0)) = true ∧ Bits (0 : Word) 21 8 = 0 ∧
    112 < tileX 111 + (Bits (W (launchWord 111 1)) 13 4 + 1) ∧ (launchRoot 0).gangCores (W (launchWord 111 1)) ≠ [] ∧
    State.live { launchRoot 0 with dark := [1] } 1 = false ∧
    32 ≤ (((launchRoot 0).modChip 0 fun c => { c with gangs := List.range 32 }).chip 0).gangs.length := by decide +kernel
/-- Regions: every number taken, and number 0 free; an open region and none. -/
def regionRoot (n : Nat) : State :=
  memRoot.modSpace 0 fun p => { p with regions := (List.range n).map fun i =>
    (i, { closed := false, fut := 0x100, mark := 0, prev := none, colour := 0, ci := 0 }) }
theorem wit_regions :
    (∀ r < 256, (find r ((regionRoot 256).space 0).regions).isSome = true) ∧ (find 0 ((regionRoot 0).space 0).regions).isSome = false ∧
    (find 0 ((regionRoot 1).space 0).regions).isSome = true := by decide +kernel
/-- MessageArrival: a message to tile 1, from TSEND of a parked context, with room and with the space closed; one to resend. -/
def arriving (o : Origin) (due : Option Nat) : State :=
  let m : Msg := { w := (Vector.replicate 8 (0 : Word)).set 1 1 }
  { (root []).modCtx 0 fun c => { c with st := .parked, wait := .send due } with flights := [{ msg := m, org := o, resend := due, tid := 1 }] }
theorem wit_arrival :
    (∃ f, (arriving (.tsend 0) none).flights[(arriving (.tsend 0) none).cur.u]? = some f ∧ f.resend = none ∧ f.tid = 1 ∧
      (arriving (.tsend 0) none).mustFollow 0 f = false ∧ (arriving (.tsend 0) none).forwardOf f.tid f.msg = none ∧
      f.org = .tsend 0) ∧ ((arriving (.tsend 0) none).ctx 0).st = .parked ∧
    ((arriving (.tsend 0) none).core 1).queue.length < 64 ∧ ((arriving (.tsend 0) none).tile 1).ovr = [] ∧
    (((arriving (.once 0) none).modTile 1 fun t => { t with closed := [0] }).tile 1).closed.contains 0 = true ∧
    (∃ f, (arriving (.unit 0) (some 0)).flights[0]? = some f ∧ f.resend = some 0 ∧ 0 ≤ (arriving (.unit 0) (some 0)).fab) :=
  ⟨⟨_, rfl, rfl, rfl, by decide +kernel⟩, by decide +kernel, by decide +kernel, by decide +kernel, by decide +kernel,
    ⟨_, rfl, rfl, Nat.le_refl _⟩⟩
/-- MessageArrival: a core behind whose overflow a message goes, a tile that is frozen, and a full one. -/
theorem wit_overflow :
    let m : Msg := { w := (Vector.replicate 8 (0 : Word)).set 1 1 }
    let s (n : Nat) := (arriving (.tsend 0) none).modTile 1 fun t => { t with ovr := List.replicate n m }
    ¬(((s 1).core 1).queue.length < 64 ∧ ∀ o ∈ ((s 1).tile 1).ovr, Bits o.w[1] 13 3 ≠ 0) ∧ ((s 1).tile 1).ovr.length < 256 ∧
    ((s 1).tile 1).closed.contains 0 = false ∧ 256 ≤ ((s 256).tile 1).ovr.length ∧ ((s 256).tile 1).frozen.contains 0 = false ∧
    (((arriving (.once 0) none).modTile 1 fun t => { t with frozen := [0] }).tile 1).frozen.contains 0 = true := by decide +kernel
/-- MessageArrival: a fault message that waits at its origin. -/
theorem wit_faultResend : let s := (root []).modChip 0 fun c => { c with fwait := [({}, 0)] }
    (s.chip s.cur.u).fwait = [({}, 0)] ∧ 0 ≤ s.fab ∧ (s.chip 0).fq.length < 64 := by decide +kernel
/-- TaskStart: core 1 of tile 0 with a message to 0x4000 in its queue; its line is a target. -/
def startMsg : Msg := { w := ((Vector.replicate 8 (0 : Word)).set 0 0x4000).set 1 0x2000 }
def startRoot : State :=
  let s := plain []
  { s with ctxs := [], cores := [(2 ^ 13, { s.core (2 ^ 13) with queue := [startMsg] })], cur := { u := 2 ^ 13 } }
theorem wit_taskStart :
    startRoot.live (idTid (2 ^ 13)) = true ∧ startRoot.isSuper (2 ^ 13) = false ∧ (startRoot.ctx (ctxOn (2 ^ 13) 0)).st = .free ∧
    (startRoot.core (2 ^ 13)).drain = none ∧ (startRoot.core (2 ^ 13)).qrest = [] ∧ (startRoot.core (2 ^ 13)).queue = [startMsg] ∧
    (startRoot.space 0).susp = false ∧ (startRoot.tile 0).frozen = [] ∧ startMsg.kind = .task ∧ (startRoot.space 0).prof.isSome = true ∧
    startMsg.nfm = startRoot.profNfm startMsg.asid ∧
    (let b := startRoot.startBanks (2 ^ 13) startMsg.w[0]
     okIs (((b.setCtx (ctxOn (2 ^ 13) 0) (b.taskCtx (2 ^ 13) startMsg)).acquire (2 ^ 13) .mo).legal (2 ^ 13) startMsg.asid startMsg.w[0] 0)
       (fun _ => true)) = true := by decide +kernel
/-- TaskStart: an unbound ASID; a message of another NFM; an entry that is no target. -/
theorem wit_taskFaults :
    ((startRoot.modSpace 0 fun p => { p with prof := none }).space startMsg.asid.toNat).prof = none ∧
    (true ≠ startRoot.profNfm startMsg.asid) ∧
    (let m : Msg := { startMsg with w := startMsg.w.set 0 0x4001 }
     let b := startRoot.startBanks (2 ^ 13) m.w[0]
     let q := (b.setCtx (ctxOn (2 ^ 13) 0) (b.taskCtx (2 ^ 13) m)).acquire (2 ^ 13) .mo
     (faultOf (q.legal (2 ^ 13) m.asid m.w[0] 0)).map (·.code) = some .illegalTarget ∧
       q.pagerFor (ctxOn (2 ^ 13) 0) { code := .illegalTarget, info := 0x4001 } = none) := by decide +kernel
/-- GangAdmission: a gang on core 1 of tile 0 at the head of its unit, with helpers enough, and with none free, before the
50 microseconds are over. -/
def aGang : Gang :=
  { w := ((Vector.replicate 8 (0 : Word)).set 0 0x4000).set 1 (W (2 ^ 22 + 2 * 2 ^ 29)), asid := 0, colour := 0, fut := none,
    ci := 0, arr := 0, tries := 0, admitted := false, live := [], total := 0, origin := 0 }
def gangState : State := { (plain []).modChip 0 fun c => { c with gangs := [0] } with gangs := [(0, aGang)], cur := {} }
theorem wit_gangAdmission : find 0 gangState.gangs = some aGang ∧ aGang.arr + aGang.tries * 2000 ≤ gangState.fab ∧
    gangState.gangWaits 0 aGang = false ∧ gangState.fab < aGang.arr + 100000 ∧
    (∀ c ∈ gangState.gangCores aGang.w[1], 2 ≤ (gangState.gangFree c 0).length ∧ gangState.halts (idTid c) aGang.asid = false) ∧
    (let s := { gangState with ctxs := (List.range 11).map fun c => (ctxOn (2 ^ 13) c, (plain []).me) }
     ¬∀ c ∈ s.gangCores aGang.w[1], 2 ≤ (s.gangFree c 0).length) ∧
    (let s := { gangState with ctxs := (List.range 11).map fun c => (ctxOn (2 ^ 13) c, (plain []).me), fab := 200000 }
     aGang.arr + 100000 ≤ s.fab ∧ s.gangWaits 0 aGang = false ∧ ¬∀ c ∈ s.gangCores aGang.w[1], 2 ≤ (s.gangFree c 0).length) ∧
    okIs (gangState.legal (2 ^ 13) 0 aGang.w[0] 0) (fun _ => true) = true := by decide +kernel
/-- GleanerWave: one region, closed and quiet, and one that is open. -/
theorem wit_gleaner :
    let r : Region := { closed := true, fut := 0x100, mark := 0, prev := some (1, 0, 0), colour := 0, ci := 0 }
    let s := { (root []).modSpace 0 fun p => { p with regions := [(0, r)] } with waves := 1, fab := 16000 }
    8000 * (s.waves + 1) ≤ s.fab ∧ (root []).fab < 8000 * ((root []).waves + 1) ∧
    (s.space 0).regions = [(0, r)] ∧ s.spaces = [(0, s.space 0)] ∧ (s.regionTotals 0 0).1 = (s.regionTotals 0 0).2 ∧
    r.mark + 1 < s.waves + 1 ∧ r.prev = some (s.waves, (s.regionTotals 0 0).1, (s.regionTotals 0 0).2) := by decide +kernel

/-! Formats and jobs. -/

/-- x1 names the 64 bytes at 0x140 of memory, which hold d; x2 is 0. -/
def descRoot (d : Nat) : State := (root [(1, 0x140), (3, 0x1000_0000_0002_0000)]).rawStore 0x140 64 d
theorem desc_settled (d : Nat) : (descRoot d).settled := ⟨rfl, rfl⟩

/-- An EPI job of one row and column from 0x100 to 0x200, ft1 to ft0, its record at 0x300 with scope ti. -/
def epiDesc : Nat := 0x100 + 0x200 * 2 ^ 128 + 0x310 * 2 ^ 192 + 2 ^ 339
def epiEnts : List Snap := [{ e := fixedEntry 1 }, {}, {}, { e := fixedEntry 0 }]
def epiJob (st : JobSt) (left : Option Nat) : Job :=
  { st := st, kind := .epi, desc := BitVec.ofNat 512 epiDesc, asid := 0, cls := 1, colour := 0, sub := 0, ents := epiEnts, orm := 0,
    seq := 0, deps := [], fut := none, beats := 0, pos := 0, left := left, stop := none, ovr := false, arc := none,
    acc := [] }
def jobRoot (j : Job) : State := (descRoot epiDesc).modTile 0 fun t => { t with jobs := [(0, { gen := 1, job := some j })] }

/-- JobSubmission: a kind of another tile, a descriptor with a breach, and one that is admitted. -/
theorem wit_submission : (descRoot epiDesc).settled ∧ kindOk (tileKind 0) .attn = false ∧ kindOk (tileKind 0) .epi = true ∧
    (descRoot epiDesc).descBad 0 0 .epi 0 4 = some 196 ∧ (descRoot epiDesc).me.bind = none ∧
    okIs ((descRoot epiDesc).readDesc ((descRoot epiDesc).xval 1)) (fun x => x.1.toNat == epiDesc &&
      (descRoot epiDesc).descBad 0 0 .epi x.1 ((descRoot epiDesc).foBytes .epi x.1) == none &&
      okIs ((descRoot epiDesc).snapJob .epi x.1) (fun e => decide ((descRoot epiDesc).resolveOrm .epi x.1 e < 5)) &&
      okIs (x.2.jobTargets 0 0 x.1) fun y => y.1 == none && (y.2.release y.2.myCore .ti).freeJob 0 == some 0) = true ∧
    epiDesc / 2 ^ 424 % 2 ^ 80 = 0 := ⟨⟨rfl, rfl⟩, by decide +kernel⟩
/-- JobSubmission: a misplaced descriptor; a format that is refused and a record that cannot be stored; a bound job that is
admitted and one of a kind that is not; a rounding mode of 6. -/
def boundRoot (d : Nat) : State := (descRoot d).modMe fun c => { c with bind := some { ent := 2, desc := List.replicate 8 0, tft := 0, tsc := 0 } }
theorem wit_submission2 :
    (faultOf ((descRoot epiDesc).readDesc 0x141)).isSome = true ∧
    (faultOf (scaledRoot.snapJob .epi (BitVec.ofNat 512 (epiDesc + 8 * 2 ^ 344)))).isSome = true ∧
    (faultOf ((descRoot epiDesc).jobTargets 0 0 (BitVec.ofNat 512 (epiDesc + 5 * 2 ^ 252)))).isSome = true ∧
    (boundRoot epiDesc).me.bind.isSome = true ∧ (boundRoot epiDesc).arcBreach .epi (BitVec.ofNat 512 epiDesc) = none ∧
    (boundRoot epiDesc).arcBreach .bload (BitVec.ofNat 512 epiDesc) = some (512 + kindNum .bload) ∧
    5 ≤ ((descRoot epiDesc).modMe fun c => { c with rm := 6 }).resolveOrm .epi (BitVec.ofNat 512 (epiDesc + 7 * 2 ^ 349))
      [{}, {}, {}, { e := fixedEntry 0 ||| BitVec.ofNat 128 (7 * 2 ^ 48) }] := by decide +kernel
/-- R376: a bound EPI job is tagged with its entry, which counts it, and the bind is consumed. -/
theorem test_boundJob : (match exec (.mjob 9 1 1 .epi) (boundRoot epiDesc) with
    | .next t => (t.ctx 0).bind.isNone && (((t.tile 0).slot 0).job.bind (·.arc)).map (·.ent) == some 2 &&
        (getD ({} : Arc) (t.tile 0).eng.arcs 2).busy == 1
    | _ => false) = true := by decide +kernel
/-- RemoteJobs: a request to the own tile; one whose capability holds and one whose does not. -/
def capWord : Nat := 7 * 2 ^ 36
def remote (cap : Word) : State := { descRoot epiDesc with rjobs :=
  [{ id := 0, tid := 0, kind := .epi, desc := BitVec.ofNat 512 epiDesc, ents := epiEnts, orm := 0, cap := cap, cls := 0, colour := 0, sub := 0 }] }
theorem wit_remote : ((descRoot 0).xval (xnext 1)).toNat / 2 ^ 13 = 0 ∧ (descRoot 0).live ((descRoot 0).xval (xnext 1)).toNat = true ∧
    (∃ r, (remote 0).rjobs[(remote 0).cur.u]? = some r ∧ (remote 0).capOk r.cap r.tid r.kind = false) ∧
    (let c := W (capWord + icg 0 capWord 0 % 2 ^ 24 * 2 ^ 40)
     let s := remote c
     let t : State := { ((s.uninject (idTid 0) 0).dlv 0 0) with rjobs := dropNth s.rjobs 0 }
     (s.rjobs[0]?).any (fun r => okIs ((t.workFor r.sub r.colour).admitRemote r) fun _ => true) = true) :=
  ⟨by decide +kernel, by decide +kernel, ⟨_, rfl, by decide +kernel⟩, by decide +kernel⟩
/-- JobControl: ids of a live job, of one that is over, and of one that the table has forgotten. -/
theorem wit_jobControl :
    let s := (jobRoot (epiJob .ready none)).modTile 0 fun t => { t with jobs := put 1 { gen := 2, mgen := 2 } t.jobs }
    okIs (s.jobId 1) (fun x => decide (x = (0, 1)) && ((s.tile 0).slot 0).job.isSome && ((s.tile 0).slot 0).gen == 1) = true ∧
    okIs (s.jobId (W (2 ^ 10 + 2))) (fun x => decide (x = (1, 2)) && ((s.tile 0).slot 1).job.isNone && ((s.tile 0).slot 1).mgen == 2) = true ∧
    okIs (s.jobId (W (2 ^ 10 + 1))) (fun x => decide (x = (1, 1))) = true ∧ ((s.tile 0).slot 1).mgen ≠ 1 := by decide +kernel
/-- JobQueries: TOPKRD on a D tile, with no entry and with one. -/
theorem wit_topk : tileKind 0 = .d ∧ (root []).topkPending 0 = false ∧ ((root []).tile 0).topk.asid = none ∧
    (getD [] ((root []).tile 0).topk.rows 0)[0]? = none ∧ ((jobRoot (epiJob .ready none)).tile 0).topk.asid = none ∧
    (getD [] (({ rows := [(0, [{ key := 1, raw := 2, col := 3 }])] } : TopK).rows) 0)[0]? = some { key := 1, raw := 2, col := 3 } := by
  decide +kernel
/-- JobOrder: two READY jobs, of which the one admitted first issues. -/
theorem wit_jobOrder :
    let s := (descRoot epiDesc).modTile 0 fun t => { t with jobs := [(0, { gen := 1, job := some { epiJob .ready none with seq := 5 } }),
      (1, { gen := 1, job := some { epiJob .ready none with seq := 3 } })] }
    s.issuable 0 = some (1, { epiJob .ready none with seq := 3 }) := by decide +kernel
/-- JobExecution: a READY job to issue; a beat with too little in the bucket and with enough; a unit to perform. -/
theorem wit_execution :
    let s := jobRoot (epiJob .ready none)
    let t := (jobRoot (epiJob .running (some 1))).modEng 0 fun e => { e with bucket := 1 }
    let u := jobRoot (epiJob .running (some 0))
    (s.refreshJobs s.cur.u).issuable s.cur.u = some (0, epiJob .ready none) ∧ epiDesc / 2 ^ 387 % 2 ^ 4 = 0 ∧
    (s.refreshJobs s.cur.u).halts s.cur.u 0 = false ∧
    (t.jobsOf t.cur.u).find? (fun e => e.2.st == .running && !e.2.ovr) = some (0, epiJob .running (some 1)) ∧ t.mayBeat 0 = true ∧
    max (epiJob .ready none).cls (kindClass .epi) ≤ min (t.tile 0).eng.bucket (8 * t.gateH 0 + 64) ∧
    (t.tile 0).eng.aclk < 64 * ((t.tile 0).eng.period + 1) ∧
    (u.tile 0).eng.bucket < max (epiJob .ready none).cls (kindClass .epi) ∧
    okIs (State.performUnit u.cur.u (epiJob .running (some 0)) (u.workFor 0 0)) (fun _ => true) = true := by decide +kernel
/-- JobCompletion: a job that is over, whose record goes to 0x300. -/
theorem wit_completion :
    let j : Job := { epiJob .running none with ovr := true }
    let s := jobRoot j
    ((s.tile s.cur.u).slot s.cur.v).job = some j ∧
    okIs ((s.workFor j.sub j.colour).store { tid := s.cur.u, core := none, asid := 0, eng := true } (W (j.desc.toNat / 2 ^ 198 % 2 ^ 58 * 2 ^ 6)) 32
      (1 + kindNum j.kind * 2 ^ 16))
      (fun x => x.1 == none && decide ((x.2.tile 0).slot 0 = (s.tile 0).slot 0)) = true := by decide +kernel
/-- DotProduct. -/
theorem wit_dot : ∃ a b : Chunk, a.spec = false ∧ b.spec = false ∧ a.xs.length = b.xs.length ∧
    (List.zipWith (· * ·) a.xs b.xs).sum ≠ 0 :=
  ⟨{ xs := [3], q := 0, spec := false }, { xs := [4], q := 0, spec := false }, rfl, rfl, rfl, by decide⟩

/-! Handles and bins. -/

/-- 14, worked example: matrix A, its handle at 0x140, its positions at 0x400, its bitmap at 0x440 and its values at 0x480. -/
def handleA : Nat := 0x0007_0001_0000_0681 + 5 * 2 ^ 64 + 0x400 * 2 ^ 256 + 0x440 * 2 ^ 320 + 0x480 * 2 ^ 384
def matrixA (i j : Word) : State :=
  let s := (root [(1, 0x140), (20, i), (21, j)]).rawStore 0x140 64 handleA
  let s := (s.rawStore 0x400 16 (3 * 2 ^ 32 + 5 * 2 ^ 64)).rawStore 0x440 16 (0x4A + 0x81 * 2 ^ 64)
  (s.rawStore 0x480 8 0x0C_0307_FE05).modCtx 0 fun c => { c with h := c.h.set 3 (BitVec.ofNat 512 handleA) }
/-- The worked accesses: HLD at (1, 7) and (0, 2), HNEXT at 2. -/
theorem test_handles :
    (ranFrom (matrixA 1 7) (.hld 9 20 21 2 3)).x[9] = 0xC ∧ (ranFrom (matrixA 1 7) (.hld 9 20 21 2 3)).p[2] = true ∧
    (ranFrom (matrixA 0 2) (.hld 9 20 21 2 3)).x[9] = 0 ∧ (ranFrom (matrixA 0 2) (.hld 9 20 21 2 3)).p[2] = false ∧
    (ranFrom (matrixA 2 0) (.hnext 8 20 2 3)).x[8] = 7 ∧ (ranFrom (matrixA 2 0) (.hnext 8 20 2 3)).x[9] = 6 := by decide +kernel
/-- TensorHandles: HSET of A and of a handle with a breach; a dense handle of two rows of eight int8 values; an element of A
that is not stored. -/
def denseRoot (i j : Word) : State := (matrixA i j).modCtx 0 fun c =>
  { c with h := c.h.set 3 (BitVec.ofNat 512 (0x0007_0001_0000_0601 + 16 * 2 ^ 64 + 0x480 * 2 ^ 384)) }
theorem wit_handles :
    okIs ((matrixA 0 0).load (matrixA 0 0).agent ((matrixA 0 0).xval 1) 64) (fun x => x.1 == handleA && x.2.1 == none &&
      (handleBad (BitVec.ofNat 512 x.1) 1).isNone) = true ∧
    (handleBad (BitVec.ofNat 512 (handleA + 2 ^ 13)) 1).isSome = true ∧
    (let w := (denseRoot 1 7).me.h.get 3
     w.toNat % 2 ^ 4 ≠ 0 ∧ w.toNat / 2 ^ 4 % 2 ^ 2 = 0 ∧ w.toNat / 2 ^ 6 % 2 ^ 2 = 0 ∧ w.toNat / 2 ^ 32 % 2 ^ 16 + 1 = 2 ∧
     okIs ((denseRoot 1 7).handleEntry w) (fun f => f.cbytes == 1) = true) ∧
    okIs ((denseRoot 1 7).loadHeld (denseRoot 1 7).agent 0x48F 1) (fun _ => true) = true ∧
    okIs ((denseRoot 1 7).storeHeld (denseRoot 1 7).agent 0x48F 1 0) (fun _ => true) = true ∧
    okIs ((matrixA 0 2).elementAt 3 20 21) (fun x => x.1 == none) = true := by decide +kernel
/-- Bins: a bin set of one region of 16 entries at 0x400 with its counter at 0x600, in use and not; its region open, closed,
full, and with a claimed entry still to be written, or lost. -/
def binDesc : Nat := 0x400 + 0x600 * 2 ^ 64 + (4 * 2 ^ 20 + 2 ^ 25 + 2 ^ 30) * 2 ^ 128
def aSlot : BinSlot := { asid := 0, desc := BitVec.ofNat 512 binDesc, fe := { e := fixedEntry 1 }, fe2 := { e := fixedEntry 1 }, nfm := false }
def binRoot (cnt : Nat) (runs : List BinRun) : State :=
  ((descRoot binDesc).rawStore 0x600 8 cnt).modEng 0 fun e => { e with bins := [(0, aSlot)], runs := runs, bucket := 9 }
def aRun (n : Nat) : BinRun := { id := 0, slot := 0, region := 0, cells := 0, clr := false, n := n, cls := 1, beats := 0 }
theorem wit_bins : (binRoot 0 []).atPeer (binRoot 0 []).agent .load ((binRoot 0 []).xval 1) = false ∧
    binBad (BitVec.ofNat 512 binDesc) = none ∧ (binBad (BitVec.ofNat 512 (binDesc + 1))).isSome = true ∧
    okIs ((binRoot 0 []).loadHeld (binRoot 0 []).agent ((binRoot 0 []).xval 1) 64) (fun x => x.1 == binDesc) = true ∧
    okIs ((binRoot 0 []).binEntry (binFe (BitVec.ofNat 512 binDesc))) (fun _ => true) = true ∧
    okIs ((binRoot 0 []).binEntry (binFe2 (BitVec.ofNat 512 binDesc))) (fun _ => true) = true ∧
    (binRoot 0 []).binBusy 0 0 = false ∧ (binRoot 0 [aRun 0]).binBusy 0 0 = true ∧
    okIs ((binRoot 0 []).binOf 0) (fun b => decide (b = aSlot)) = true ∧ ((binRoot 0 []).xval 2).toNat < binElems aSlot.desc ∧
    (let seen (c : Nat) : Bool := okIs ((binRoot c []).binSite (binRoot c []).agent (binCnt aSlot.desc + W (8 * 0)) 8)
       fun x => x.2.rawLoad x.1 8 == c && okIs ((x.2.rawStore x.1 8 (c + 1)).binSite (binRoot c []).agent
         (binBase aSlot.desc + W ((0 * 16 + c % 16) * 16)) 16) fun _ => true
     seen 0 = true ∧ seen (2 ^ 63) = true ∧ seen 16 = true ∧ binCap aSlot.desc = 16) := by decide +kernel
/-- BinFaults: a descriptor in a peer's aperture. -/
theorem wit_binPeer : (peerRoot 1).atPeer (peerRoot 1).agent .load ((peerRoot 1).addrOf (opAt 5)) = true ∧
    ((peerRoot 1).addrOf (opAt 5)).toNat % 64 = 0 := by decide +kernel
/-- BinFaults and Bins: a slot of another ASID and none; an index and a region past the last; cells in memory; an entry whose
write faults. -/
theorem wit_binFaults : (binRoot 0 []).settled ∧ (binRoot 0 []).relGate = .ok () ∧
    (faultOf ((binRoot 0 []).binOf 1)).isSome = true ∧ { aSlot with asid := 5 }.asid ≠ (binRoot 0 []).myAsid ∧
    binElems aSlot.desc ≤ (W (2 ^ 40)).toNat ∧ binNreg aSlot.desc < (W (2 ^ 40)).toNat ∧
    (faultOf ((binRoot 0 []).binCells 0x400 (64 * 2 ^ binRs aSlot.desc))).isSome = true ∧
    (faultOf ((binRoot 0 []).binSite (binRoot 0 []).agent 0x5000_0000_0000_0000 16)).isSome = true ∧
    ((binRoot 0 []).answer 0 (.flt { code := .binIndex, info := 0 })).me.answer = .flt { code := .binIndex, info := 0 } ∧
    (∃ tid, tileKind tid ≠ .s) ∧ ∃ tid, tileKind tid = .s := by
  refine ⟨⟨rfl, rfl⟩, ?_, by decide +kernel, by decide +kernel, by decide +kernel, by decide +kernel, by decide +kernel,
    by decide +kernel, by decide +kernel, ⟨0, by decide +kernel⟩, ?_⟩
  · obtain ⟨u, h⟩ := okOf (show okIs (binRoot 0 []).relGate (fun _ => true) = true by decide +kernel)
    exact h
  · exact ⟨3, by decide +kernel⟩
/-- BinReplay: a replay with entries to be written, with a beat that passes and one that does not, with a cell to zero, an
entry to apply and none left, and of a region that lost an entry. -/
theorem wit_binReplay :
    let ag : Agent := { tid := 0, core := none, asid := 0, eng := true }
    let site (s : State) (r : BinRun) (p : Nat → State → Bool) : Bool := s.cur.u == 0 && s.cur.v == 0 &&
      ((s.tile 0).eng.runs[0]?) == some r && (find 0 (s.tile 0).eng.bins) == some aSlot &&
      okIs ((s.workFor r.id r.colour).binSite ag (binCnt aSlot.desc + W (8 * 0)) 8) fun x => p (x.2.rawLoad x.1 8) (x.2.engAcquire 0 .mo)
    let ready : Nat := 2 ^ 24 + 1
    let goes (c : Nat) : Bool := c / 2 ^ 24 % 2 ^ 24 == 1 && c / 2 ^ 62 % 2 == 0
    site (binRoot 1 [aRun 1]) (aRun 1) (fun c _ => c / 2 ^ 24 % 2 ^ 24 != 1) = true ∧
    site (binRoot (2 ^ 62 + 1) [aRun 1]) (aRun 1) (fun c _ => c / 2 ^ 62 % 2 == 1) = true ∧
    site (binRoot ready [aRun 1]) (aRun 1) (fun c t => goes c && (t.gateBeat 0 0 1).isSome) = true ∧
    site ((binRoot ready [aRun 1]).modEng 0 fun e => { e with bucket := 0 }) (aRun 1)
      (fun c t => goes c && (t.gateBeat 0 0 1).isNone) = true ∧
    (let r := { aRun 1 with beats := 1, clr := true }
     site (binRoot ready [r]) r (fun c t => goes c && okIs (t.storeHeld ag (r.cells + W (64 * 0)) 64 0) fun _ => true) = true ∧
     0 < 2 ^ binRs aSlot.desc) ∧
    (let r := { aRun 1 with beats := 1 }
     site (binRoot ready [r]) r (fun c t => goes c && okIs (t.loadHeld ag (binBase aSlot.desc + W ((0 * binCap aSlot.desc + 0) * 16)) 16)
       fun e => okIs (e.2.loadHeld ag (r.cells + W (64 * (e.1 % 2 ^ 40 % 2 ^ binRs aSlot.desc))) 64) fun o =>
         okIs (o.2.storeHeld ag (r.cells + W (64 * (e.1 % 2 ^ 40 % 2 ^ binRs aSlot.desc))) 64
           (cellAdd o.1 (binContribution aSlot (e.1 % 2 ^ 64) (e.1 / 2 ^ 64)))) fun _ => true) = true) ∧
    (let r := { aRun 1 with beats := 1, applied := 1 }
     site (binRoot ready [r]) r (fun c _ => goes c) = true) := by decide +kernel
/-- The state of `root` on another tile. -/
def onTile (tid : Nat) (s : State) : State :=
  { s with ctxs := [(tid, s.ctx 0)], cores := [(tid, s.core 0)], tiles := [(tid, s.tile 0)], cur := { s.cur with id := tid } }
/-- Bins: BINRUN on a tile with a sparse engine, its cells in bank 0; the region open and closed. -/
def sparseRoot (cnt : Nat) : State :=
  let s := onTile 3 (binRoot cnt [])
  s.modCtx 3 fun c => { c with x := c.x.set 1 0x1000_0000_0000_0000 }
theorem wit_binrun : (sparseRoot 0).settled ∧ (sparseRoot 0).me.answer = .none ∧ tileKind (sparseRoot 0).myTid = .s ∧
    okIs ((sparseRoot 0).binOf 0) (fun b => decide (b = aSlot)) = true ∧ ((sparseRoot 0).xval 2).toNat ≤ binNreg aSlot.desc ∧
    okIs ((sparseRoot 0).binCells ((sparseRoot 0).xval 1) (64 * 2 ^ binRs aSlot.desc)) (fun _ => true) = true ∧
    (let seen (c : Nat) : Bool := okIs (((sparseRoot c).release (sparseRoot c).myCore .ti).binSite
        { tid := 3, core := none, asid := 0, eng := true } (binCnt aSlot.desc + W (8 * 0)) 8) fun x => x.2.rawLoad x.1 8 == c
     seen 0 = true ∧ seen (2 ^ 63) = true) := ⟨settled_of (by decide +kernel), by decide +kernel⟩

/-! Copies, windows, streams, colours and format windows. -/

/-- 64 bytes from 0x400 of memory to byte 0x400 of bank 0, the record at 0x300; the same with no scope. -/
def copyDesc : Nat := 0x400 + 0x1000_0000_0000_0400 * 2 ^ 64 + 63 * 2 ^ 128 + 0x310 * 2 ^ 320
def aCopy (run : Bool) (pos : Nat) : Copy :=
  { ent := 0, desc := BitVec.ofNat 512 copyDesc, asid := 0, colour := 0, sub := 0, ready := true, run := run, pos := pos }
def copyRoot (q : List Copy) (live : Bool) : State := (descRoot copyDesc).modEng 0 fun e =>
  { e with chans := [(0, { queue := q, ents := (List.range 8).map fun i => (i, { gen := 1, live := live, mgen := 1 }) })] }
/-- Copies: a breach; a channel with a free entry and a full one; a copy to start, to move and to complete. -/
theorem wit_copies :
    (let s := descRoot copyDesc
     okIs (s.readDesc (s.xval 1)) (fun x => s.copyBad 0 0 x.1 == none &&
       okIs (x.2.recTargets 0 0 (cRec x.1) (cFut x.1)) fun y => y.1 == none) = true ∧ s.copyBad 0 0 0 = some 324 ∧
     (getD {} (s.chan 0 0).ents 0).live = false) ∧
    (∀ e < 8, (getD {} ((copyRoot [aCopy false 0] true).chan 0 0).ents e).live = true) ∧
    (let s := copyRoot [aCopy false 0] true
     ((s.refreshJobs 0).chan s.cur.u s.cur.v).queue = [aCopy false 0] ∧ (s.refreshJobs 0).halts 0 0 = false) ∧
    (let s := copyRoot [aCopy true 0] true
     (aCopy true 0).pos < State.copyTotal (aCopy true 0).desc ∧
     okIs ((s.workFor 0 0).copyRead 0 (aCopy true 0) (copyChunk (aCopy true 0).desc 0)) (fun x =>
       okIs (x.2.copyWrite 0 (aCopy true 0) (copyChunk (aCopy true 0).desc 0) x.1) fun _ => true) = true) ∧
    (let s := copyRoot [aCopy true 64] true
     (aCopy true 64).pos = State.copyTotal (aCopy true 64).desc ∧
     okIs (((s.workFor 0 0).setHead 0 0 (aCopy true 64)).store { tid := 0, core := none, asid := 0, eng := true }
       (cRec (aCopy true 64).desc) 32 (copyId (s.chan 0 0) 0 0 + 0x3F * 2 ^ 16 + 64 * 2 ^ 192))
       (fun x => x.1 == none && (x.2.tile 0).eng.wins.isEmpty) = true) := by decide +kernel
/-- Windows: a breach, and a window that is free, in use, and filling. -/
def winDesc : Nat := 0x1000_0000_0000_0400 + 0x400 * 2 ^ 64
def winRoot (st : WinSt) : State := (descRoot winDesc).modEng 0 fun e =>
  { e with wins := if st = .free then [] else [(0, { st := st, desc := BitVec.ofNat 256 winDesc })] }
theorem wit_windows :
    (let s := winRoot .free
     okIs (s.loadHeld s.agent (s.xval 1) 32) (fun x => x.1 == winDesc) = true ∧ s.winBad 0 0 (BitVec.ofNat 256 winDesc) = none ∧
     (s.winBad 0 0 0).isSome = true ∧ (getD ({} : Window) (s.tile 0).eng.wins 0).st = .free) ∧
    (getD ({} : Window) ((winRoot .present).tile 0).eng.wins 0).st = .present ∧
    (getD ({} : Window) ((winRoot .filling).tile 0).eng.wins 0).st = .filling := by decide +kernel
/-- CopyFaults: descriptors at a misaligned address, a future at one, and a window of another address space. -/
theorem wit_copyFaults :
    (let s := descRoot copyDesc
     (faultOf (s.readDesc 0x141)).isSome = true ∧ (faultOf (s.loadHeld s.agent 0x141 32)).isSome = true ∧
     okIs (s.readDesc (s.xval 1)) (fun x => (faultOf (x.2.recTargets 0 0 (cRec x.1) 0x141)).isSome) = true) ∧
    (let s := (winRoot .free).modEng 0 fun e => { e with wins := [(0, { st := .present, asid := 5 })] }
     (getD ({} : Window) (s.tile 0).eng.wins 0).asid ≠ s.myAsid) ∧ ((descRoot 0).xval 2).toNat % 2 ^ 10 = 0 := by decide +kernel
/-- IntegerAtomics, CellAtomics and MonitorWait: a home with a fault, which is a byte of a FAILED window; a misaligned
operand; a scaled entry. -/
def failedRoot : State := (winRoot .failed).modCtx 0 fun c =>
  { c with x := (c.x.set 5 0x1000_0000_0000_0400).set 6 0x101 }
theorem wit_atomicFaults :
    (∀ k ∈ [AccKind.rdwr, .store, .load], okIs (failedRoot.atomSite k (failedRoot.cellOf ⟨5, 0⟩) 8 .mo) (fun x => x.1.flt.isSome) = true ∧
      okIs (failedRoot.atomSite k (failedRoot.cellOf ⟨5, 0⟩) 64 .mo) (fun x => x.1.flt.isSome) = true ∧
      (faultOf (failedRoot.atomSite k (failedRoot.cellOf ⟨6, 0⟩) 8 .mo)).isSome = true) ∧
    okIs (scaledRoot.useEntry 8) (fun f => f.blk != 0) = true := by decide +kernel
/-- R339, R82: an AMO on a FAILED window leaves the bank and brings WIN_FAULT with its result. -/
theorem test_amoWindow : (match exec (.amo 3 1 ⟨5, 0⟩ .add 3 .mo .plain) failedRoot with
    | .next t => ((t.ctx 0).pend.map fun e => e.flt.map (·.code)) == [some .winFault] && decide ((t.tile 0).banks = (failedRoot.tile 0).banks)
    | _ => false) = true := by decide +kernel
/-- Windows: WMARK of a channel without a watermark, and of one whose mark lies below and at a level; a live copy and one
that is over. -/
theorem wit_marks :
    let y : Copy := { aCopy true 0 with desc := BitVec.ofNat 512 (copyDesc + 2 ^ 448) }
    ((copyRoot [] false).chan 0 0).queue.find? copyWmon = none ∧ ((copyRoot [y] true).chan 0 0).queue.find? copyWmon = some y ∧
    (copyMark y).toNat = 0x1000_0000_0000_03FF ∧ (copyRoot [y] true).copyLive 0 1 = true ∧ (copyRoot [] false).copyLive 0 1 = false ∧
    (getD ({} : CopyDone) ((copyRoot [] false).chan 0 0).ents 0).mgen = 1 ∧ (getD ({} : CopyDone) ((copyRoot [] false).chan 0 0).ents 1).mgen ≠ 2 := by
  decide +kernel
/-- Streams: one tile of 64 bytes at 0x400 through the ring of bank 1; a breach; the steps of a stream; an id. -/
def subDesc : Nat := 0x400 + 0x1000_0000_0002_0000 * 2 ^ 64 + 0x310 * 2 ^ 320
def aSub (slot : Option Nat) : Sub := { gen := 1, live := true, desc := BitVec.ofNat 512 subDesc, slot := slot }
def subRoot (slot : Option Nat) : State := (descRoot subDesc).setSub 0 0 (aSub slot)
theorem wit_streams :
    (let s := descRoot subDesc
     okIs (s.readDesc (s.xval 1)) (fun x => subBad x.1 == none && okIs (s.ringBase (subRing x.1)) (fun y => decide (y = (0, 1)) &&
         decide (64 * subLines x.1 ≤ 64 * 2 ^ (s.ring 0 1).slotsz)) &&
       okIs (x.2.recTargets 0 0 (cRec x.1) (cFut x.1)) fun y => y.1 == none && okIs (y.2.subCheck 0 0 x.1) fun t =>
         okIs (t.resolve { tid := 0, core := none, asid := 0, eng := true } .load (subTile x.1 0) 64) fun z =>
           decide (z.1 = .mem 0x400) && !((t.release 0 .mo).sub (quarryOf 0x400) 0).live) = true) ∧
    (subBad 1).isSome = true ∧
    (let s := subRoot none
     (s.sub s.cur.u s.cur.v).live = true ∧ s.halts 0 0 = false ∧ s.subRingOk (aSub none) = true ∧
     okIs (s.subPlaces 0 0 (aSub none).desc 0) (fun x => x.1 == [0x10]) = true ∧ (aSub none).t ≠ subTiles (aSub none).desc) ∧
    ((subRoot (some 0)).sub 0 0).slot = some 0 ∧ W (0 + 0 * 2 ^ 6 + 1 * 2 ^ 14) = 0x4000 ∧ ((root []).sub 0 0).live = false := by
  decide +kernel
/-- ColoursAndFormatWindows: a profile whose mask holds colour 3 alone; a window descriptor with ft1 on both sides. -/
def fwinDesc : Nat := (fixedEntry 1).toNat * 2 ^ 128 + (fixedEntry 1).toNat * 2 ^ 256 + 2 ^ 384
theorem wit_colours :
    (let s := (root []).modSpace 0 fun p => { p with prof := some (BitVec.ofNat 4096 (2 ^ 131)) }
     s.profField s.myAsid (128 + 3) 1 = 1 ∧ s.profField s.myAsid (128 + 2) 1 = 0) ∧
    (descRoot fwinDesc).priv = true ∧
    okIs ((descRoot fwinDesc).loadHeld (descRoot fwinDesc).agent ((descRoot fwinDesc).xval 1) 64) (fun x => x.1 == fwinDesc) = true ∧
    fwinDesc < 2 ^ 512 ∧ BitVec.ofNat 128 (fwinDesc / 2 ^ 128) = fixedEntry 1 ∧ BitVec.ofNat 128 (fwinDesc / 2 ^ 256) = fixedEntry 1 ∧
    entryCheckOwn (fixedEntry 1) = none ∧ fwinRefuses (fixedEntry 1) = false ∧ fwinDesc % 2 ^ 12 = 0 ∧
    fwinDesc / 2 ^ 57 % 2 ^ 19 = 0 ∧ fwinDesc / 2 ^ 121 % 2 ^ 7 = 0 ∧ fwinDesc / 2 ^ 385 = 0 := by decide +kernel

/-! The expert chain. -/

/-- One expert on tile 0, one token, ft4 throughout but a record at 0x300, over the V tile (0, 2). -/
def lcb : Nat := 2 ^ 8 + 4 * 2 ^ 48 + 4 * 2 ^ 53 + (4 + 256 * 2 ^ 17) * 2 ^ 64 + 0x310 * 2 ^ 832
def chainRoot : State :=
  let s := (root [(1, 0x1000), (2, 0x100 * 2 ^ 16 + 1)]).rawStore 0x1000 64 (lcb % 2 ^ 512)
  { s.rawStore 0x1040 64 (lcb / 2 ^ 512) with tiles := s.tiles ++ [(256, { tlb := [mapEntry] })] }
def aRunOf (started : Bool) (shards : List Nat) : Run :=
  { tag := 1, lcb := BitVec.ofNat 8192 lcb, asid := 0, cls := 0, colour := 0, sub := 0,
    ents := [{ e := fixedEntry 4 }, { e := fixedEntry 4 }, { e := fixedEntry 4 }, { e := fixedEntry 0 }], rm := 0, shards := shards,
    started := started, next := 0 }
def leadRoot (r : Run) (h : Option Shard) : State :=
  { chainRoot.modEng 256 fun e => { e with leadq := [r], shard := h } with cur := { id := 0, pc := 0x4000, u := 256 } }
/-- ChainRuns: a run to queue, a breach; a run to start, with its chain unit free and in use; runs by id; one to complete. -/
theorem wit_chainRuns :
    (let s := chainRoot
     okIs (s.readLcb (s.xval 1)) (fun x => x.1.toNat == lcb && s.lcbBad x.1 == none && okIs (s.lcbEntries x.1) (fun _ => true) &&
       lw x.1 15 == 0 && (s.domTiles (lDom x.1)).headD 0 == 256 &&
       okIs (x.2.recTargets 256 0 (lRec x.1) (lFut x.1)) fun y => y.1 == none) = true ∧ (s.lcbBad 0).isSome = true) ∧
    (let s := leadRoot (aRunOf false []) none
     (s.tile s.cur.u).eng.leadq = [aRunOf false []] ∧ (aRunOf false []).next ≤ s.fab ∧ s.halts s.cur.u 0 = false ∧
     s.domTiles (lDom (aRunOf false []).lcb) = [256] ∧ (s.tile 256).eng.shard = none ∧
     okIs (s.namedRun (s.xval 2)) (fun x => x.isSome) = true ∧ okIs (s.namedRun (s.xval 2 + 1)) (fun x => x.isNone) = true) ∧
    ((leadRoot (aRunOf false []) (some { lead := 256, tag := 1, rank := 0 })).tile 256).eng.shard ≠ none ∧
    (let r := aRunOf true []
     let s := leadRoot r none
     s.runOver r = true ∧ okIs ((s.workFor r.sub r.colour).store { tid := 256, core := none, asid := 0, eng := true } (lRec r.lcb) 32
       (1 + 0x3D * 2 ^ 16))
       (fun x => x.1 == none && decide ((x.2.tile 256).eng.leadq = [r])) = true) := by decide +kernel
/-- ChainShards: a shard at each stage of its gate (its gate tile maps the lowest 64 KiB, too), of its claims, of its
dispatch and of its combine. -/
def shardRoot (h : Shard) (bucket : Nat) (jobs : List (Nat × JobSlot)) : State :=
  let s := leadRoot (aRunOf true [256]) (some h)
  { s with tiles := s.tiles ++ [(257, { tlb := [mapEntry], jobs := jobs, eng := { bucket := bucket } })] }
theorem wit_chainShards :
    let r := aRunOf true [256]
    let at_ (h : Shard) : Bool := decide ((shardRoot h 9 []).shardRun 256 = some (h, r))
    let h : Shard := { lead := 256, tag := 1, rank := 0 }
    let w (h : Shard) (b : Nat) : State := (shardRoot h b []).workFor r.sub r.colour
    let g (c i : Nat) (b : Option Nat) : Shard := { h with cols := c, gate := some (i, b) }
    (r.stop = false ∧ (shardRoot h 9 []).halts 257 0 = false ∧ gateTile 256 = 257 ∧ lE r.lcb = 1 ∧ lGroups r.lcb = 1 ∧
      (State.blockOf h r).2 = 1) ∧
    (at_ h = true ∧ h.round * r.shards.length + h.rank < lBlocks r.lcb ∧ at_ { h with round := 1 } = true ∧
      lBlocks r.lcb ≤ 1 * r.shards.length + h.rank ∧
      ((shardRoot h 9 [(0, { gen := 1, job := some (epiJob .running none) })]).jobsOf 257).any (fun e => e.2.st == .running) = true ∧
      ((shardRoot h 9 []).jobsOf 257).any (fun e => e.2.st == .running) = false) ∧
    (at_ (g 0 0 none) = true ∧ at_ (g 1 0 none) = true ∧ at_ (g 1 1 none) = true ∧ at_ (g 1 0 (some 1)) = true ∧
      ((w (g 1 0 (some 1)) 0).gateBeat 257 0 2).isNone = true ∧ ((w (g 1 0 (some 1)) 9).gateBeat 257 0 2).isSome = true) ∧
    (at_ (g 0 0 (some 0)) = true ∧ (w (g 0 0 (some 0)) 9).gateAlien 257 r 0 = none ∧
      okIs (State.gateColumn 257 r 0 (w (g 0 0 (some 0)) 9)) (fun _ => true) = true ∧
      (w (g 1 0 (some 0)) 9).gateAlien 257 r 1 = none ∧
      okIs (State.gateRow 257 r (State.gateJob r 0 1) 0 (w (g 1 0 (some 0)) 9)) (fun _ => true) = true) ∧
    at_ { h with st := .claim } = true ∧ at_ { h with st := .claim, group := 1 } = true ∧
    okIs (State.endRound 256 { h with st := .claim, group := 1 } r (w { h with st := .claim, group := 1 } 9)) (fun _ => true) = true ∧
    at_ { h with st := .dispatch, toks := [(0, [])] } = true ∧
    okIs (State.stageToken 256 r 0 [] (w { h with st := .dispatch, toks := [(0, [])] } 9)) (fun _ => true) = true ∧
    at_ { h with st := .dispatch } = true ∧ at_ { h with st := .combine, toks := [(0, [])] } = true ∧
    okIs (State.combineToken 256 r 0 [] ((w { h with st := .combine, toks := [(0, [])] } 9).engAcquire 256 .mo)) (fun _ => true) = true ∧
    at_ { h with st := .combine } = true := by decide +kernel
/-- Claims: counters at 0x400, their snapshot at 0x800; a claim of the V tile (0, 2); a claim at its port. -/
theorem wit_claims :
    (let s := root [(1, 0x400), (2, 0x800)]
     okIs (s.plainLines s.agent (s.xval 1) 2) (fun x => x.1 == [0x400, 0x440] &&
       okIs (x.2.plainLines x.2.agent (s.xval 2) 2) fun y => y.1 == [0x800, 0x840]) = true ∧ [0x400, 0x440, 0x800, 0x840].Nodup) ∧
    tileKind 0 ≠ .v ∧ tileKind 256 = .v ∧
    (let s := onTile 256 ((root [(1, 0x400), (2, 0x800)]).rawStore 0x400 8 (256 + 7 * 2 ^ 21))
     okIs (s.loadLines s.agent (s.xval 1) 3) (fun x => x.1 / 2 ^ 53 % 2 ^ 459 == 0 && !(s.domTiles (x.1 % 2 ^ 21)).isEmpty &&
       okIs (x.2.storable (s.xval 2) 4) fun _ => true) = true) ∧
    (let s := (root []).modEng 256 fun e => { e with claims := [{ id := some 0, dom := 256, tag := 7, dem := [], out := 0x800 }] }
     let s := { s with cur := { s.cur with u := 256 } }
     (s.tile s.cur.u).eng.claims = [{ id := some 0, dom := 256, tag := 7, dem := [], out := 0x800 }] ∧
     (s.tile s.cur.u).eng.outs = [] ∧ s.domTiles 256 = [s.cur.u] ∧
     (s.ctx 0).st = .ready) := by decide +kernel

/-! Reuse, tokens and power. -/

/-- Reuse: a reuse descriptor and one with a breach; entries that are free, held, in use, and of another ASID. -/
def arcDesc : Nat := 0x400 * 2 ^ 64 + 0x800 * 2 ^ 128 + 2 ^ 208
theorem wit_reuse :
    (let s := descRoot arcDesc
     (s.xval 1).toNat % 32 = 0 ∧ okIs (s.load s.agent (s.xval 1) 32) (fun x => x.1 == arcDesc && x.2.1 == none &&
       decide (x.2.2.ctxs = s.ctxs) && x.2.2.cur.id == s.cur.id && decide (∀ q ∈ x.2.2.quars, q.2.fwins = []) &&
       okIs (x.2.2.useEntry (x.1 / 2 ^ 208 % 32)) fun f => f.blk == 0 && decide (f.cbits ≤ 16)) = true ∧
     State.arcBad arcDesc = none ∧ (State.arcBad (2 ^ 64)).isSome = true ∧ (getD ({} : Arc) (s.tile 0).eng.arcs 0).held = false) ∧
    tileKind 0 = .d ∧ tileKind 256 = .v ∧
    (let s := (root []).modEng 0 fun e => { e with arcs := [(0, { held := true }), (1, { held := true, busy := 1 }), (2, { held := true, asid := 5 })] }
     let arc (k : Nat) : Arc := getD {} (s.tile 0).eng.arcs k
     (arc 0).held = true ∧ (arc 0).asid = s.myAsid ∧ (arc 0).busy = 0 ∧ (arc 1).busy ≠ 0 ∧ (arc 2).asid ≠ s.myAsid) := by decide +kernel
/-- Tokens: a term of two microseconds to the gated tile 4 of the zone; a tile without gate; a lender with too few tokens
and with enough, before a borrower with room and without; a live loan, one that is over, and one of other tiles; a broker
that a later tile was served by in this cycle. -/
def tokenRoot (g : Nat) : State := ((root [(1, 1), (2, 0x2_0000 + 4), (3, 2 ^ 6), (4, 2 ^ 6 + 1), (5, 2 ^ 6 + 2)]).modEng 0 fun e => { e with g := g }).modZone 0
  fun z => { z with loans := [(0, { gen := 1, live := true, lender := 0, borrower := 4, n := 1 }), (1, { gen := 1 }),
                              (2, { gen := 1, live := true, lender := 4, borrower := 8, n := 1 })] }
theorem wit_tokens :
    (tokenRoot 2).settled ∧ tileKind (tokenRoot 2).myTid ≠ .v ∧ ((tokenRoot 2).xval 2).toNat < 2 ^ 32 ∧
    ((tokenRoot 2).xval 2).toNat / 2 ^ 13 % 2 ^ 3 = 0 ∧ (tokenRoot 2).gated 4 = true ∧ zoneOf 4 = zoneOf 0 ∧ (tokenRoot 2).gated 256 = false ∧
    (tokenRoot 2).brokerFree 0 = true ∧ ((tokenRoot 2).modZone 0 fun z => { z with served := some (0, 4) }).brokerFree 0 = false ∧
    (let q := (tokenRoot 2).atBroker 0
     q.freeLoan 0 = some 1 ∧ 1 + q.underNotice 0 ≤ (q.tile 0).eng.g ∧ q.loansIn 4 + 1 + q.floorOf 4 + (q.tile 4).eng.g ≤ 255 ∧
     255 < q.loansIn 4 + 255 + q.floorOf 4 + (q.tile 4).eng.g ∧ (getD {} (q.zone 0).loans 0).live = true ∧
     (getD {} (q.zone 0).loans 0).gen = ((tokenRoot 2).xval 3).toNat / 2 ^ 6 % 2 ^ 10 ∧ (getD {} (q.zone 0).loans 1).live = false ∧
     ((tokenRoot 2).xval 5).toNat % 2 ^ 6 = 2 ∧ (getD {} (q.zone 0).loans 2).lender ≠ 0 ∧ (getD {} (q.zone 0).loans 2).borrower ≠ 0) ∧
    (((tokenRoot 0).atBroker 0).tile 0).eng.g < 1 + ((tokenRoot 0).atBroker 0).underNotice 0 :=
  ⟨⟨rfl, rfl⟩, by decide +kernel⟩
/-- TokenEvents: a gated tile, a loan at its term, a tile idle with tokens that are under no notice and with some that all
are, a notice at its end and one before it, a quota period, a suspension. -/
theorem wit_tokenEvents :
    let s := { tokenRoot 2 with fab := 200000 }
    let t (due : Nat) : State := (tokenRoot 2).modEng 0 fun e => { e with notes := [(2, due)], aclk := 64 }
    s.gated s.cur.u = true ∧ s.gated 256 = false ∧ (getD ({} : Loan) (s.zone s.cur.u).loans s.cur.v).ends ≤ s.fab ∧
    (getD ({} : Loan) (s.zone 0).loans 1).live = false ∧
    max (s.tile 0).eng.beatT (s.tile 0).eng.gT + 64 * 2000 ≤ s.fab ∧ (s.tile 0).eng.g - s.underNotice 0 ≠ 0 ∧
    ((t 0).tile 0).eng.g - (t 0).underNotice 0 = 0 ∧
    ((((t 0).tick 0).tile 0).eng.notes = [(2, 0)] ∧ 0 ≤ (((t 0).tick 0).tile 0).eng.aclk ∧ 2 ≤ (((t 0).tick 0).tile 0).eng.g) ∧
    (∀ x ∈ (((t 100).tick 0).tile 0).eng.notes, (((t 100).tick 0).tile 0).eng.aclk < x.2) ∧ (s.space 0).qnext ≤ s.fab ∧
    (let u := (root []).modSpace 0 fun p => { p with susp := true }
     (u.space (u.ctx 0).asid.toNat).susp = true ∧ (u.ctx 0).st = .ready ∧ (u.ctx 0).wait = .none ∧ (u.ctx 0).answer = .none ∧
     (u.ctx 0).capt = false ∧ (u.ctx 0).susp = false ∧ u.freePager (idTid 0) = none) := by decide +kernel
/-- Power: no ramp and a ramp, an evaluation that is due and one that comes too early, HBM states, a channel that retrains
and the last one, a bank without owner that may lose power. -/
theorem wit_power :
    let s := { (root []).modQuarry 0 fun q => { q with chg := some (1, 31, 0) } with fab := 400000 }
    let early := (root []).modChip 0 fun c => { c with pow := { c.pow with eval := some 0 } }
    ((root []).chip 0).pow.ramp = none ∧ (s.chip 0).pow.eval = none ∧ (s.chip 0).pow.since.getD 0 + 200 * 2000 ≤ s.fab ∧
    ((early.chip 0).pow.eval = some 0 ∧ early.fab < 0 + 2000) ∧ (root []).fab < ((root []).chip 0).pow.since.getD 0 + 400000 ∧
    (s.quarry s.cur.u).chg = some (1, 31, 0) ∧ (s.quarry 0).pend = none ∧ (s.quarry 1).chg = none ∧ (s.quarry 1).hbm ≠ 1 ∧
    (3 : Word).toNat % 4 = 3 ∧
    (((root []).modChip 0 fun c => { c with pow := { c.pow with ramp := some (1, 0) } }).chip 0).pow.ramp = some (1, 0) ∧
    (let b := onTile 1 ((root []).modTile 0 fun t => { t with banks := [(4, { mode := .scratch, lose := true })] })
     let c := { b with cur := { b.cur with u := 1 } }
     ((c.tile c.cur.u).bank 4).lose = true ∧ c.coreLive (c.cur.u + 4 / 4 * 2 ^ 13) = false ∧ c.bankNamed c.cur.u 4 = false) := by
  decide +kernel

/-! System registers, the context window, translation, address spaces, pre-emption. -/

/-- Privilege and SystemRegisters: an unprivileged context and a privileged selector; a selector that reads, and one that
names no register. -/
theorem wit_privilege : (plain []).priv = false ∧ (0x8410 : BitVec 16).getLsbD 15 = true ∧ (0x10 : BitVec 16).getLsbD 15 = false ∧
    (root []).me.accs = [] ∧ (let s := (root []).modMe fun c => { c with accs := [default] }
      s.me.accs ≠ [] ∧ s.cur.src = none ∧ s.me.pend = []) ∧ ((root []).sysRead 0 0x40).isSome = true ∧ ((root []).sysWrite 0 0x40 0).isSome = true ∧ (root []).sysRead 0 0x7FF = none := by
  decide +kernel
/-- ContextWindow and ReturnFromFault: context 1 of core 1 FAULTED at 0x4000, and a context 0 that may end; a FREE one. -/
def faulted (id : Nat) : State := (root [(1, W id), (2, 0x4000)]).setCtx id { st := .faulted, pc := 0x4000 }
theorem wit_window : (faulted (2 ^ 13)).settled ∧ (faulted (2 ^ 13)).priv = true ∧ (faulted (2 ^ 13)).relGate = .ok () ∧
    namesContext (faulted (2 ^ 13)) ((faulted (2 ^ 13)).xval 1) ∧ ¬namesContext (faulted (2 ^ 20)) ((faulted (2 ^ 20)).xval 1) ∧
    ((faulted (2 ^ 13)).ctx (2 ^ 13)).st = .faulted ∧ ((faulted (2 ^ 13)).ctx 7).st = .free := by
  refine ⟨⟨rfl, rfl⟩, by decide +kernel, ?_, by unfold namesContext; decide +kernel, by unfold namesContext; decide +kernel, by decide +kernel⟩
  obtain ⟨u, h⟩ := okOf (show okIs (faulted (2 ^ 13)).relGate (fun _ => true) = true by decide +kernel)
  exact h
theorem wit_return :
    (let c := (faulted (2 ^ 13)).ctx (2 ^ 13)
     Bits c.pc 60 4 = 0 ∧ Bits c.pc 3 3 = 0 ∧ Bits c.pc 0 3 ≤ 4 ∧ c.l0.armed = false ∧ c.pend = [] ∧ c.child = 0 ∧ c.status = [] ∧
     c.late = none ∧ idCtx (2 ^ 13) = 0 ∧ c.accs = [] ∧ c.pcset = false) ∧ Bits (0x4005 : Word) 0 3 = 5 ∧
    (let s := ((faulted (2 ^ 13)).setCore (2 ^ 13) ((faulted (2 ^ 13)).core 0)).modCtx (2 ^ 13) fun c => { c with pcset := true }
     let c := s.ctx (2 ^ 13)
     c.st = .faulted ∧ c.pcset = true ∧
     okIs (s.legal (2 ^ 13) c.asid c.pc (s.encInfo 0 false)) (fun t => decide (t.ctxs = s.ctxs)) = true ∧
     (faultOf (s.legal (2 ^ 13) c.asid 0x4005 (s.encInfo 0 false))).isSome = true) ∧
    (let s := (faulted (2 ^ 13)).setCore (2 ^ 13) ((faulted (2 ^ 13)).core 0)
     okIs (s.legal (2 ^ 13) 0 (s.xval 2) (s.encInfo 0 false)) (fun t => decide (t.ctx (2 ^ 13) = s.ctx (2 ^ 13))) = true) ∧
    (faultOf ((faulted (2 ^ 13)).legal (2 ^ 13) 0 0x4005 0)).isSome = true ∧
    (((faulted (2 ^ 13)).modCtx (2 ^ 13) fun c => { c with child := 2 }).ctx (2 ^ 13)).child ≠ 0 := by decide +kernel
/-- Translations: an address on path 0; an ASID without a profile and one with; an address whose translation is found and one
whose walk faults. -/
theorem wit_translation : Bits (0x4000 : Word) 60 4 = 0 ∧ (root []).profile 5 = none ∧ ((root []).profile 0).isSome = true ∧
    (let s := { root [] with mem := [] }
     let s := (s.rawStore 0 8 0).modSpace 0 fun p => { p with prof := p.prof }
     (faultOf (s.leafFor { tid := 0, core := some 0, asid := 5 } 0 .load)).isSome = true) ∧
    okIs ((root []).leafFor { tid := 0, core := some 0, asid := 0 } 0x100 .load) (fun x =>
      okIs (x.2.setDirty { tid := 0, core := some 0, asid := 0 } x.1 0x100 .load) fun _ => true) = true := by decide +kernel
/-- EndOfPageFault: an owned and ARMED future that no page fault names. -/
theorem wit_pgdone : (memRoot.rawStore 0x100 8 (2 ^ 62 + 1)).priv = true ∧
    okIs (State.futSite (memRoot.rawStore 0x100 8 (2 ^ 62 + 1)) memRoot.agent .store (memRoot.xval 1)) (fun x => x.1 == 0x100 &&
      ((x.2.release x.2.myCore .sy).pushHome x.2.myCore 4).pagerFault 1 == none) = true := by decide +kernel
/-- AddressSpaces: a legal profile and a breach; an ASID that is bound, one that is not, one that is carried. -/
def profRoot (v : Nat) : State := (root [(1, 0x400)]).rawStore 0x400 64 v
theorem wit_spaces :
    okIs ((profRoot 0).readProfile ((profRoot 0).xval 1)) (fun x => State.profileBad x.1 == none && x.2.profile 5 == none &&
      (x.2.profile 0).isSome) = true ∧
    okIs ((profRoot (2 ^ 63)).readProfile ((profRoot (2 ^ 63)).xval 1)) (fun x => (State.profileBad x.1).isSome) = true ∧
    (profRoot 0).asidCarried 5 = false ∧ ((profRoot 0).modCtx 0 fun c => { c with asid := 5 }).asidCarried 5 = true ∧
    ((profRoot 0).modSpace 5 fun p => { p with prof := some 0 }).profile 5 ≠ none := by decide +kernel
/-- Preemption: a malformed request, a unit of nothing, a request that starts, one that ends; a context to capture and one that
waits; areas that hold no unit. -/
theorem wit_preemption :
    (let s := root [(4, W (2 ^ 18)), (5, 0x8000), (6, 0x10_0000)]
     find s.cur.id s.pres = none ∧ preBad (s.xval 4) (s.xval (xnext 4)) (s.xval (xnext (xnext 4))) = false ∧
     preBad (s.xval 4) 1 (s.xval (xnext (xnext 4))) = true ∧ s.unitIds (s.xval 4) = none ∧ s.unitAt 0x8000 = none ∧
     okIs ((s.setCtx (2 ^ 16) { st := .ready }).preStart (s.xval 4) (s.xval 5) (s.xval 6)) (fun x => okIs x (fun _ => true)) = true) ∧
    (let s := root [(4, W (2 ^ 18)), (5, 0x8000), (6, 0x10_0000)]
     let s := { s.setCtx (2 ^ 16) { st := .ready, capt := true, taken := true } with pres := [(0, { ids := [2 ^ 16], tiles := [], mask := none })] }
     (find s.cur.id s.pres).isSome = true ∧ (s.ctx (2 ^ 16)).taken = true ∧
     ((find s.cur.id s.pres).map fun p => (s.preEnd (s.xval 4) 0x8000 0x10_0000 p).1) = some 0 ∧
     okIs (s.resumeUnit 0x8000 0) (fun _ => true) = true) ∧
    (let c : Ctx := { st := .ready, capt := true }
     c.capt = true ∧ c.taken = false ∧ (root []).canCapture c = true ∧ (root []).canCapture { c with st := .parked, wait := .capture 0 } = false) ∧
    (0x8000 : Word).toNat % 4096 = 0 ∧ (0x8001 : Word).toNat % 4096 ≠ 0 := by decide +kernel

/-! Errors, dumps, the host, start and mailbox. -/

/-- ErrorsAndDumps: a module without a trigger, one with; a FREE context, one with a result on its way; a running job. -/
theorem wit_errors : (root [(1, 7)]).norb.trig = none ∧ (root []).norb.halted = false ∧ ((root [(1, 7)]).xval 1).toNat < 2 ^ 32 ∧
    (root []).superTile (chipOf 3) = some 0 ∧ ((root []).ctx 0).st ≠ .free ∧ ((root []).ctx 0).pend[0]? = none ∧
    ((root []).ctx 0).late = none ∧ ((root []).ctx 1).st = .free ∧ ((awaiting none).ctx 0).pend[0]?.isSome = true ∧
    (((jobRoot (epiJob .running none)).tile 0).slot 0).job = some (epiJob .running none) := by decide +kernel
/-- HostAccess: memory exposed and not; a window that is on and one that is off; the slots 62 and 63. -/
theorem wit_host :
    (let h : Word := 3
     (if Bit h 0 then Bits h 1 12 * 2 ^ 30 else 0) = 2 ^ 30 ∧ 0 + 64 ≤ 2 ^ 30 ∧ 2 ^ 30 < 0x30000000000) ∧
    (root []).hdmcfg = 0 ∧ (root []).superTile 31 ≠ none ∧ Bit (getD ({} : LaunchWin) ((root []).chip 31).win 2).cfg 10 = false ∧
    Bit (1024 : Word) 10 = true ∧ (List.replicate 64 (0 : Byte)).length = 64 := by decide +kernel
/-- R452, R454: slot 63 of window 2 of chiplet 31 shows LWSTAT, whose FREE is 64; slot 5 reads 0. -/
theorem test_host_read : (root []).hostRead 0x300000FAFC0 = 64 ∧ (root []).hostRead 0x300000FA140 = 0 := by decide +kernel
/-- StartAndMailbox: an empty log; page arguments; a launch that waits to be sent again. -/
theorem wit_start : (root []).norb.log = [] ∧ (root []).norb.dumpv = false ∧ inGrid 0x486 = true ∧
    (root []).norb.trig = none ∧ (root []).norb.failed = false ∧ (root []).norb.status ≠ .busy ∧
    { root [] with agenda := [.mailboxEnd] }.agenda = .mailboxEnd :: [] ∧
    ((arriving (.window 0 0) (some 0)).flights[0]?).any (fun f => f.resend == some 0 && f.org == .window 0 0) = true := by decide +kernel

/-- R463: a write of 2 to CMD empties the log and leaves STATUS at 1; with the command's end it is 0. -/
theorem test_bar : (match (root []).hostMove (.barStore 0 2) with
      | .next t => t.norb.log == [] && State.barWord t.norb 0x10 == 1 && State.barWord t.mailboxEnd.norb 0x10 == 0 &&
        State.barWord t.norb 0 == 2
      | _ => false) = true := by decide +kernel
/-- R451: the host reads back what it wrote into its own memory. -/
theorem test_hostOwn : ((root []).hostOwnWrite 0x40 [7]).hostOwnRead 0x40 1 = [7] := by decide +kernel

/-- The release gate is open in the states that the statements about releases are witnessed by. -/
theorem wit_gates : ∀ s ∈ [root [], parent, waitRoot, gangRoot 2, sendRoot, descRoot 0, sparseRoot 0, profRoot 0, launchRoot 0],
    okIs s.relGate (fun _ => true) = true := by decide +kernel

/-! What units do by themselves, and the whole machine. -/

/-- RingService: a waiting claim with a free slot, a waiting take with a filled one of the same NFM and of the other. -/
def servedRing (nfm : Bool) : State := { filledRing.modRing 0 1 fun r =>
  { r with freeN := 1, claims := [.claim 0 0x1000_0000_0002_0000], takes := [.take 0 0x1000_0000_0002_0000],
           slots := put 1 { st := .filled, nfm := nfm } r.slots } with cur := { u := 0, v := 1 } }
theorem wit_ringService : ((servedRing false).ring 0 1).claims ≠ [] ∧ ((servedRing false).ring 0 1).freeN ≠ 0 ∧
    ((servedRing false).ring 0 1).takes ≠ [] ∧ ((servedRing false).ring 0 1).filled ≠ 0 ∧
    (((servedRing false).ring 0 1).slot 1).nfm = (servedRing false).profNfm 0 ∧
    (((servedRing true).ring 0 1).slot 1).nfm ≠ (servedRing true).profNfm 0 := by decide +kernel
/-- Arrivals: a record whose JOIN is 2, 1 and 0; a child of a record in use and of one that is not; a release in time and
before it; a context that waits for a line. -/
def delivering (join : Nat) : State := { memRoot.rawStore 0x108 8 (join * 2 ^ 48 + 2 ^ 13) with
  delivs := [{ home := 0x100, k := 5, value := 7, asid := 0, colour := 0 }], kids := [{ ptid := 0, pidx := 3, asid := 0, vop := 0, value := 0 }],
  trees := [{ tid := 0, idx := 3, value := 0, vop := 0, due := 0 }] }
theorem wit_arrivals :
    (delivering 2).delivs[(delivering 2).cur.u]?.isSome = true ∧ futAt (delivering 2) 0x100 1 / 2 ^ 48 = 2 ∧
    futAt (delivering 1) 0x100 1 / 2 ^ 48 = 1 ∧ (delivering 1).live (futAt (delivering 1) 0x100 1 % 2 ^ 13) = true ∧
    (delivering 1).isSuper (futAt (delivering 1) 0x100 1 % 2 ^ 16) = false ∧ futAt (delivering 0) 0x100 1 / 2 ^ 48 = 0 ∧
    (let b := ((delivering 0).setBar 0 3 { memb := 2, use := true, chn := 1, fire := true, root := (0, 3) }).bar 0 3
     b.use = true ∧ b.cha < b.chn ∧ b.arr ≠ b.memb ∧ b.fire = true ∧ b.root = (0, 3)) ∧ ((delivering 0).bar 0 3).use = false ∧
    (delivering 0).trees[(delivering 0).cur.u]?.isSome = true ∧ 0 ≤ (delivering 0).fab ∧
    (((root []).modCtx 0 fun c => { c with st := .parked, wait := .line 0x100 }).ctx 0).wait = .line 0x100 := by decide +kernel
/-- StepRunsDecoded: the state that withFetchWord leaves meets the premises, for the word of an addition, with a guard that
is met and with one that is not. -/
def fetched (pg : PReg) : State :=
  let w := (encode { sw := false, gap := 0, hint := .none, pg := pg, pn := false } (.add 3 1 2 .i64 false)).getD 0
  State.reset.withFetchWord 96 w
theorem wit_step : ∀ pg ∈ ([0, 1] : List PReg),
    let s := fetched pg
    let k := s.ctx 0
    let line := (find 0x100 (s.core 0).l1i).getD 0
    (s.norb.halted = false ∧ s.live 0 = true ∧ s.agenda = [.cycle 0] ∧
      (({ s with agenda := [] }.modCore 0 fun k => { k with cyc := k.cyc + 1 }).wake 0).pickCtx 0 = some 0) ∧
    (k.wait = .none ∧ k.answer = .none ∧ k.held = none ∧ k.inc = false ∧ k.pend = [] ∧ k.accs = [] ∧ k.seen = [] ∧ k.before = none ∧
      k.alone = false ∧ k.brk = none ∧ k.pc.toNat < 2 ^ 57 ∧ Bits k.pc 3 3 = 0 ∧ k.pc.toNat % 8 ≤ 4) ∧
    (State.tlbFind (s.core 0).tlb k.asid (Bits (linePc k.pc) 0 57)).any (fun e => Bit e.leaf 3 && !Bit e.leaf 8 &&
      (Bits e.leaf 12 45 * 2 ^ 12 + Bits (linePc k.pc) 0 57 % e.size) / 64 == 0x100) = true ∧
    lineWordParityOk line.toNat = true ∧ slotParityOk line.toNat 0 = true ∧ lineWordBad line.toNat = none ∧
    0 ∉ pairFirsts (linePair line.toNat) ∧
    ((decodeSlot (lineSlot line.toNat 0)).toOption.any fun x => x.hdr.pg == pg && x.op == .add 3 1 2 .i64 false) = true ∧
    s.isSuper 0 = true ∧ ((if pg.val = 0 then true else k.p.get pg) != false) = decide (pg = 0) := by decide +kernel
/-- LineCompletion: an address of memory that the core maps, a byte of a SCRATCH bank, a context with nothing outstanding, and
a CACHE bank of its core. -/
theorem maps_mem : mapsTo memRoot (memRoot.addrOf (opAt 1)) 0x100 (fun l => Bit l 1 || Bit l 2 || Bit l 3) :=
  ⟨by decide +kernel, by decide +kernel, mapEntry, by decide +kernel⟩
theorem wit_lineCompletion : memRoot.settled ∧ nothingOwed memRoot.me ∧ (memRoot.addrOf (opAt 2)).toNat / 2 ^ 22 = 2 ^ 38 ∧
    ((memRoot.tile memRoot.myTid).bank ((memRoot.addrOf (opAt 2)).toNat % 2 ^ 22 / 2 ^ 17)).mode = .scratch ∧
    ((memRoot.tile memRoot.myTid).bank 0).asid = memRoot.myAsid ∧ (2 : Fin 32).val / 4 = idCore memRoot.cur.id ∧
    (memRoot.tile memRoot.myTid).eng.wins = [] ∧ ((memRoot.tile memRoot.myTid).bank 2).mode = .cache :=
  ⟨mem_settled, by unfold nothingOwed; decide +kernel, by decide +kernel⟩
/-- TranslationCompletion: a core whose tile alone holds a translation, and a future that is ARMED and owned. -/
def armedRoot : State := memRoot.rawStore 0x100 8 (2 ^ 62 + 1)
theorem wit_translationCompletion : armedRoot.settled ∧ armedRoot.priv = true ∧ nothingOwed armedRoot.me ∧
    (let s := armedRoot.modCore 0 fun k => { k with tlb := [] }
     (s.profile 0).isSome = true ∧ State.tlbFind (s.core 0).tlb 0 0x4000 = none ∧
     State.tlbFind (s.tile (idTid 0)).tlb 0 0x4000 = some mapEntry ∧ Bit mapEntry.leaf 3 = true ∧ Bit mapEntry.leaf 8 = false) ∧
    mapsTo armedRoot (armedRoot.xval 1) 0x100 (fun l => Bit l 2 && Bit l 6) ∧ (armedRoot.xval 1).toNat % 32 = 0 ∧
    armedRoot.underFwin 0x100 32 = false ∧ (armedRoot.core armedRoot.myCore).l1d = [] ∧ (armedRoot.tile armedRoot.myTid).l2 = [] ∧
    futAt armedRoot 0x100 0 % 2 ^ 32 ≠ 0 ∧ futAt armedRoot 0x100 0 / 2 ^ 62 = 1 ∧ armedRoot.pagerFault (futAt armedRoot 0x100 0 % 2 ^ 32) = none :=
  ⟨settled_of (by decide +kernel), by decide +kernel, by unfold nothingOwed; decide +kernel, by decide +kernel,
    ⟨by decide +kernel, by decide +kernel, mapEntry, by decide +kernel⟩, by decide +kernel⟩
/-- RefusedEncodings: words of each kind. -/
theorem wit_refused : (0x08 * 2 ^ 88 : Nat) < 2 ^ 96 ∧ assignedOp 0x08 = false ∧ assignedOp 0x20 = true ∧
    (0x20 * 2 ^ 88 + 3 * 2 ^ 83) / 2 ^ 83 % 4 = 3 ∧ ¬(0x10 ≤ 0x20 ∧ 0x20 ≤ 0x1A) ∧ (0x20 * 2 ^ 88 + 2 ^ 79) / 2 ^ 79 % 16 = 1 := by decide
/-- DecodeEncodeCore and DecodeEncodeUnits: a scalar and a vector instruction under a guard. -/
theorem wit_decodeEncode :
    let h : Header := { sw := true, gap := 2, hint := .none, pg := 3, pn := true }
    (encBody (.add 3 1 2 .i32 true)).any (fun x => decide (x.1 < 0x70) && assignedOp x.1 && h.wf x.1) = true ∧
    (Instr.add 3 1 2 .i32 true).wf = true ∧ (encode h (.add 3 1 2 .i32 true)).isSome = true ∧
    (encBody (.vfadd 3 1 (.vec 2) 2 1 .rne false)).any (fun x => decide (0x70 ≤ x.1) && assignedOp x.1 && h.wf x.1) = true ∧
    (encode h (.vfadd 3 1 (.vec 2) 2 1 .rne false)).isSome = true := by decide +kernel
/-- HaltedModule: a halted module whose move is a core's. -/
theorem wit_halted : let s := { root [] with norb := { halted := true }, agenda := [.cycle 0] }
    s.norb.halted = true ∧ s.takeMove.1 = .cycle 0 ∧ s.norb.trig = none ∧
      ¬∃ i u v, s.takeMove.1 = .event i u v ∧ State.actsHalted s.norb i = true :=
  ⟨rfl, rfl, rfl, fun ⟨_, _, _, h, _⟩ => by cases h⟩
/-- MemoryForm: a state in canonical form that steps. -/
def stepsOn (s : State) : Bool :=
  match step s with
  | .next _ => true
  | _ => false
theorem wit_memoryForm : (fetched 0).memOk ∧ stepsOn (fetched 0) = true := by unfold State.memOk; decide +kernel

/-! ### More single steps -/

/-- 08, worked ring: the descriptor that RSTAT reads with three free slots, one filled and claim index 1. -/
theorem test_rstat : (ranFrom (memRoot.modRing 0 1 fun _ => { count := 4, slotsz := 2, freeN := 3, filled := 1, claimI := 1 })
    (.rstat 13 3)).pend.map (·.wr) = [.x 13 0x0800_0010_0400_1003] := by decide +kernel
/-- R94, R427: TRAP leaves the context FAULTED at its PC. -/
theorem test_trap : (ran {} (.trap 5)).st = .faulted ∧ (ran {} (.trap 5)).pc = 0x4000 := by decide +kernel
/-- R64, R65: an unassigned major, fetched by the step, leaves the context FAULTED. -/
theorem test_unassigned : (ran {} (.unassignedMajor (BitVec.ofNat 96 (0x08 * 2 ^ 88)))).st = .faulted := by decide +kernel
/-- R99, R86: LOOPI with the next slot as its body and its end arms set 0. -/
theorem test_loopi : (ranFrom (rootAt 2 []) (.nop)).pc = 0x4001 ∧
    (match exec (.loopi 0 3 0 1) (rootAt 2 []) with
     | .next t => t.me.l0 == { lc := 3, ls := 0x4001, le := 0x4001, armed := true }
     | _ => false) = true := by decide +kernel
/-- R191, R178: a store of eight bytes, and the load that follows it in the same core. -/
theorem test_store_load : (match exec (.st 1 (opAt 1) 3 ⟨.ti, .plain, 0⟩) memRoot with
     | .next t => (List.range 8).map (fun k => (t.seenByte 0 (0x100 + k)).toNat) == [0, 1, 0, 0, 0, 0, 0, 0]
     | _ => false) = true := by decide +kernel
/-- R426: SGET of CSTAT in a privileged context, SSET of SRKEY. -/
theorem test_sysreg : (ran {} (.sget 9 0x10)).pend.map (·.wr) = [.x 9 0x400] ∧
    (ran { x := (Vector.replicate 64 (0 : Word)).set 1 7 } (.sset 1 0x40)).srkey = 7 := by decide +kernel

end
end

section
/-! PROOFS. The state after reset: what each accessor reads there, and the statement about it.

A key that a list of the state does not hold stands for the record as bring-up leaves it, so every record but the address
space 0 is the default one. -/

namespace Sys2Proof.Machine
namespace State

/-! ### What the accessors read after reset -/

theorem reset_live (tid : Nat) : reset.live tid = inGrid tid := by simp [live, reset]

@[simp] theorem reset_ctx (id : Nat) : reset.ctx id = {} := rfl
@[simp] theorem reset_core (k : Nat) : reset.core k = {} := rfl
@[simp] theorem reset_tile (tid : Nat) : reset.tile tid = {} := rfl
@[simp] theorem reset_chip (ci : Nat) : reset.chip ci = {} := rfl
@[simp] theorem reset_zone (z : Nat) : reset.zone z = {} := rfl
@[simp] theorem reset_quarry (q : Nat) : reset.quarry q = {} := rfl
@[simp] theorem reset_norb : reset.norb = {} := rfl

@[simp] theorem default_tile_bank (b : Nat) : ({} : Tile).bank b = {} := rfl

@[simp] theorem reset_space_zero : reset.space 0 = { prof := some 0 } := rfl

theorem reset_space_other {a : Nat} (h : a ≠ 0) : reset.space a = {} := by
  simp [space, reset, getD, find, h.symm]

/-- R407, R460: bring-up binds ASID 0 and no other. -/
theorem reset_profile_isSome_iff (a : BitVec 10) : (reset.profile a).isSome = true ↔ a = 0 := by
  by_cases h : a = 0
  · simp [h, profile]
  · have ha : a.toNat ≠ 0 := fun e => h (BitVec.eq_of_toNat_eq e)
    simpa [profile, reset_space_other ha] using h

/-! ### The statement -/

/-- Settles O53: the default records carry the values of R460, and the one list that is not empty binds ASID 0. -/
theorem resetState : Obligations.ResetState := by
  unfold Obligations.ResetState
  refine ⟨reset_live, ?contexts, ?banks, reset_profile_isSome_iff, ?budgets, ?hbm, ?chiplets, ?queues, rfl, rfl, rfl,
    ?mailbox, ?running, reset_memOk⟩
  case contexts => intro id; rw [reset_ctx]
  case banks => intro tid b; simp only [reset_tile, default_tile_bank, and_self]
  case budgets => intro z; rw [reset_zone]
  case hbm => intro q; rw [reset_quarry]
  case chiplets => intro ci; simp only [reset_chip, and_self]
  case queues => intro k; rw [reset_core]
  case mailbox => rw [reset_norb]
  case running => rw [reset_norb]

end State
end Sys2Proof.Machine
end
